-- ==== Sys2Proof/Word.lean ====
section
/-! DEFINITION. The words of the machine: 64-bit registers, 32-bit lanes, bytes, and rows of 64 lanes. -/

namespace Sys2Proof

/-- A 64-bit control-processor word (R95). -/
abbrev Word := BitVec 64

/-- A byte. -/
abbrev Byte := BitVec 8

/-- A 32-bit lane, instruction word or micro-word. -/
abbrev Lane := BitVec 32

/-- A row: 64 lanes of 32 bits (R54, R74). Lane `l` occupies bits `32 l + 31 : 32 l`, so element `e` of
width `w` of every format of R74, and of the MX element string of R82, is bits `w e + w - 1 : w e`. -/
abbrev Row := BitVec 2048

end Sys2Proof
end

