-- ==== Sys2Proof/Config.lean ====
section
/-! DEFINITION. What an implementation fixes and what the spec leaves open: constants without a body, so that no proof can see a
value. Each is applied to the operands it depends on, or to the counter `State.draws`. -/

namespace Sys2Proof.Config

/-- A byte that the spec gives no value: read under a key that is not the reader's (R258), from a linked device
(R280). Log entries 5 and 11. -/
opaque freeByte : Nat → Nat → Byte

/-- A byte that the loader or the monitor has written for a domain before handing it over, where the spec states no value: the
domain's key, the key under which the byte was last written otherwise, its place as the domain has it: its address, or in CP data
memory kernel, die, place or point, and offset (R258). Log entry 5. -/
opaque handedByte : Nat → Nat → Nat → Byte

/-- The SHA-384 digest of a byte string (R32, R283, R284); the function is fixed outside the spec. Log entry 9. -/
opaque sha384 : List Byte → BitVec 384

/-- Whether an ECDSA P-384 signature (two 48-byte integers) by the key of a digest verifies over a digest (R32).
Log entry 9. -/
opaque verifies : BitVec 384 → BitVec 384 → List Byte → Bool

/-- A section's bytes after the loader has applied the RELOC sections, whose layout the spec does not give (R29): the
RELOC bytes, the index of the section, the device addresses of the DEVDATA images, the bytes. Log entry 9. -/
opaque relocate : List Byte → Nat → List Word → List Byte → List Byte

/-- The bytes of an SPDM response, whose contents R284 leaves to DMTF SPDM 1.3. Log entry 10. -/
opaque spdmResponse : Nat → List Byte

/-- An SLI code for a result that the interval evaluation of `Machine/Sli.lean` could not separate with its fuel.
Log entry 8. -/
opaque freeCode : Nat → Nat

/-- Whether the save pool that the monitor reserves for a domain, with so many bytes of images in it, has room for an image whose
parts with a layout take so many bytes more (R328). Log entry 34. -/
opaque savePoolHolds : BitVec 6 → Nat → Nat → Bool

/-- FWMIN, the monitor's minor version (R279), fixed by the device. -/
opaque firmwareMinor : Byte

/-- DOE instance number (R279), fixed by the device. -/
opaque doeInstance : BitVec 16

/-- The bytes of the image of a start-up stage: 1 ROM, 2 the first stage, 3 the monitor (R283, R284). Log entry 10. -/
opaque bootImage : Nat → List Byte

/-- The domain that the monitor has bound to a device link (R280). Log entry 11. -/
opaque linkDomain : BitVec 4 → BitVec 6

end Sys2Proof.Config
end

