-- ==== Sys2Proof/Syntax.lean ====
section
/-! DEFINITION. The instructions, micro-operations and events of the part: one constructor of `Instr` for every row
of the table of operations (R101 to R109, R225, and the steps of 95_what_each_step_holds.md). -/

namespace Sys2Proof

/-- The number of an x register (R95). -/
abbrev Reg := BitVec 5

/-- The number of a predicate register (R95). -/
abbrev Pred := BitVec 4

/-- The number of a predicate pair: `pd = 2 n` (R95, R123). -/
abbrev PredPair := BitVec 3

/-- The number of a signal (R54). -/
abbrev SigNum := BitVec 6

/-- The number of a descriptor register (R159). -/
abbrev DescNum := BitVec 3

/-- The number of a tenant domain (R11). -/
abbrev DomNum := BitVec 6

/-- A core, 0 to 319 (R7). -/
abbrev CoreId := Fin 320

/-- A hardware context of the package: context `ctx` of core `core` (R7, R8). -/
structure CtxId where
  core : CoreId
  ctx : Fin 4
  deriving DecidableEq, Repr

/-- The token fields of an extension word (R105): the produced token and up to three consumed tokens. -/
structure Tokens where
  kp : BitVec 4
  kc0 : BitVec 4
  kc1 : BitVec 4
  kc2 : BitVec 4
  deriving DecidableEq, Repr

/-- An extension word whose EXOP is reserved, 0 (R105, R151). -/
abbrev Ext := Tokens

/-- The fields of a `ckpt`: the register of its mask, and the reserved Q and I15, whose misuse is a fault of the instruction's
own (R341, R343). -/
structure CkptFields where
  d : Reg
  q : Bool := false
  i : BitVec 15 := 0
  deriving DecidableEq, Repr

/-- One of a domain's range entries: its four words (R251). -/
structure RangeEntry where
  vbase : Word
  vlimit : Word
  pbase : Word
  attr : Word
  deriving DecidableEq, Repr

/-- What CREATE supplies for a domain (R285). `fqSize` is the FQSIZE of R323; `windows` are the numbers of the
1 GiB CXL.mem windows bound to the domain (R272). -/
structure DomainSpec where
  dom : DomNum
  root : Word
  ranges : List (BitVec 6 × RangeEntry)
  signed : Bool
  digests : List (BitVec 384)
  fqAddr : Word
  fqSize : BitVec 8
  windows : List Nat
  deriving DecidableEq, Repr

/-- The operands of QCFG: words 0 and 1 of a queue block, the SYS fields (R274, R282). -/
structure QueueCfg where
  rbase : Word
  word1 : Word
  deriving DecidableEq, Repr

/-- The store that a data error names: those of R348 in the order of their codes, and an HBM stack (R340). -/
inductive StoreKind where
  | cpMem | signal | accumulator | plane | hold | registers | shadow
  | hbm (stack : Fin 8)
  deriving DecidableEq, Repr

/-- The access that a host access error meets (R339): the outstanding read of a context, a write in flight
(by its place in the list of writes in flight), the unit of the command in progress on an engine, the read of a queue's head record, or
the record that a context's `launch` copies. -/
inductive AccessRef where
  | read (c : CtxId)
  | posted (k : Nat)
  | stream (n : CoreId) (e : Fin 6)
  | ring (q : BitVec 7)
  | launch (c : CtxId)
  deriving DecidableEq, Repr

/-- The instruction set: the slots of a bundle (with guard `g`, squash mark `q`, operand fields, and for class E the
extension word `x`), the micro-operations of the matrix array, and the events by which the part's other agents act. -/
inductive Instr where
  /-- NOP: No-operation slot in any class; with all operand fields zero it has no effect but counts as a slot. (R137) -/
  | nop (g : Pred) (q : Bool) (x : Option Ext)
  /-- ADD: xD := xA + xB modulo 2^64. (R117) -/
  | add (g : Pred) (q : Bool) (d a b : Reg)
  /-- SUB: xD := xA − xB modulo 2^64. (R117) -/
  | sub (g : Pred) (q : Bool) (d a b : Reg)
  /-- ADDI: xD := xA + sext(I10) modulo 2^64. (R119) -/
  | addi (g : Pred) (q : Bool) (d a : Reg) (i : BitVec 10)
  /-- MUL: xD := low 64 bits of xA × xB, latency 3. (R117) -/
  | mul (g : Pred) (q : Bool) (d a b : Reg)
  /-- MULH: xD := high 64 bits of the signed 128-bit product. (R117) -/
  | mulh (g : Pred) (q : Bool) (d a b : Reg)
  /-- MULHN: xD := high 64 bits of the unsigned 128-bit product. (R117) -/
  | mulhn (g : Pred) (q : Bool) (d a b : Reg)
  /-- DIV: Signed quotient truncated toward zero, with defined results for zero and overflow divisors. (R118) -/
  | div (g : Pred) (q : Bool) (d a b : Reg)
  /-- DIVN: Unsigned quotient, all ones on division by zero. (R118) -/
  | divn (g : Pred) (q : Bool) (d a b : Reg)
  /-- REM: Signed remainder with the sign of xA. (R118) -/
  | rem (g : Pred) (q : Bool) (d a b : Reg)
  /-- REMN: Unsigned remainder. (R118) -/
  | remn (g : Pred) (q : Bool) (d a b : Reg)
  /-- MIN: Signed minimum. (R117) -/
  | min (g : Pred) (q : Bool) (d a b : Reg)
  /-- MAX: Signed maximum. (R117) -/
  | max (g : Pred) (q : Bool) (d a b : Reg)
  /-- MINN: Unsigned minimum. (R117) -/
  | minn (g : Pred) (q : Bool) (d a b : Reg)
  /-- MAXN: Unsigned maximum. (R117) -/
  | maxn (g : Pred) (q : Bool) (d a b : Reg)
  /-- AND: Bitwise AND. (R117) -/
  | and (g : Pred) (q : Bool) (d a b : Reg)
  /-- OR: Bitwise OR. (R117) -/
  | or (g : Pred) (q : Bool) (d a b : Reg)
  /-- XOR: Bitwise XOR. (R117) -/
  | xor (g : Pred) (q : Bool) (d a b : Reg)
  /-- ANDN: xA AND NOT xB. (R117) -/
  | andn (g : Pred) (q : Bool) (d a b : Reg)
  /-- SHL: Shift left by bits 5:0 of xB. (R117) -/
  | shl (g : Pred) (q : Bool) (d a b : Reg)
  /-- SHR: Logical shift right by bits 5:0 of xB. (R117) -/
  | shr (g : Pred) (q : Bool) (d a b : Reg)
  /-- SRA: Arithmetic shift right by bits 5:0 of xB. (R117) -/
  | sra (g : Pred) (q : Bool) (d a b : Reg)
  /-- SHLI: Shift left by an immediate amount. (R119) -/
  | shli (g : Pred) (q : Bool) (d a : Reg) (i : BitVec 6)
  /-- SHRI: Logical shift right by an immediate amount. (R119) -/
  | shri (g : Pred) (q : Bool) (d a : Reg) (i : BitVec 6)
  /-- SRAI: Arithmetic shift right by an immediate amount. (R119) -/
  | srai (g : Pred) (q : Bool) (d a : Reg) (i : BitVec 6)
  /-- MOVI: xD := sext(I15). (R120) -/
  | movi (g : Pred) (q : Bool) (d : Reg) (i : BitVec 15)
  /-- LHI: xD := (xD << 15) OR zext(I15). (R120) -/
  | lhi (g : Pred) (q : Bool) (d : Reg) (i : BitVec 15)
  /-- SX_I8: Sign-extend bits 7:0 of xA. (R121) -/
  | sxI8 (g : Pred) (q : Bool) (d a : Reg)
  /-- SX_I16: Sign-extend bits 15:0 of xA. (R121) -/
  | sxI16 (g : Pred) (q : Bool) (d a : Reg)
  /-- SX_I32: Sign-extend bits 31:0 of xA. (R121) -/
  | sxI32 (g : Pred) (q : Bool) (d a : Reg)
  /-- ZX_N8: Zero-extend bits 7:0 of xA. (R121) -/
  | zxN8 (g : Pred) (q : Bool) (d a : Reg)
  /-- ZX_N16: Zero-extend bits 15:0 of xA. (R121) -/
  | zxN16 (g : Pred) (q : Bool) (d a : Reg)
  /-- ZX_N32: Zero-extend bits 31:0 of xA. (R121) -/
  | zxN32 (g : Pred) (q : Bool) (d a : Reg)
  /-- CLZ: Count leading zeros. (R121) -/
  | clz (g : Pred) (q : Bool) (d a : Reg)
  /-- CTZ: Count trailing zeros. (R121) -/
  | ctz (g : Pred) (q : Bool) (d a : Reg)
  /-- POPC: Count one bits. (R121) -/
  | popc (g : Pred) (q : Bool) (d a : Reg)
  /-- SEL: xD := pF ? xA : xB. (R122) -/
  | sel (g : Pred) (q : Bool) (d a b : Reg) (f : Pred)
  /-- CMP_EQ: Register compare equal into a predicate pair. (R123) -/
  | cmpEq (g : Pred) (q : Bool) (pd : PredPair) (a b : Reg)
  /-- CMP_NE: Register compare not equal into a predicate pair. (R123) -/
  | cmpNe (g : Pred) (q : Bool) (pd : PredPair) (a b : Reg)
  /-- CMP_LT: Signed less-than compare into a predicate pair. (R123) -/
  | cmpLt (g : Pred) (q : Bool) (pd : PredPair) (a b : Reg)
  /-- CMP_LE: Signed less-or-equal compare into a predicate pair. (R123) -/
  | cmpLe (g : Pred) (q : Bool) (pd : PredPair) (a b : Reg)
  /-- CMP_LTN: Unsigned less-than compare into a predicate pair. (R123) -/
  | cmpLtn (g : Pred) (q : Bool) (pd : PredPair) (a b : Reg)
  /-- CMP_LEN: Unsigned less-or-equal compare into a predicate pair. (R123) -/
  | cmpLen (g : Pred) (q : Bool) (pd : PredPair) (a b : Reg)
  /-- CMPI_EQ: Immediate compare equal into a predicate pair. (R123) -/
  | cmpiEq (g : Pred) (q : Bool) (pd : PredPair) (a : Reg) (i : BitVec 10)
  /-- CMPI_NE: Immediate compare not equal into a predicate pair. (R123) -/
  | cmpiNe (g : Pred) (q : Bool) (pd : PredPair) (a : Reg) (i : BitVec 10)
  /-- CMPI_LT: Immediate signed less-than compare. (R123) -/
  | cmpiLt (g : Pred) (q : Bool) (pd : PredPair) (a : Reg) (i : BitVec 10)
  /-- CMPI_LE: Immediate signed less-or-equal compare. (R123) -/
  | cmpiLe (g : Pred) (q : Bool) (pd : PredPair) (a : Reg) (i : BitVec 10)
  /-- CMPI_LTN: Immediate unsigned less-than compare. (R123) -/
  | cmpiLtn (g : Pred) (q : Bool) (pd : PredPair) (a : Reg) (i : BitVec 10)
  /-- CMPI_LEN: Immediate unsigned less-or-equal compare. (R123) -/
  | cmpiLen (g : Pred) (q : Bool) (pd : PredPair) (a : Reg) (i : BitVec 10)
  /-- B: PC-relative branch after one delay bundle; b, b.t and b.n differ only in the header hint. (R128) -/
  | b (g : Pred) (q : Bool) (i : BitVec 20)
  /-- BI: Indirect branch to xA. (R129) -/
  | bi (g : Pred) (q : Bool) (a : Reg)
  /-- JT: Branch through a jump table in CP data memory with a clamped index. (R130) -/
  | jt (g : Pred) (q : Bool) (a b : Reg) (n : BitVec 5)
  /-- CALL: PC-relative call pushing the return address. (R131) -/
  | call (g : Pred) (q : Bool) (i : BitVec 20)
  /-- CALLI: Indirect call to xA pushing the return address. (R131) -/
  | calli (g : Pred) (q : Bool) (a : Reg)
  /-- RET: Pop the return stack and branch there. (R131) -/
  | ret (g : Pred) (q : Bool)
  /-- LOOP: Start a hardware loop with count from xD, or skip the body when the count is zero. (R133) -/
  | loop (g : Pred) (d : Reg) (i : BitVec 15)
  /-- HALT: End the pass after in-flight results land and commands perform; re-enter or end the context. (R39) -/
  | halt (g : Pred) (q : Bool)
  /-- TRAP: Raise a software trap with cause 0x10. (R136) -/
  | trap (g : Pred) (q : Bool) (n : BitVec 15)
  /-- RETT: Return from trap to EPC, reinstating parked records and loops. (R319) -/
  | rett (g : Pred) (q : Bool)
  /-- PAND: pD := pA AND pB. (R124) -/
  | pand (g : Pred) (q : Bool) (d a b : Pred)
  /-- POR: pD := pA OR pB. (R124) -/
  | por (g : Pred) (q : Bool) (d a b : Pred)
  /-- PXOR: pD := pA XOR pB. (R124) -/
  | pxor (g : Pred) (q : Bool) (d a b : Pred)
  /-- PMOV: pD := pA. (R124) -/
  | pmov (g : Pred) (q : Bool) (d a : Pred)
  /-- MFS: Read a special register into xD. (R125) -/
  | mfs (g : Pred) (q : Bool) (d : Reg) (n : BitVec 5)
  /-- MTS: Write xD to a special register. (R125) -/
  | mts (g : Pred) (q : Bool) (d : Reg) (n : BitVec 5)
  /-- LD_I8: Load a sign-extended byte from CP data memory. (R140) -/
  | ldI8 (g : Pred) (q : Bool) (d a : Reg) (i : BitVec 10)
  /-- LD_N8: Load a zero-extended byte from CP data memory. (R140) -/
  | ldN8 (g : Pred) (q : Bool) (d a : Reg) (i : BitVec 10)
  /-- LD_I16: Load a sign-extended halfword. (R140) -/
  | ldI16 (g : Pred) (q : Bool) (d a : Reg) (i : BitVec 10)
  /-- LD_N16: Load a zero-extended halfword. (R140) -/
  | ldN16 (g : Pred) (q : Bool) (d a : Reg) (i : BitVec 10)
  /-- LD_I32: Load a sign-extended word. (R140) -/
  | ldI32 (g : Pred) (q : Bool) (d a : Reg) (i : BitVec 10)
  /-- LD_N32: Load a zero-extended word. (R140) -/
  | ldN32 (g : Pred) (q : Bool) (d a : Reg) (i : BitVec 10)
  /-- LD_64: Load a doubleword. (R140) -/
  | ld64 (g : Pred) (q : Bool) (d a : Reg) (i : BitVec 10)
  /-- ST_8: Store a byte to CP data memory. (R140) -/
  | st8 (g : Pred) (q : Bool) (d a : Reg) (i : BitVec 10)
  /-- ST_16: Store a halfword. (R140) -/
  | st16 (g : Pred) (q : Bool) (d a : Reg) (i : BitVec 10)
  /-- ST_32: Store a word. (R140) -/
  | st32 (g : Pred) (q : Bool) (d a : Reg) (i : BitVec 10)
  /-- ST_64: Store a doubleword. (R140) -/
  | st64 (g : Pred) (q : Bool) (d a : Reg) (i : BitVec 10)
  /-- TLD: Tap one 64-bit unit of a signal sample at a lag into xD. (R143) -/
  | tld (g : Pred) (q : Bool) (d : Reg) (n : SigNum) (lag : BitVec 4) (u : BitVec 5)
  /-- TST: Write xD into one unit of a signal sample at a position. (R144) -/
  | tst (g : Pred) (q : Bool) (d : Reg) (n : SigNum) (lag : BitVec 4) (u : BitVec 5)
  /-- RST: Queue a write of xD into a REMOTE signal of a cluster partner context. (R145) -/
  | rst (g : Pred) (q : Bool) (d : Reg) (n : SigNum) (pos a : BitVec 2) (u : BitVec 5)
  /-- GLD: Load eight bytes from a device virtual address. (R146) -/
  | gld (g : Pred) (q : Bool) (d a : Reg) (i : BitVec 10)
  /-- GST: Post an eight-byte store to device memory, or hold it under speculation. (R146) -/
  | gst (g : Pred) (q : Bool) (d a : Reg) (i : BitVec 10)
  /-- AADD: Device atomic add at the owning Yarrow. (R148) -/
  | aadd (g : Pred) (q : Bool) (d a b : Reg)
  /-- AMIN: Device atomic signed minimum. (R148) -/
  | amin (g : Pred) (q : Bool) (d a b : Reg)
  /-- AMAX: Device atomic signed maximum. (R148) -/
  | amax (g : Pred) (q : Bool) (d a b : Reg)
  /-- ASWP: Device atomic swap. (R148) -/
  | aswp (g : Pred) (q : Bool) (d a b : Reg)
  /-- ACAS: Device atomic compare-and-swap. (R148) -/
  | acas (g : Pred) (q : Bool) (d a b f : Reg)
  /-- ACADD: Posted addition into an accumulator cell in device memory. (R149) -/
  | acadd (g : Pred) (q : Bool) (a b : Reg)
  /-- DRAIN_CL: Block until the context's writes have performed at cluster scope. (R150) -/
  | drainCl (g : Pred) (q : Bool)
  /-- DRAIN_DIE: Block until the context's writes have performed at die scope. (R150) -/
  | drainDie (g : Pred) (q : Bool)
  /-- DRAIN_DEV: Block until the context's writes have performed at device scope. (R150) -/
  | drainDev (g : Pred) (q : Bool)
  /-- DRAIN_SYS: Block until the context's writes have performed at system scope. (R150) -/
  | drainSys (g : Pred) (q : Bool)
  /-- TICK: Start the tick step of the context. (R153) -/
  | tick (g : Pred) (q : Bool) (x : Option Ext)
  /-- SPEC: Open speculation with limit n. (R154) -/
  | spec (g : Pred) (q : Bool) (n : BitVec 6) (x : Option Ext)
  /-- COMMIT: Keep x speculative ticks, discard the rest and close speculation. (R70) -/
  | commit (g : Pred) (q : Bool) (d : Reg) (n : BitVec 15) (x : Option Ext)
  /-- SCLR: Clear a signal: free its slots, reset ADV and binding. (R69) -/
  | sclr (g : Pred) (q : Bool) (n : SigNum) (x : Option Ext)
  /-- SSTAT: Read a signal's status word into xD. (R69) -/
  | sstat (g : Pred) (q : Bool) (d : Reg) (n : SigNum) (x : Option Ext)
  /-- CKPT: Take a checkpoint into the shadow copy with a live-row mask. (R343) -/
  | ckpt (g : Pred) (d : CkptFields) (x : Option Ext)
  /-- GACQ: Acquire grid ownership, blocking until granted. (R49) -/
  | gacq (g : Pred) (q : Bool) (x : Option Ext)
  /-- GREL: Release grid ownership. (R49) -/
  | grel (g : Pred) (q : Bool) (x : Option Ext)
  /-- GCFG: Queue loading of a grid configuration image and bind its out ports. (R181) -/
  | gcfg (g : Pred) (q : Bool) (n : BitVec 15) (x : Option Ext)
  /-- GRUN: Queue a run of xA grid iterations. (R182) -/
  | grun (g : Pred) (q : Bool) (a : Reg) (x : Option Ext)
  /-- GSET: Queue a write of a tile constant or rnd seed. (R157) -/
  | gset (g : Pred) (q : Bool) (t : BitVec 5) (a : Reg) (f : BitVec 3) (x : Option Ext)
  /-- MXLOAD: Push a routine load onto the matrix call queue. (R158) -/
  | mxload (g : Pred) (q : Bool) (n : BitVec 5) (x : Option Ext)
  /-- MXP: Set a staged matrix parameter from xA. (R158) -/
  | mxp (g : Pred) (q : Bool) (n : BitVec 3) (a : Reg) (x : Option Ext)
  /-- MXCALL: Push a routine call with a copy of the staged parameters. (R158) -/
  | mxcall (g : Pred) (q : Bool) (n : BitVec 5) (x : Option Ext)
  /-- SLOAD: Queue a fill of a signal from device memory by a layout record. (R162) -/
  | sload (g : Pred) (q : Bool) (e : BitVec 2) (n : SigNum) (pos : BitVec 7) (k : DescNum) (a : Reg) (x : Tokens)
  /-- SLOAD_PL: Queue a write of record units into the plane store. (R241) -/
  | sloadPl (g : Pred) (q : Bool) (e : BitVec 2) (k : DescNum) (a b : Reg) (x : Tokens)
  /-- SSTORE: Queue a drain of committed samples to device memory. (R238) -/
  | sstore (g : Pred) (q : Bool) (e : BitVec 1) (n : SigNum) (off : BitVec 7) (k : DescNum) (a : Reg) (x : Tokens)
  /-- SCOPY: Queue a copy of units from one record to another. (R240) -/
  | scopy (g : Pred) (q : Bool) (e : BitVec 3) (k j : DescNum) (a b : Reg) (x : Tokens)
  /-- SGATHER: Queue a Yarrow gather of indexed rows into successive samples. (R244) -/
  | sgather (g : Pred) (q : Bool) (e : BitVec 2) (n : SigNum) (pos : BitVec 7) (k : DescNum) (a b : Reg) (oor : BitVec 2) (x : Tokens)
  /-- SREDUCE: Queue a Yarrow pooling of indexed rows into one sample. (R245) -/
  | sreduce (g : Pred) (q : Bool) (w : Bool) (e : BitVec 2) (n : SigNum) (pos : BitVec 7) (k : DescNum) (a b : Reg) (red : BitVec 2) (dis : Bool) (oor : BitVec 2) (x : Tokens)
  /-- SSCATTER: Queue a Yarrow scatter-add of samples into accumulator cells. (R247) -/
  | sscatter (g : Pred) (q : Bool) (e : BitVec 1) (n : SigNum) (off : BitVec 7) (k : DescNum) (a b : Reg) (oor : BitVec 2) (x : Tokens)
  /-- SPOS: Write a sequence-table pointer and take ownership of the entry. (R163) -/
  | spos (g : Pred) (q : Bool) (n : BitVec 5) (a : Reg) (x : Option Ext)
  /-- DSET: Write one word of a descriptor register. (R159) -/
  | dset (g : Pred) (q : Bool) (k : DescNum) (w : BitVec 4) (a : Reg) (x : Option Ext)
  /-- DGET: Read one word of a descriptor register into xD. (R159) -/
  | dget (g : Pred) (q : Bool) (d : Reg) (k : DescNum) (w : BitVec 4) (x : Option Ext)
  /-- DCLR: Clear a descriptor register. (R159) -/
  | dclr (g : Pred) (q : Bool) (k : DescNum) (x : Option Ext)
  /-- KWAIT: Wait for the consumed tokens and do nothing else. (R164) -/
  | kwait (g : Pred) (q : Bool) (x : Option Ext)
  /-- KPOLL: Read the token bits into xD. (R164) -/
  | kpoll (g : Pred) (q : Bool) (d : Reg) (x : Option Ext)
  /-- TRIG: Trigger the context for dependent launch. (R52) -/
  | trig (g : Pred) (q : Bool) (x : Option Ext)
  /-- LAUNCH: Enter a dependent launch record into the context's posting queue. (R165) -/
  | launch (g : Pred) (q : Bool) (a b : Reg) (x : Option Ext)
  /-- ARRIVE_CL: Drain at cluster scope and increment the cluster arrival count. (R166) -/
  | arriveCl (g : Pred) (q : Bool) (x : Option Ext)
  /-- ARRIVE_DIE: Drain at die scope and increment the die arrival count. (R166) -/
  | arriveDie (g : Pred) (q : Bool) (x : Option Ext)
  /-- ARRIVE_DEV: Drain at device scope and increment the device arrival count. (R166) -/
  | arriveDev (g : Pred) (q : Bool) (x : Option Ext)
  /-- WAIT_CL: Wait until the cluster group has arrived as often. (R166) -/
  | waitCl (g : Pred) (q : Bool) (x : Option Ext)
  /-- WAIT_DIE: Wait until the die group has arrived as often. (R166) -/
  | waitDie (g : Pred) (q : Bool) (x : Option Ext)
  /-- WAIT_DEV: Wait until the device group has arrived as often. (R166) -/
  | waitDev (g : Pred) (q : Bool) (x : Option Ext)
  /-- SYNC: Join the cluster members at their m-th sync. (R167) -/
  | sync (g : Pred) (q : Bool) (x : Option Ext)
  /-- EMPTY_BUNDLE: A bundle with no slots issues and counts as one of the context's bundles. (R101) -/
  | emptyBundle
  /-- SLOT_TABLE_EFFECT: A staged slot table and mode take effect at the next cycle with CYCLE mod 32 = 0. (R44) -/
  | slotTableEffect (n : CoreId)
  /-- TICK_STEP: A tick completes once its slot waits are met: signals advance, samples expire, NOW increments. (R65) -/
  | tickStep (c : CtxId)
  /-- GRID_GRANT: Grid ownership passes to a waiting context; another domain's state is cleared. (R49) -/
  | gridGrant (n : CoreId)
  /-- CONFIGURATION_LOAD: Once the grid is idle, gcfg checks, loads and resets the grid and performs. (R181) -/
  | configurationLoad (n : CoreId)
  /-- GSET_APPLY: A queued gset writes a tile constant or seed when the grid takes it. (R157) -/
  | gsetApply (n : CoreId)
  /-- GRUN_START: The grid starts a queued run's iterations when idle. (R182) -/
  | grunStart (n : CoreId)
  /-- GRID_WORD: In an unfrozen grid cycle every tile executes its current move word. (R173) -/
  | gridWord (n : CoreId)
  /-- ATTAR_COMPLETE: An Attar operation completes at done(k) and writes att.r and att.x. (R200) -/
  | attarComplete (n : CoreId) (t : Fin 32)
  /-- GRUN_PERFORM: A run performs when its last END completes and all results have landed. (R182) -/
  | grunPerform (n : CoreId)
  /-- READOUT_SNAPSHOT: A readout request reads its accumulator row when earlier calls have ended. (R220) -/
  | readoutSnapshot (n : CoreId) (p : Fin 2)
  /-- READOUT_ROW_DELIVER: Readout rows are delivered to the port queue from 8 cycles after the snapshot. (R179) -/
  | readoutRowDeliver (n : CoreId) (p : Fin 2)
  /-- ROUTINE_LOAD: An mxload at the head of the call queue checks and loads the routine after 40+LEN cycles. (R223) -/
  | routineLoad (n : CoreId)
  /-- ROUTINE_CALL_START: The array starts the next queued call with fresh call state. (R224) -/
  | routineCallStart (n : CoreId)
  /-- END: Micro-operation end: executes once all effects have landed, and the call performs. (R224) -/
  | mEnd
  /-- FMT: Micro-operation setting the routine format. (R226) -/
  | fmt (f : BitVec 2)
  /-- BIND_A: Micro-operation setting the A mode to feed or hold. (R226) -/
  | bindA (m : Bool)
  /-- BIND_B: Micro-operation setting the B cursor and step from a parameter. (R226) -/
  | bindB (p : BitVec 3) (s : Bool)
  /-- BIND_ACC: Micro-operation setting the accumulator row cursor and step. (R226) -/
  | bindAcc (p : BitVec 3) (s : Bool)
  /-- SCL: Micro-operation loading a scale line into the scale registers. (R217) -/
  | scl (p : BitVec 3)
  /-- PASS: Micro-operation running an immediate count of array cycles. (R226) -/
  | pass (c : BitVec 12)
  /-- PASS_PARAM: Micro-operation running a parameter count of array cycles. (R226) -/
  | passParam (p : BitVec 3)
  /-- LP: Micro-operation opening a loop with an immediate count. (R227) -/
  | lp (c : BitVec 12)
  /-- LP_PARAM: Micro-operation opening a loop with a parameter count. (R227) -/
  | lpParam (p : BitVec 3)
  /-- EL: Micro-operation closing a loop body. (R227) -/
  | el
  /-- PADD: Micro-operation adding to the call's copy of a parameter. (R226) -/
  | padd (p : BitVec 3) (v : BitVec 16)
  /-- ZACC: Micro-operation zeroing accumulator rows. (R226) -/
  | zacc (n : BitVec 10)
  /-- ANCH: Micro-operation setting the anchor of accumulator rows. (R226) -/
  | anch (n : BitVec 10) (a : BitVec 16)
  /-- TOK: Micro-operation setting the call's produced token once plane reads are made. (R229) -/
  | tok
  /-- WT: Micro-operation waiting for a token of the calling context. (R229) -/
  | wt (k : BitVec 4)
  /-- ARRAY_CYCLE: One pass cycle pops an A row if needed, reads B runs and multiplies into an accumulator row. (R214) -/
  | arrayCycle (n : CoreId)
  /-- ACCUMULATE_LAND: Accumulator effects of a micro-operation land six cycles after issue. (R219) -/
  | accumulateLand (n : CoreId)
  /-- STREAM_COMMAND_TAKE: An engine takes its next queued command once the previous one is done. (R231) -/
  | streamCommandTake (n : CoreId) (e : Fin 6)
  /-- FILL_WINDOW: An engine gathers a window and writes it into a sample when the slot admits it. (R238) -/
  | fillWindow (n : CoreId) (e : Fin 6)
  /-- INDEX_LOOKUP: An indirect dimension reads index entries once the index sample is readable. (R239) -/
  | indexLookup (n : CoreId) (e : Fin 6)
  /-- DRAIN_SAMPLE: A store engine copies a committed sample into its window. (R238) -/
  | drainSample (n : CoreId) (e : Fin 6)
  /-- COPY_UNIT: An engine moves units of a scopy or sload.pl. (R240) -/
  | copyUnit (n : CoreId) (e : Fin 6)
  /-- STREAM_RETRY: A suspended command retries from its resume point after delivery. (R315) -/
  | streamRetry (n : CoreId) (e : Fin 6)
  /-- YARROW_GATHER: Yarrow returns indexed row items for successive samples. (R244) -/
  | yarrowGather (n : CoreId) (e : Fin 6)
  /-- YARROW_POOL: Yarrow pools counted rows exactly and returns one rounded row. (R245) -/
  | yarrowPool (n : CoreId) (e : Fin 6)
  /-- YARROW_SCATTER_ADD: Yarrow adds a sample's elements into accumulator cells. (R247) -/
  | yarrowScatterAdd (n : CoreId) (e : Fin 6)
  /-- ATOMIC_PERFORM: An atomic reads and writes its word indivisibly at the owning Yarrow. (R148) -/
  | atomicPerform (k : Nat)
  /-- CELL_ADD_PERFORM: An acadd adds into a device-memory cell at the owning Yarrow. (R149) -/
  | cellAddPerform (k : Nat)
  /-- DEVICE_READ_RETURN: A gld or value-returning atomic's value returns and performs. (R262) -/
  | deviceReadReturn (c : CtxId)
  /-- DEVICE_WRITE_PERFORM: A posted write performs at its scopes. (R262) -/
  | deviceWritePerform (k : Nat)
  /-- REMOTE_WRITE_PERFORM: A queued rst writes the partner's slot when admitted, or is discarded. (R145) -/
  | remoteWritePerform (n : CoreId)
  /-- LAUNCH_POST: The posting-queue head waits for earlier stores and ring room, then posts its record. (R165) -/
  | launchPost (c : CtxId)
  /-- BARRIER_RELEASE: A wait is released a fixed number of cycles after the last needed arrival. (R166) -/
  | barrierRelease (c : CtxId)
  /-- SYNC_RESTART: The sync members restart at cycle T in context order. (R167) -/
  | syncRestart (c : CtxId)
  /-- LAUNCH_PLACEMENT: The placement unit checks the chosen head record and places its kernel's contexts. (R46) -/
  | launchPlacement
  /-- AGING: A waiting head record's effective level rises every 2^20 cycles. (R46) -/
  | aging (q : BitVec 7)
  /-- CONTEXT_RELEASE: An ended context becomes free once all its commands have performed. (R40) -/
  | contextRelease (c : CtxId)
  /-- KERNEL_COMPLETE: Once all writes perform at sys, SEQN is written to DONE and MSI-X signalled. (R277) -/
  | kernelComplete (k : Nat)
  /-- FAULT_RECORD_POST: A fault record is written to the domain's fault ring when room exists and PROD advances. (R323) -/
  | faultRecordPost
  /-- TAIL_WRITE: The host writes TAIL of a host-fed queue; an overrun stops the queue. (R275) -/
  | tailWrite (q : BitVec 7) (v : BitVec 32)
  /-- STOP_CLEAR: Writing 1 to STOP clears it and the head record is checked again. (R335) -/
  | stopClear (q : BitVec 7)
  /-- REGISTER_WRITE: A host write to a BAR0 location with no behaviour of its own. (R273) -/
  | registerWrite (off : BitVec 17) (v : BitVec 32)
  /-- LOAD: Mailbox command verifying and loading an Adedom object into a domain. (R282) -/
  | load (dom : DomNum) (addr : Word) (size : Word)
  /-- UNLOAD: Mailbox command releasing an object with no placed kernel. (R282) -/
  | unload (obj : BitVec 16)
  /-- CREATE: Mailbox command creating a domain with tables, policy, fault queue and keys. (R285) -/
  | create (spec : DomainSpec)
  /-- DESTROY: Mailbox command ending a domain's work and discarding its keys. (R337) -/
  | destroy (dom : DomNum)
  /-- MAP: Mailbox command writing range entries or the page-table root. (R282) -/
  | map (dom : DomNum) (entries : List (BitVec 6 × RangeEntry)) (root : Option Word)
  /-- INVAL: Mailbox command starting an invalidation of a domain's translations. (R256) -/
  | inval (dom : DomNum)
  /-- INVALIDATION_PERFORM: The invalidation performs once no cache holds an affected translation. (R256) -/
  | invalidationPerform (dom : DomNum)
  /-- QCFG: Mailbox command writing the SYS fields of a queue block. (R274) -/
  | qcfg (q : BitVec 7) (cfg : QueueCfg)
  /-- POWER: Mailbox command setting PLIM. (R281) -/
  | power (plim : BitVec 32)
  /-- SLOT: Mailbox command writing a core's SLOTTAB. (R98) -/
  | slot (n : CoreId) (v : Word)
  /-- CTXGET: Mailbox command copying a stopped context's block to memory. (R324) -/
  | ctxget (dom : DomNum) (c : CtxId) (addr : Word)
  /-- RESUME: Mailbox command resuming a stopped context at a given EPC. (R324) -/
  | resume (dom : DomNum) (c : CtxId) (epc btarg : Word)
  /-- ABORT: Mailbox command ending every context of a kernel. (R337) -/
  | abort (dom : DomNum) (c : CtxId)
  /-- GET_VERSION: SPDM version request. (R284) -/
  | getVersion
  /-- GET_CAPABILITIES: SPDM capabilities request. (R284) -/
  | getCapabilities
  /-- NEGOTIATE_ALGORITHMS: SPDM algorithm negotiation. (R284) -/
  | negotiateAlgorithms
  /-- GET_DIGESTS: SPDM certificate digests request. (R284) -/
  | getDigests
  /-- GET_CERTIFICATE: SPDM certificate request. (R284) -/
  | getCertificate
  /-- CHALLENGE: SPDM challenge. (R284) -/
  | challenge
  /-- GET_MEASUREMENTS: SPDM measurement request. (R284) -/
  | getMeasurements (idx : BitVec 8)
  /-- KEY_EXCHANGE: SPDM key exchange opening a session. (R284) -/
  | keyExchange
  /-- FINISH: SPDM finish of a session handshake. (R284) -/
  | finish
  /-- END_SESSION: SPDM end of a secure session. (R284) -/
  | endSession
  /-- CXL_MEM_READ: A host CXL.mem read translated under its window's domain. (R272) -/
  | cxlMemRead (addr : Word) (len : BitVec 7)
  /-- CXL_MEM_WRITE: A host CXL.mem write translated under its window's domain. (R272) -/
  | cxlMemWrite (addr : Word) (data : List Byte)
  /-- BOOT: Start-up verifies and measures firmware and the monitor and sets BOOTST. (R283) -/
  | boot (firstOk monitorOk trainOk : Bool)
  /-- POWER_SAMPLE: Every 10 µs the monitor samples power and adjusts clock and HBM throttling. (R281) -/
  | powerSample (avgMs avgFast idle : BitVec 32)
  /-- LINK_FLIT_CRC_FAIL: A flit failing CRC is replayed; after 16 failures the port goes down. (R338) -/
  | linkFlitCrcFail (port : BitVec 4)
  /-- HOST_ACCESS_ERROR: A CXL.cache access returns poison or an error and fails with 0xA3. (R339) -/
  | hostAccessError (src : AccessRef) (poison : Bool)
  /-- UNCORRECTABLE_ERROR: A detected uncorrectable error rolls back checkpointing contexts and reruns in pairs. (R346) -/
  | uncorrectableError (n : CoreId) (store : StoreKind) (off : BitVec 48) (single : Bool)
  /-- LANDING_AFTER_LAST_END: An ALU, MUL or SHF result still in flight after a grun's last END lands in its cycle and ORs its flags into the owner's FLAGS. (R182) -/
  | landingAfterLastEnd (n : CoreId)
  /-- LINK_PORT_UP: A device-link port trains and comes up, so its STATE moves from down through training to up with the peer fields filled. (R279) -/
  | linkPortUp (port : BitVec 4) (peerPort : BitVec 8) (peerPart : BitVec 16)
  /-- APERTURE_ACCESS_ARRIVAL: A peer device's aperture read or write arrives over a link and is performed on this device's HBM under the domain bound to the link. (R280) -/
  | apertureAccessArrival (port : BitVec 4) (addr : Word) (write : Option (List Byte)) (len : BitVec 7)
  /-- MAILBOX_OPCODE_REFUSED: A mailbox command started with an opcode that no table names is refused with status 5. (R282) -/
  | mailboxOpcodeRefused (op : BitVec 32)
  deriving DecidableEq, Repr

end Sys2Proof
end

