-- ==== Sys2Proof/WellFormed.lean ====
section
/-! DEFINITION. Well-formed instructions: the operand values that the encoding tables allow (R96, R116, R154, R157, R159, R161,
R225). -/

namespace Sys2Proof

/-- The numbers of the special registers of R96. -/
def validSpecial (n : BitVec 5) : Bool :=
  decide (n.toNat ≤ 21) || (decide (24 ≤ n.toNat) && decide (n.toNat ≤ 29)) || n == 31

/-- The operand values that the spec admits, constructor by constructor. Where a field's type already holds only
admitted values, nothing is asked of it. -/
def Instr.wf : Instr → Bool
  | .mfs _ _ _ n => validSpecial n
  | .mts _ _ _ n => validSpecial n
  | .spec _ _ n _ => decide (1 ≤ n.toNat) && decide (n.toNat ≤ 32)
  | .gset _ _ _ _ f _ => decide (f.toNat ≤ 4)
  | .dset _ _ _ w _ _ => decide (w.toNat ≤ 11)
  | .dget _ _ _ _ w _ => decide (w.toNat ≤ 11)
  | .sload _ _ _ _ pos _ _ _ => decide (pos.toNat ≤ 64)
  | .scopy _ _ e _ _ _ _ _ => decide (e.toNat < 6)
  | .sgather _ _ _ _ pos _ _ _ oor _ => decide (pos.toNat ≤ 64) && decide (oor.toNat ≤ 2)
  | .sreduce _ _ _ _ _ pos _ _ _ red _ oor _ =>
    decide (pos.toNat ≤ 64) && decide (red.toNat ≤ 2) && decide (oor.toNat ≤ 2)
  | .sscatter _ _ _ _ _ _ _ _ oor _ => decide (oor.toNat ≤ 2)
  | .pass c => c != 0
  | .lp c => c != 0
  | .wt k => k != 0
  | _ => true

end Sys2Proof
end

