-- ==== Sys2Proof/Decode.lean ====
section
/-! DEFINITION. Decoding: bundles, slot words, extension words and micro-words, total on any words and rejecting by name;
and the encoder, from the same encoding tables (R101 to R109, R160, R161, R225). -/

namespace Sys2Proof

/-- Why a word is no instruction (R293, R223). -/
inductive DecodeError where
  /-- an opcode that R107 to R109 or R225 leave unassigned or reserved: cause 0x01 for a slot -/
  | unassigned
  /-- a reserved operand field or operand value: cause 0x02 for a slot -/
  | reserved
  /-- a stream or Yarrow command without its extension word: cause 0x04 -/
  | needsExt
  deriving DecidableEq, Repr

/-- The four slot classes of a bundle: slots 0 to 3 (R101). -/
inductive SlotClass where
  | a | b | m | e
  deriving DecidableEq, Repr

/-- The guard field (R104). -/
def fG (w : Lane) : Pred := w.extractLsb' 28 4
/-- The squash field (R104). -/
def fQ (w : Lane) : Bool := w.extractLsb' 27 1 == 1
/-- The opcode field (R104). -/
def opOf (w : Lane) : BitVec 7 := w.extractLsb' 20 7
/-- Field D of the formats F3, FI, FL and FT (R104). -/
def rD (w : Lane) : Reg := w.extractLsb' 15 5
/-- Field A of F3 and FI (R104). -/
def rA (w : Lane) : Reg := w.extractLsb' 10 5
/-- Field B of F3 (R104). -/
def rB (w : Lane) : Reg := w.extractLsb' 5 5
/-- Field F of F3 (R104). -/
def fF (w : Lane) : BitVec 5 := w.extractLsb' 0 5
/-- Field I10 of FI (R104). -/
def fI10 (w : Lane) : BitVec 10 := w.extractLsb' 0 10
/-- Field I15 of FL (R104). -/
def fI15 (w : Lane) : BitVec 15 := w.extractLsb' 0 15
/-- The displacement of FB (R104). -/
def fI20 (w : Lane) : BitVec 20 := w.extractLsb' 0 20

/-- The token fields of an extension word (R105). -/
def tokensOf (x : Lane) : Tokens :=
  { kp := x.extractLsb' 28 4, kc0 := x.extractLsb' 24 4, kc1 := x.extractLsb' 20 4, kc2 := x.extractLsb' 16 4 }

/-- The instruction, if its reserved fields hold what they must (R116). -/
def checked (ok : Bool) (i : Instr) : Except DecodeError Instr :=
  if ok then .ok i else .error .reserved

/-- Format F3 (R104). -/
def packF3 (g : Pred) (q : Bool) (op : BitVec 7) (d a b f : BitVec 5) : Lane :=
  g ++ BitVec.ofBool q ++ op ++ d ++ a ++ b ++ f
/-- Format FI (R104). -/
def packFI (g : Pred) (q : Bool) (op : BitVec 7) (d a : BitVec 5) (i : BitVec 10) : Lane :=
  g ++ BitVec.ofBool q ++ op ++ d ++ a ++ i
/-- Format FL (R104). -/
def packFL (g : Pred) (q : Bool) (op : BitVec 7) (d : BitVec 5) (i : BitVec 15) : Lane :=
  g ++ BitVec.ofBool q ++ op ++ d ++ i
/-- Format FB (R104). -/
def packFB (g : Pred) (q : Bool) (op : BitVec 7) (i : BitVec 20) : Lane :=
  g ++ BitVec.ofBool q ++ op ++ i
/-- Format FT (R104). -/
def packFT (g : Pred) (q : Bool) (op : BitVec 7) (d : BitVec 5) (n : SigNum) (lag : BitVec 9) : Lane :=
  g ++ BitVec.ofBool q ++ op ++ d ++ n ++ lag
/-- An extension word (R105). -/
def packExt (x : Tokens) (exop : BitVec 16) : Lane :=
  x.kp ++ x.kc0 ++ x.kc1 ++ x.kc2 ++ exop
/-- A micro-word with SEL, PN and the bits below (R225). -/
def packM (mop : BitVec 4) (sel : BitVec 1) (p : BitVec 3) (rest : BitVec 24) : Lane :=
  mop ++ sel ++ p ++ rest
/-- The extension word of an E slot that is not a stream or Yarrow command: EXOP is 0 (R151). -/
def encodeExt : Option Ext → List Lane
  | none => []
  | some x => [packExt x 0]

/-- The scalar opcodes 0x00 to 0x30, which slots A and B share (R107). -/
def decodeScalar (w : Lane) : Except DecodeError Instr :=
  match (opOf w).toNat with
  | 0x0 => checked (w.extractLsb' 0 20 == 0) (.nop (fG w) (fQ w) none)
  | 0x1 => checked (fF w == 0) (.add (fG w) (fQ w) (rD w) (rA w) (rB w))
  | 0x2 => checked (fF w == 0) (.sub (fG w) (fQ w) (rD w) (rA w) (rB w))
  | 0x4 => checked (fF w == 0) (.mul (fG w) (fQ w) (rD w) (rA w) (rB w))
  | 0x5 => checked (fF w == 0) (.mulh (fG w) (fQ w) (rD w) (rA w) (rB w))
  | 0x6 => checked (fF w == 0) (.mulhn (fG w) (fQ w) (rD w) (rA w) (rB w))
  | 0x7 => checked (fF w == 0) (.div (fG w) (fQ w) (rD w) (rA w) (rB w))
  | 0x8 => checked (fF w == 0) (.divn (fG w) (fQ w) (rD w) (rA w) (rB w))
  | 0x9 => checked (fF w == 0) (.rem (fG w) (fQ w) (rD w) (rA w) (rB w))
  | 0xa => checked (fF w == 0) (.remn (fG w) (fQ w) (rD w) (rA w) (rB w))
  | 0xb => checked (fF w == 0) (.min (fG w) (fQ w) (rD w) (rA w) (rB w))
  | 0xc => checked (fF w == 0) (.max (fG w) (fQ w) (rD w) (rA w) (rB w))
  | 0xd => checked (fF w == 0) (.minn (fG w) (fQ w) (rD w) (rA w) (rB w))
  | 0xe => checked (fF w == 0) (.maxn (fG w) (fQ w) (rD w) (rA w) (rB w))
  | 0xf => checked (fF w == 0) (.and (fG w) (fQ w) (rD w) (rA w) (rB w))
  | 0x10 => checked (fF w == 0) (.or (fG w) (fQ w) (rD w) (rA w) (rB w))
  | 0x11 => checked (fF w == 0) (.xor (fG w) (fQ w) (rD w) (rA w) (rB w))
  | 0x12 => checked (fF w == 0) (.andn (fG w) (fQ w) (rD w) (rA w) (rB w))
  | 0x13 => checked (fF w == 0) (.shl (fG w) (fQ w) (rD w) (rA w) (rB w))
  | 0x14 => checked (fF w == 0) (.shr (fG w) (fQ w) (rD w) (rA w) (rB w))
  | 0x15 => checked (fF w == 0) (.sra (fG w) (fQ w) (rD w) (rA w) (rB w))
  | 0x3 => checked (true) (.addi (fG w) (fQ w) (rD w) (rA w) (fI10 w))
  | 0x16 => checked (w.extractLsb' 6 4 == 0) (.shli (fG w) (fQ w) (rD w) (rA w) (w.extractLsb' 0 6))
  | 0x17 => checked (w.extractLsb' 6 4 == 0) (.shri (fG w) (fQ w) (rD w) (rA w) (w.extractLsb' 0 6))
  | 0x18 => checked (w.extractLsb' 6 4 == 0) (.srai (fG w) (fQ w) (rD w) (rA w) (w.extractLsb' 0 6))
  | 0x19 => checked (true) (.movi (fG w) (fQ w) (rD w) (fI15 w))
  | 0x1a => checked (true) (.lhi (fG w) (fQ w) (rD w) (fI15 w))
  | 0x1b => checked (rB w == 0 && fF w == 0) (.sxI8 (fG w) (fQ w) (rD w) (rA w))
  | 0x1c => checked (rB w == 0 && fF w == 0) (.sxI16 (fG w) (fQ w) (rD w) (rA w))
  | 0x1d => checked (rB w == 0 && fF w == 0) (.sxI32 (fG w) (fQ w) (rD w) (rA w))
  | 0x1e => checked (rB w == 0 && fF w == 0) (.zxN8 (fG w) (fQ w) (rD w) (rA w))
  | 0x1f => checked (rB w == 0 && fF w == 0) (.zxN16 (fG w) (fQ w) (rD w) (rA w))
  | 0x20 => checked (rB w == 0 && fF w == 0) (.zxN32 (fG w) (fQ w) (rD w) (rA w))
  | 0x21 => checked (rB w == 0 && fF w == 0) (.clz (fG w) (fQ w) (rD w) (rA w))
  | 0x22 => checked (rB w == 0 && fF w == 0) (.ctz (fG w) (fQ w) (rD w) (rA w))
  | 0x23 => checked (rB w == 0 && fF w == 0) (.popc (fG w) (fQ w) (rD w) (rA w))
  | 0x24 => checked (w.extractLsb' 4 1 == 0) (.sel (fG w) (fQ w) (rD w) (rA w) (rB w) (w.extractLsb' 0 4))
  | 0x25 => checked (w.extractLsb' 15 1 == 0 && w.extractLsb' 19 1 == 0 && fF w == 0) (.cmpEq (fG w) (fQ w) (w.extractLsb' 16 3) (rA w) (rB w))
  | 0x26 => checked (w.extractLsb' 15 1 == 0 && w.extractLsb' 19 1 == 0 && fF w == 0) (.cmpNe (fG w) (fQ w) (w.extractLsb' 16 3) (rA w) (rB w))
  | 0x27 => checked (w.extractLsb' 15 1 == 0 && w.extractLsb' 19 1 == 0 && fF w == 0) (.cmpLt (fG w) (fQ w) (w.extractLsb' 16 3) (rA w) (rB w))
  | 0x28 => checked (w.extractLsb' 15 1 == 0 && w.extractLsb' 19 1 == 0 && fF w == 0) (.cmpLe (fG w) (fQ w) (w.extractLsb' 16 3) (rA w) (rB w))
  | 0x29 => checked (w.extractLsb' 15 1 == 0 && w.extractLsb' 19 1 == 0 && fF w == 0) (.cmpLtn (fG w) (fQ w) (w.extractLsb' 16 3) (rA w) (rB w))
  | 0x2a => checked (w.extractLsb' 15 1 == 0 && w.extractLsb' 19 1 == 0 && fF w == 0) (.cmpLen (fG w) (fQ w) (w.extractLsb' 16 3) (rA w) (rB w))
  | 0x2b => checked (w.extractLsb' 15 1 == 0 && w.extractLsb' 19 1 == 0) (.cmpiEq (fG w) (fQ w) (w.extractLsb' 16 3) (rA w) (fI10 w))
  | 0x2c => checked (w.extractLsb' 15 1 == 0 && w.extractLsb' 19 1 == 0) (.cmpiNe (fG w) (fQ w) (w.extractLsb' 16 3) (rA w) (fI10 w))
  | 0x2d => checked (w.extractLsb' 15 1 == 0 && w.extractLsb' 19 1 == 0) (.cmpiLt (fG w) (fQ w) (w.extractLsb' 16 3) (rA w) (fI10 w))
  | 0x2e => checked (w.extractLsb' 15 1 == 0 && w.extractLsb' 19 1 == 0) (.cmpiLe (fG w) (fQ w) (w.extractLsb' 16 3) (rA w) (fI10 w))
  | 0x2f => checked (w.extractLsb' 15 1 == 0 && w.extractLsb' 19 1 == 0) (.cmpiLtn (fG w) (fQ w) (w.extractLsb' 16 3) (rA w) (fI10 w))
  | 0x30 => checked (w.extractLsb' 15 1 == 0 && w.extractLsb' 19 1 == 0) (.cmpiLen (fG w) (fQ w) (w.extractLsb' 16 3) (rA w) (fI10 w))
  | _ => .error .unassigned

/-- Slot A: the control opcodes, and the scalar opcodes (R107). -/
def decodeA (w : Lane) : Except DecodeError Instr :=
  match (opOf w).toNat with
  | 0x40 => checked (true) (.b (fG w) (fQ w) (fI20 w))
  | 0x41 => checked (rD w == 0 && rB w == 0 && fF w == 0) (.bi (fG w) (fQ w) (rA w))
  | 0x42 => checked (rD w == 0) (.jt (fG w) (fQ w) (rA w) (rB w) (fF w))
  | 0x43 => checked (true) (.call (fG w) (fQ w) (fI20 w))
  | 0x44 => checked (rD w == 0 && rB w == 0 && fF w == 0) (.calli (fG w) (fQ w) (rA w))
  | 0x45 => checked (w.extractLsb' 0 20 == 0) (.ret (fG w) (fQ w))
  | 0x47 => checked (w.extractLsb' 0 20 == 0) (.halt (fG w) (fQ w))
  | 0x49 => checked (w.extractLsb' 0 20 == 0) (.rett (fG w) (fQ w))
  | 0x46 => checked (!fQ w) (.loop (fG w) (rD w) (fI15 w))
  | 0x48 => checked (rD w == 0) (.trap (fG w) (fQ w) (fI15 w))
  | _ => decodeScalar w

/-- Slot B: the predicate and special-register opcodes, and the scalar opcodes (R107). -/
def decodeB (w : Lane) : Except DecodeError Instr :=
  match (opOf w).toNat with
  | 0x40 => checked (w.extractLsb' 19 1 == 0 && w.extractLsb' 14 1 == 0 && w.extractLsb' 9 1 == 0 && fF w == 0) (.pand (fG w) (fQ w) (w.extractLsb' 15 4) (w.extractLsb' 10 4) (w.extractLsb' 5 4))
  | 0x41 => checked (w.extractLsb' 19 1 == 0 && w.extractLsb' 14 1 == 0 && w.extractLsb' 9 1 == 0 && fF w == 0) (.por (fG w) (fQ w) (w.extractLsb' 15 4) (w.extractLsb' 10 4) (w.extractLsb' 5 4))
  | 0x42 => checked (w.extractLsb' 19 1 == 0 && w.extractLsb' 14 1 == 0 && w.extractLsb' 9 1 == 0 && fF w == 0) (.pxor (fG w) (fQ w) (w.extractLsb' 15 4) (w.extractLsb' 10 4) (w.extractLsb' 5 4))
  | 0x43 => checked (w.extractLsb' 19 1 == 0 && w.extractLsb' 14 1 == 0 && rB w == 0 && fF w == 0) (.pmov (fG w) (fQ w) (w.extractLsb' 15 4) (w.extractLsb' 10 4))
  | 0x44 => checked (w.extractLsb' 5 10 == 0 && validSpecial (w.extractLsb' 0 5)) (.mfs (fG w) (fQ w) (rD w) (w.extractLsb' 0 5))
  | 0x45 => checked (w.extractLsb' 5 10 == 0 && validSpecial (w.extractLsb' 0 5)) (.mts (fG w) (fQ w) (rD w) (w.extractLsb' 0 5))
  | _ => decodeScalar w

/-- Slot M (R108). -/
def decodeM (w : Lane) : Except DecodeError Instr :=
  match (opOf w).toNat with
  | 0x0 => checked (w.extractLsb' 0 20 == 0) (.nop (fG w) (fQ w) none)
  | 0x1 => checked (true) (.ldI8 (fG w) (fQ w) (rD w) (rA w) (fI10 w))
  | 0x2 => checked (true) (.ldN8 (fG w) (fQ w) (rD w) (rA w) (fI10 w))
  | 0x3 => checked (true) (.ldI16 (fG w) (fQ w) (rD w) (rA w) (fI10 w))
  | 0x4 => checked (true) (.ldN16 (fG w) (fQ w) (rD w) (rA w) (fI10 w))
  | 0x5 => checked (true) (.ldI32 (fG w) (fQ w) (rD w) (rA w) (fI10 w))
  | 0x6 => checked (true) (.ldN32 (fG w) (fQ w) (rD w) (rA w) (fI10 w))
  | 0x7 => checked (true) (.ld64 (fG w) (fQ w) (rD w) (rA w) (fI10 w))
  | 0x8 => checked (true) (.st8 (fG w) (fQ w) (rD w) (rA w) (fI10 w))
  | 0x9 => checked (true) (.st16 (fG w) (fQ w) (rD w) (rA w) (fI10 w))
  | 0xa => checked (true) (.st32 (fG w) (fQ w) (rD w) (rA w) (fI10 w))
  | 0xb => checked (true) (.st64 (fG w) (fQ w) (rD w) (rA w) (fI10 w))
  | 0x18 => checked (true) (.gld (fG w) (fQ w) (rD w) (rA w) (fI10 w))
  | 0x19 => checked (true) (.gst (fG w) (fQ w) (rD w) (rA w) (fI10 w))
  | 0x10 => checked (true) (.tld (fG w) (fQ w) (rD w) (w.extractLsb' 9 6) (w.extractLsb' 5 4) (w.extractLsb' 0 5))
  | 0x11 => checked (true) (.tst (fG w) (fQ w) (rD w) (w.extractLsb' 9 6) (w.extractLsb' 5 4) (w.extractLsb' 0 5))
  | 0x12 => checked (true) (.rst (fG w) (fQ w) (rD w) (w.extractLsb' 9 6) (w.extractLsb' 7 2) (w.extractLsb' 5 2) (w.extractLsb' 0 5))
  | 0x20 => checked (fF w == 0) (.aadd (fG w) (fQ w) (rD w) (rA w) (rB w))
  | 0x21 => checked (fF w == 0) (.amin (fG w) (fQ w) (rD w) (rA w) (rB w))
  | 0x22 => checked (fF w == 0) (.amax (fG w) (fQ w) (rD w) (rA w) (rB w))
  | 0x23 => checked (fF w == 0) (.aswp (fG w) (fQ w) (rD w) (rA w) (rB w))
  | 0x24 => checked (true) (.acas (fG w) (fQ w) (rD w) (rA w) (rB w) (fF w))
  | 0x25 => checked (rD w == 0 && fF w == 0) (.acadd (fG w) (fQ w) (rA w) (rB w))
  | 0x30 => checked (w.extractLsb' 0 20 == 0) (.drainCl (fG w) (fQ w))
  | 0x31 => checked (w.extractLsb' 0 20 == 0) (.drainDie (fG w) (fQ w))
  | 0x32 => checked (w.extractLsb' 0 20 == 0) (.drainDev (fG w) (fQ w))
  | 0x33 => checked (w.extractLsb' 0 20 == 0) (.drainSys (fG w) (fQ w))
  | _ => .error .unassigned

/-- The opcodes of slot E other than the stream and Yarrow commands, with the token fields `x` of the extension
word where there is one (R109). -/
def decodeEPlain (w : Lane) (x : Option Ext) : Except DecodeError Instr :=
  match (opOf w).toNat with
  | 0x0 => checked (w.extractLsb' 0 20 == 0) (.nop (fG w) (fQ w) x)
  | 0x1 => checked (w.extractLsb' 0 20 == 0) (.tick (fG w) (fQ w) x)
  | 0x10 => checked (w.extractLsb' 0 20 == 0) (.gacq (fG w) (fQ w) x)
  | 0x11 => checked (w.extractLsb' 0 20 == 0) (.grel (fG w) (fQ w) x)
  | 0x30 => checked (w.extractLsb' 0 20 == 0) (.kwait (fG w) (fQ w) x)
  | 0x38 => checked (w.extractLsb' 0 20 == 0) (.trig (fG w) (fQ w) x)
  | 0x40 => checked (w.extractLsb' 0 20 == 0) (.arriveCl (fG w) (fQ w) x)
  | 0x41 => checked (w.extractLsb' 0 20 == 0) (.arriveDie (fG w) (fQ w) x)
  | 0x42 => checked (w.extractLsb' 0 20 == 0) (.arriveDev (fG w) (fQ w) x)
  | 0x43 => checked (w.extractLsb' 0 20 == 0) (.waitCl (fG w) (fQ w) x)
  | 0x44 => checked (w.extractLsb' 0 20 == 0) (.waitDie (fG w) (fQ w) x)
  | 0x45 => checked (w.extractLsb' 0 20 == 0) (.waitDev (fG w) (fQ w) x)
  | 0x46 => checked (w.extractLsb' 0 20 == 0) (.sync (fG w) (fQ w) x)
  | 0x2 => checked (rD w == 0 && w.extractLsb' 6 9 == 0 && decide (1 ≤ (w.extractLsb' 0 6).toNat) && decide ((w.extractLsb' 0 6).toNat ≤ 32)) (.spec (fG w) (fQ w) (w.extractLsb' 0 6) x)
  | 0x3 => checked (true) (.commit (fG w) (fQ w) (rD w) (fI15 w) x)
  | 0x4 => checked (rD w == 0 && w.extractLsb' 0 9 == 0) (.sclr (fG w) (fQ w) (w.extractLsb' 9 6) x)
  | 0x5 => checked (w.extractLsb' 0 9 == 0) (.sstat (fG w) (fQ w) (rD w) (w.extractLsb' 9 6) x)
  | 0x6 => .ok (.ckpt (fG w) { d := rD w, q := fQ w, i := fI15 w } x)
  | 0x12 => checked (rD w == 0) (.gcfg (fG w) (fQ w) (fI15 w) x)
  | 0x13 => checked (rD w == 0 && rB w == 0 && fF w == 0) (.grun (fG w) (fQ w) (rA w) x)
  | 0x14 => checked (rB w == 0 && w.extractLsb' 3 2 == 0 && decide ((w.extractLsb' 0 3).toNat ≤ 4)) (.gset (fG w) (fQ w) (rD w) (rA w) (w.extractLsb' 0 3) x)
  | 0x18 => checked (rD w == 0 && w.extractLsb' 5 10 == 0) (.mxload (fG w) (fQ w) (w.extractLsb' 0 5) x)
  | 0x1a => checked (rD w == 0 && w.extractLsb' 5 10 == 0) (.mxcall (fG w) (fQ w) (w.extractLsb' 0 5) x)
  | 0x19 => checked (rD w == 0 && rB w == 0 && w.extractLsb' 3 2 == 0) (.mxp (fG w) (fQ w) (w.extractLsb' 0 3) (rA w) x)
  | 0x26 => checked (rD w == 0 && rB w == 0) (.spos (fG w) (fQ w) (fF w) (rA w) x)
  | 0x28 => checked (w.extractLsb' 18 2 == 0 && rB w == 0 && w.extractLsb' 4 1 == 0 && decide ((w.extractLsb' 0 4).toNat ≤ 11)) (.dset (fG w) (fQ w) (w.extractLsb' 15 3) (w.extractLsb' 0 4) (rA w) x)
  | 0x29 => checked (w.extractLsb' 13 2 == 0 && rB w == 0 && w.extractLsb' 4 1 == 0 && decide ((w.extractLsb' 0 4).toNat ≤ 11)) (.dget (fG w) (fQ w) (rD w) (w.extractLsb' 10 3) (w.extractLsb' 0 4) x)
  | 0x2a => checked (w.extractLsb' 18 2 == 0 && fI15 w == 0) (.dclr (fG w) (fQ w) (w.extractLsb' 15 3) x)
  | 0x31 => checked (fI15 w == 0) (.kpoll (fG w) (fQ w) (rD w) x)
  | 0x39 => checked (rD w == 0 && fF w == 0) (.launch (fG w) (fQ w) (rA w) (rB w) x)
  | _ => .error .unassigned

/-- Whether a slot E word is a stream or Yarrow command, which always carries an extension word (R160). -/
def isStreamOp (w : Lane) : Bool := decide (0x20 ≤ (opOf w).toNat ∧ (opOf w).toNat ≤ 0x25)

/-- The stream and Yarrow commands: slot word `w`, extension word `x` (R160, R161). -/
def decodeStream (w x : Lane) : Except DecodeError Instr :=
  match (opOf w).toNat with
  | 0x20 =>
    if fF w == 0 then checked (w.extractLsb' 18 2 == 0 && rB w == 0 && fF w == 0 && x.extractLsb' 15 1 == 0 && decide ((x.extractLsb' 0 7).toNat ≤ 64)) (.sload (fG w) (fQ w) (x.extractLsb' 13 2) (x.extractLsb' 7 6) (x.extractLsb' 0 7) (w.extractLsb' 15 3) (rA w) (tokensOf x))
    else checked (w.extractLsb' 18 2 == 0 && fF w == 1 && x.extractLsb' 15 1 == 0 && x.extractLsb' 0 13 == 0) (.sloadPl (fG w) (fQ w) (x.extractLsb' 13 2) (w.extractLsb' 15 3) (rA w) (rB w) (tokensOf x))
  | 0x21 => checked (w.extractLsb' 18 2 == 0 && rB w == 0 && fF w == 0 && x.extractLsb' 14 2 == 2) (.sstore (fG w) (fQ w) (x.extractLsb' 13 1) (x.extractLsb' 7 6) (x.extractLsb' 0 7) (w.extractLsb' 15 3) (rA w) (tokensOf x))
  | 0x22 => checked (w.extractLsb' 18 2 == 0 && w.extractLsb' 3 2 == 0 && decide ((x.extractLsb' 13 3).toNat < 6) && x.extractLsb' 0 13 == 0) (.scopy (fG w) (fQ w) (x.extractLsb' 13 3) (w.extractLsb' 15 3) (w.extractLsb' 0 3) (rA w) (rB w) (tokensOf x))
  | 0x23 => checked (w.extractLsb' 18 2 == 0 && w.extractLsb' 0 3 == 0 && decide ((w.extractLsb' 3 2).toNat ≤ 2) && x.extractLsb' 15 1 == 0 && decide ((x.extractLsb' 0 7).toNat ≤ 64)) (.sgather (fG w) (fQ w) (x.extractLsb' 13 2) (x.extractLsb' 7 6) (x.extractLsb' 0 7) (w.extractLsb' 15 3) (rA w) (rB w) (w.extractLsb' 3 2) (tokensOf x))
  | 0x24 => checked (w.extractLsb' 19 1 == 0 && decide ((w.extractLsb' 0 2).toNat ≤ 2) && decide ((w.extractLsb' 3 2).toNat ≤ 2) && x.extractLsb' 15 1 == 0 && decide ((x.extractLsb' 0 7).toNat ≤ 64)) (.sreduce (fG w) (fQ w) (w.extractLsb' 18 1 == 1) (x.extractLsb' 13 2) (x.extractLsb' 7 6) (x.extractLsb' 0 7) (w.extractLsb' 15 3) (rA w) (rB w) (w.extractLsb' 0 2) (w.extractLsb' 2 1 == 1) (w.extractLsb' 3 2) (tokensOf x))
  | 0x25 => checked (w.extractLsb' 18 2 == 0 && w.extractLsb' 0 3 == 0 && decide ((w.extractLsb' 3 2).toNat ≤ 2) && x.extractLsb' 14 2 == 2) (.sscatter (fG w) (fQ w) (x.extractLsb' 13 1) (x.extractLsb' 7 6) (x.extractLsb' 0 7) (w.extractLsb' 15 3) (rA w) (rB w) (w.extractLsb' 3 2) (tokensOf x))
  | _ => .error .unassigned

/-- Slot E: slot word `w`, and the extension word where the bundle has one (R109, R151, R160). -/
def decodeE (w : Lane) (x : Option Lane) : Except DecodeError Instr :=
  if isStreamOp w then
    match x with
    | none => .error .needsExt
    | some x => decodeStream w x
  else
    match x with
    | none => decodeEPlain w none
    | some x =>
      match decodeEPlain w (some (tokensOf x)) with
      | .error e => .error e
      | .ok i => checked (x.extractLsb' 0 16 == 0) i

/-- A slot word of a class, with slot 3's extension word where there is one (R107 to R109). -/
def decodeSlot (c : SlotClass) (w : Lane) (x : Option Lane) : Except DecodeError Instr :=
  match c with
  | .a => decodeA w
  | .b => decodeB w
  | .m => decodeM w
  | .e => decodeE w x

/-- A micro-word (R225): `unassigned` for the reserved MOPs, `reserved` for a field or count that R225 forbids. -/
def decodeMicro (w : Lane) : Except DecodeError Instr :=
  match (w.extractLsb' 28 4).toNat with
  | 0x0 => checked (w.extractLsb' 0 28 == 0) .mEnd
  | 0x1 => checked (w.extractLsb' 2 26 == 0) (.fmt (w.extractLsb' 0 2))
  | 0x2 => checked (w.extractLsb' 1 27 == 0) (.bindA (w.extractLsb' 0 1 == 1))
  | 0x3 => checked (w.extractLsb' 27 1 == 0 && w.extractLsb' 1 23 == 0) (.bindB (w.extractLsb' 24 3) (w.extractLsb' 0 1 == 1))
  | 0x4 => checked (w.extractLsb' 27 1 == 0 && w.extractLsb' 1 23 == 0) (.bindAcc (w.extractLsb' 24 3) (w.extractLsb' 0 1 == 1))
  | 0x5 => checked (w.extractLsb' 27 1 == 0 && w.extractLsb' 0 24 == 0) (.scl (w.extractLsb' 24 3))
  | 0x6 =>
    if w.extractLsb' 27 1 == 0 then
      checked (w.extractLsb' 12 15 == 0 && w.extractLsb' 0 12 != 0) (.pass (w.extractLsb' 0 12))
    else checked (w.extractLsb' 0 24 == 0) (.passParam (w.extractLsb' 24 3))
  | 0x7 =>
    if w.extractLsb' 27 1 == 0 then
      checked (w.extractLsb' 12 15 == 0 && w.extractLsb' 0 12 != 0) (.lp (w.extractLsb' 0 12))
    else checked (w.extractLsb' 0 24 == 0) (.lpParam (w.extractLsb' 24 3))
  | 0x8 => checked (w.extractLsb' 0 28 == 0) .el
  | 0x9 => checked (w.extractLsb' 27 1 == 0 && w.extractLsb' 16 8 == 0) (.padd (w.extractLsb' 24 3) (w.extractLsb' 0 16))
  | 0xA => checked (w.extractLsb' 10 18 == 0) (.zacc (w.extractLsb' 0 10))
  | 0xB => checked (w.extractLsb' 26 2 == 0) (.anch (w.extractLsb' 16 10) (w.extractLsb' 0 16))
  | 0xC => checked (w.extractLsb' 0 28 == 0) .tok
  | 0xD => checked (w.extractLsb' 4 24 == 0 && w.extractLsb' 0 4 != 0) (.wt (w.extractLsb' 0 4))
  | _ => .error .unassigned

/-- The header of a bundle (R101). -/
structure Header where
  pres : BitVec 4
  rep : BitVec 4
  ex : Bool
  hint : BitVec 2
  rsvd : BitVec 5
  inc : BitVec 16
  deriving DecidableEq, Repr

/-- The fields of a header word (R101). -/
def headerOf (w : Lane) : Header :=
  { pres := w.extractLsb' 28 4, rep := w.extractLsb' 24 4, ex := w.extractLsb' 23 1 == 1,
    hint := w.extractLsb' 21 2, rsvd := w.extractLsb' 16 5, inc := w.extractLsb' 0 16 }

/-- How many words a bundle has: the header, a word for each present slot, and the extension word when EX is set
and slot 3 is present (R101, R103). -/
def Header.words (h : Header) : Nat :=
  1 + (h.pres.extractLsb' 0 1).toNat + (h.pres.extractLsb' 1 1).toNat + (h.pres.extractLsb' 2 1).toNat
    + (h.pres.extractLsb' 3 1).toNat + (if h.ex && h.pres.extractLsb' 3 1 == 1 then 1 else 0)

/-- Little-endian words from bytes; a tail of fewer than four bytes is dropped. -/
def wordsOfBytes : List Byte → List Lane
  | a :: b :: c :: d :: r => (d ++ c ++ b ++ a) :: wordsOfBytes r
  | _ => []

/-- The decoded instruction as an option. -/
def okInstr : Except DecodeError Instr → Option Instr
  | .ok i => some i
  | .error _ => none

/-- The first of several decodings that succeeds. -/
def firstOk : List (Except DecodeError Instr) → Option Instr
  | [] => none
  | .ok i :: _ => some i
  | .error _ :: r => firstOk r

/-- The instruction and the class in which it is read from a bare slot word or micro-word. The word of a slot does not
carry its class and a micro-word may equal a slot word, so the classes are tried in a fixed order: a micro-word with a
nonzero MOP first where slot A's reading would have a guard other than p0, then slots A, B, M, E, then a micro-word
(log entry 6). -/
def readWord (w : Lane) (x : Option Lane) : Option Instr :=
  let micro := decodeMicro w
  let slots := [decodeSlot .a w none, decodeSlot .b w none, decodeSlot .m w none, decodeSlot .e w x, micro]
  if fG w == 0 then firstOk slots else firstOk (micro :: slots)

/-- The instruction the decoder reads from an instruction whose bits are `w`, `nbits` of them from the table, the bits
above zero: bits 31 to 0 are the slot word or micro-word, and bits 63 to 32 the extension word of slot E. -/
def decodeTableWord (_nbits w : Nat) : Option Instr :=
  let lo : Lane := BitVec.ofNat 32 w
  readWord lo (if isStreamOp lo then some (BitVec.ofNat 32 (w >>> 32)) else none)

/-- The words of an instruction that has an encoding, from the encoding tables of R101 to R109, R160, R161 and R225: the slot
word, and the extension word where there is one; or the micro-word. An event has none. -/
def encode : Instr → List Lane
  | .nop g q x => packFL g q 0x00 0 0 :: encodeExt x
  | .add g q d a b => [packF3 g q 0x1 d a b 0]
  | .sub g q d a b => [packF3 g q 0x2 d a b 0]
  | .mul g q d a b => [packF3 g q 0x4 d a b 0]
  | .mulh g q d a b => [packF3 g q 0x5 d a b 0]
  | .mulhn g q d a b => [packF3 g q 0x6 d a b 0]
  | .div g q d a b => [packF3 g q 0x7 d a b 0]
  | .divn g q d a b => [packF3 g q 0x8 d a b 0]
  | .rem g q d a b => [packF3 g q 0x9 d a b 0]
  | .remn g q d a b => [packF3 g q 0xa d a b 0]
  | .min g q d a b => [packF3 g q 0xb d a b 0]
  | .max g q d a b => [packF3 g q 0xc d a b 0]
  | .minn g q d a b => [packF3 g q 0xd d a b 0]
  | .maxn g q d a b => [packF3 g q 0xe d a b 0]
  | .and g q d a b => [packF3 g q 0xf d a b 0]
  | .or g q d a b => [packF3 g q 0x10 d a b 0]
  | .xor g q d a b => [packF3 g q 0x11 d a b 0]
  | .andn g q d a b => [packF3 g q 0x12 d a b 0]
  | .shl g q d a b => [packF3 g q 0x13 d a b 0]
  | .shr g q d a b => [packF3 g q 0x14 d a b 0]
  | .sra g q d a b => [packF3 g q 0x15 d a b 0]
  | .addi g q d a i => [packFI g q 0x3 d a i]
  | .shli g q d a i => [packFI g q 0x16 d a (0#4 ++ i)]
  | .shri g q d a i => [packFI g q 0x17 d a (0#4 ++ i)]
  | .srai g q d a i => [packFI g q 0x18 d a (0#4 ++ i)]
  | .movi g q d i => [packFL g q 0x19 d i]
  | .lhi g q d i => [packFL g q 0x1a d i]
  | .sxI8 g q d a => [packF3 g q 0x1b d a 0 0]
  | .sxI16 g q d a => [packF3 g q 0x1c d a 0 0]
  | .sxI32 g q d a => [packF3 g q 0x1d d a 0 0]
  | .zxN8 g q d a => [packF3 g q 0x1e d a 0 0]
  | .zxN16 g q d a => [packF3 g q 0x1f d a 0 0]
  | .zxN32 g q d a => [packF3 g q 0x20 d a 0 0]
  | .clz g q d a => [packF3 g q 0x21 d a 0 0]
  | .ctz g q d a => [packF3 g q 0x22 d a 0 0]
  | .popc g q d a => [packF3 g q 0x23 d a 0 0]
  | .sel g q d a b f => [packF3 g q 0x24 d a b (0#1 ++ f)]
  | .cmpEq g q pd a b => [packF3 g q 0x25 (0#1 ++ pd ++ 0#1) a b 0]
  | .cmpNe g q pd a b => [packF3 g q 0x26 (0#1 ++ pd ++ 0#1) a b 0]
  | .cmpLt g q pd a b => [packF3 g q 0x27 (0#1 ++ pd ++ 0#1) a b 0]
  | .cmpLe g q pd a b => [packF3 g q 0x28 (0#1 ++ pd ++ 0#1) a b 0]
  | .cmpLtn g q pd a b => [packF3 g q 0x29 (0#1 ++ pd ++ 0#1) a b 0]
  | .cmpLen g q pd a b => [packF3 g q 0x2a (0#1 ++ pd ++ 0#1) a b 0]
  | .cmpiEq g q pd a i => [packFI g q 0x2b (0#1 ++ pd ++ 0#1) a i]
  | .cmpiNe g q pd a i => [packFI g q 0x2c (0#1 ++ pd ++ 0#1) a i]
  | .cmpiLt g q pd a i => [packFI g q 0x2d (0#1 ++ pd ++ 0#1) a i]
  | .cmpiLe g q pd a i => [packFI g q 0x2e (0#1 ++ pd ++ 0#1) a i]
  | .cmpiLtn g q pd a i => [packFI g q 0x2f (0#1 ++ pd ++ 0#1) a i]
  | .cmpiLen g q pd a i => [packFI g q 0x30 (0#1 ++ pd ++ 0#1) a i]
  | .b g q i => [packFB g q 0x40 i]
  | .bi g q a => [packF3 g q 0x41 0 a 0 0]
  | .jt g q a b n => [packF3 g q 0x42 0 a b n]
  | .call g q i => [packFB g q 0x43 i]
  | .calli g q a => [packF3 g q 0x44 0 a 0 0]
  | .ret g q => [packFL g q 0x45 0 0]
  | .halt g q => [packFL g q 0x47 0 0]
  | .rett g q => [packFL g q 0x49 0 0]
  | .loop g d i => [packFL g false 0x46 d i]
  | .trap g q n => [packFL g q 0x48 0 n]
  | .pand g q d a b => [packF3 g q 0x40 (0#1 ++ d) (0#1 ++ a) (0#1 ++ b) 0]
  | .por g q d a b => [packF3 g q 0x41 (0#1 ++ d) (0#1 ++ a) (0#1 ++ b) 0]
  | .pxor g q d a b => [packF3 g q 0x42 (0#1 ++ d) (0#1 ++ a) (0#1 ++ b) 0]
  | .pmov g q d a => [packF3 g q 0x43 (0#1 ++ d) (0#1 ++ a) 0 0]
  | .mfs g q d n => [packFL g q 0x44 d (0#10 ++ n)]
  | .mts g q d n => [packFL g q 0x45 d (0#10 ++ n)]
  | .ldI8 g q d a i => [packFI g q 0x1 d a i]
  | .ldN8 g q d a i => [packFI g q 0x2 d a i]
  | .ldI16 g q d a i => [packFI g q 0x3 d a i]
  | .ldN16 g q d a i => [packFI g q 0x4 d a i]
  | .ldI32 g q d a i => [packFI g q 0x5 d a i]
  | .ldN32 g q d a i => [packFI g q 0x6 d a i]
  | .ld64 g q d a i => [packFI g q 0x7 d a i]
  | .st8 g q d a i => [packFI g q 0x8 d a i]
  | .st16 g q d a i => [packFI g q 0x9 d a i]
  | .st32 g q d a i => [packFI g q 0xa d a i]
  | .st64 g q d a i => [packFI g q 0xb d a i]
  | .gld g q d a i => [packFI g q 0x18 d a i]
  | .gst g q d a i => [packFI g q 0x19 d a i]
  | .tld g q d n lag u => [packFT g q 0x10 d n (lag ++ u)]
  | .tst g q d n lag u => [packFT g q 0x11 d n (lag ++ u)]
  | .rst g q d n pos a u => [packFT g q 0x12 d n (pos ++ a ++ u)]
  | .aadd g q d a b => [packF3 g q 0x20 d a b 0]
  | .amin g q d a b => [packF3 g q 0x21 d a b 0]
  | .amax g q d a b => [packF3 g q 0x22 d a b 0]
  | .aswp g q d a b => [packF3 g q 0x23 d a b 0]
  | .acas g q d a b f => [packF3 g q 0x24 d a b f]
  | .acadd g q a b => [packF3 g q 0x25 0 a b 0]
  | .drainCl g q => [packFL g q 0x30 0 0]
  | .drainDie g q => [packFL g q 0x31 0 0]
  | .drainDev g q => [packFL g q 0x32 0 0]
  | .drainSys g q => [packFL g q 0x33 0 0]
  | .tick g q x => packFL g q 0x1 0 0 :: encodeExt x
  | .gacq g q x => packFL g q 0x10 0 0 :: encodeExt x
  | .grel g q x => packFL g q 0x11 0 0 :: encodeExt x
  | .kwait g q x => packFL g q 0x30 0 0 :: encodeExt x
  | .trig g q x => packFL g q 0x38 0 0 :: encodeExt x
  | .arriveCl g q x => packFL g q 0x40 0 0 :: encodeExt x
  | .arriveDie g q x => packFL g q 0x41 0 0 :: encodeExt x
  | .arriveDev g q x => packFL g q 0x42 0 0 :: encodeExt x
  | .waitCl g q x => packFL g q 0x43 0 0 :: encodeExt x
  | .waitDie g q x => packFL g q 0x44 0 0 :: encodeExt x
  | .waitDev g q x => packFL g q 0x45 0 0 :: encodeExt x
  | .sync g q x => packFL g q 0x46 0 0 :: encodeExt x
  | .spec g q n x => packFL g q 0x2 0 (0#9 ++ n) :: encodeExt x
  | .commit g q d n x => packFL g q 0x3 d n :: encodeExt x
  | .sclr g q n x => packFT g q 0x4 0 n 0 :: encodeExt x
  | .sstat g q d n x => packFT g q 0x5 d n 0 :: encodeExt x
  | .ckpt g d x => packFL g d.q 0x6 d.d d.i :: encodeExt x
  | .gcfg g q n x => packFL g q 0x12 0 n :: encodeExt x
  | .grun g q a x => packF3 g q 0x13 0 a 0 0 :: encodeExt x
  | .gset g q t a f x => packF3 g q 0x14 t a 0 (0#2 ++ f) :: encodeExt x
  | .mxload g q n x => packFL g q 0x18 0 (0#10 ++ n) :: encodeExt x
  | .mxcall g q n x => packFL g q 0x1a 0 (0#10 ++ n) :: encodeExt x
  | .mxp g q n a x => packF3 g q 0x19 0 a 0 (0#2 ++ n) :: encodeExt x
  | .spos g q n a x => packF3 g q 0x26 0 a 0 n :: encodeExt x
  | .dset g q k w' a x => packF3 g q 0x28 (0#2 ++ k) a 0 (0#1 ++ w') :: encodeExt x
  | .dget g q d k w' x => packF3 g q 0x29 d (0#2 ++ k) 0 (0#1 ++ w') :: encodeExt x
  | .dclr g q k x => packFL g q 0x2a (0#2 ++ k) 0 :: encodeExt x
  | .kpoll g q d x => packFL g q 0x31 d 0 :: encodeExt x
  | .launch g q a b x => packF3 g q 0x39 0 a b 0 :: encodeExt x
  | .sload g q e n pos k a x => [packF3 g q 0x20 (0#2 ++ k) a 0 0, packExt x (0#1 ++ e ++ n ++ pos)]
  | .sloadPl g q e k a b x => [packF3 g q 0x20 (0#2 ++ k) a b 1, packExt x (0#1 ++ e ++ 0#13)]
  | .sstore g q e n off k a x => [packF3 g q 0x21 (0#2 ++ k) a 0 0, packExt x (2#2 ++ e ++ n ++ off)]
  | .scopy g q e k j a b x => [packF3 g q 0x22 (0#2 ++ k) a b (0#2 ++ j), packExt x (e ++ 0#13)]
  | .sgather g q e n pos k a b oor x => [packF3 g q 0x23 (0#2 ++ k) a b (oor ++ 0#3), packExt x (0#1 ++ e ++ n ++ pos)]
  | .sreduce g q wt e n pos k a b red dis oor x => [packF3 g q 0x24 (0#1 ++ BitVec.ofBool wt ++ k) a b (oor ++ BitVec.ofBool dis ++ red), packExt x (0#1 ++ e ++ n ++ pos)]
  | .sscatter g q e n off k a b oor x => [packF3 g q 0x25 (0#2 ++ k) a b (oor ++ 0#3), packExt x (2#2 ++ e ++ n ++ off)]
  | .mEnd => [packM 0 0 0 0]
  | .fmt f => [packM 1 0 0 (0#22 ++ f)]
  | .bindA m => [packM 2 0 0 (0#23 ++ BitVec.ofBool m)]
  | .bindB p s => [packM 3 0 p (0#23 ++ BitVec.ofBool s)]
  | .bindAcc p s => [packM 4 0 p (0#23 ++ BitVec.ofBool s)]
  | .scl p => [packM 5 0 p 0]
  | .pass c => [packM 6 0 0 (0#12 ++ c)]
  | .passParam p => [packM 6 1 p 0]
  | .lp c => [packM 7 0 0 (0#12 ++ c)]
  | .lpParam p => [packM 7 1 p 0]
  | .el => [packM 8 0 0 0]
  | .padd p v => [packM 9 0 p (0#8 ++ v)]
  | .zacc n => [packM 10 0 0 (0#14 ++ n)]
  | .anch n a => [11#4 ++ 0#2 ++ n ++ a]
  | .tok => [packM 12 0 0 0]
  | .wt k => [packM 13 0 0 (0#20 ++ k)]
  | .emptyBundle => []
  | .slotTableEffect _ => []
  | .tickStep _ => []
  | .gridGrant _ => []
  | .configurationLoad _ => []
  | .gsetApply _ => []
  | .grunStart _ => []
  | .gridWord _ => []
  | .attarComplete _ _ => []
  | .grunPerform _ => []
  | .readoutSnapshot _ _ => []
  | .readoutRowDeliver _ _ => []
  | .routineLoad _ => []
  | .routineCallStart _ => []
  | .arrayCycle _ => []
  | .accumulateLand _ => []
  | .streamCommandTake _ _ => []
  | .fillWindow _ _ => []
  | .indexLookup _ _ => []
  | .drainSample _ _ => []
  | .copyUnit _ _ => []
  | .streamRetry _ _ => []
  | .yarrowGather _ _ => []
  | .yarrowPool _ _ => []
  | .yarrowScatterAdd _ _ => []
  | .atomicPerform _ => []
  | .cellAddPerform _ => []
  | .deviceReadReturn _ => []
  | .deviceWritePerform _ => []
  | .remoteWritePerform _ => []
  | .launchPost _ => []
  | .barrierRelease _ => []
  | .syncRestart _ => []
  | .launchPlacement => []
  | .aging _ => []
  | .contextRelease _ => []
  | .kernelComplete _ => []
  | .faultRecordPost => []
  | .tailWrite _ _ => []
  | .stopClear _ => []
  | .registerWrite _ _ => []
  | .load _ _ _ => []
  | .unload _ => []
  | .create _ => []
  | .destroy _ => []
  | .map _ _ _ => []
  | .inval _ => []
  | .invalidationPerform _ => []
  | .qcfg _ _ => []
  | .power _ => []
  | .slot _ _ => []
  | .ctxget _ _ _ => []
  | .resume _ _ _ _ => []
  | .abort _ _ => []
  | .getVersion => []
  | .getCapabilities => []
  | .negotiateAlgorithms => []
  | .getDigests => []
  | .getCertificate => []
  | .challenge => []
  | .getMeasurements _ => []
  | .keyExchange => []
  | .finish => []
  | .endSession => []
  | .cxlMemRead _ _ => []
  | .cxlMemWrite _ _ => []
  | .boot _ _ _ => []
  | .powerSample _ _ _ => []
  | .linkFlitCrcFail _ => []
  | .hostAccessError _ _ => []
  | .uncorrectableError _ _ _ _ => []
  | .landingAfterLastEnd _ => []
  | .linkPortUp _ _ _ => []
  | .apertureAccessArrival _ _ _ _ => []
  | .mailboxOpcodeRefused _ => []

/-- The slot classes in whose tables an instruction stands (R107 to R109); `nop` stands in all four, its token form in
slot E alone. -/
def Instr.classes : Instr → List SlotClass
  | .nop _ _ none => [.a, .b, .m, .e]
  | .nop _ _ (some _) => [.e]
  | .add .. | .sub .. | .addi .. | .mul .. | .mulh .. | .mulhn .. | .div .. | .divn .. | .rem .. | .remn ..
    | .min .. | .max .. | .minn .. | .maxn .. | .and .. | .or .. | .xor .. | .andn .. | .shl .. | .shr ..
    | .sra .. | .shli .. | .shri .. | .srai .. | .movi .. | .lhi .. | .sxI8 .. | .sxI16 .. | .sxI32 ..
    | .zxN8 .. | .zxN16 .. | .zxN32 .. | .clz .. | .ctz .. | .popc .. | .sel .. | .cmpEq .. | .cmpNe ..
    | .cmpLt .. | .cmpLe .. | .cmpLtn .. | .cmpLen .. | .cmpiEq .. | .cmpiNe .. | .cmpiLt .. | .cmpiLe ..
    | .cmpiLtn .. | .cmpiLen .. => [.a, .b]
  | .b .. | .bi .. | .jt .. | .call .. | .calli .. | .ret .. | .loop .. | .halt .. | .trap .. | .rett .. => [.a]
  | .pand .. | .por .. | .pxor .. | .pmov .. | .mfs .. | .mts .. => [.b]
  | .ldI8 .. | .ldN8 .. | .ldI16 .. | .ldN16 .. | .ldI32 .. | .ldN32 .. | .ld64 .. | .st8 .. | .st16 ..
    | .st32 .. | .st64 .. | .tld .. | .tst .. | .rst .. | .gld .. | .gst .. | .aadd .. | .amin .. | .amax ..
    | .aswp .. | .acas .. | .acadd .. | .drainCl .. | .drainDie .. | .drainDev .. | .drainSys .. => [.m]
  | .tick .. | .spec .. | .commit .. | .sclr .. | .sstat .. | .ckpt .. | .gacq .. | .grel .. | .gcfg ..
    | .grun .. | .gset .. | .mxload .. | .mxp .. | .mxcall .. | .sload .. | .sloadPl .. | .sstore .. | .scopy ..
    | .sgather .. | .sreduce .. | .sscatter .. | .spos .. | .dset .. | .dget .. | .dclr .. | .kwait ..
    | .kpoll .. | .trig .. | .launch .. | .arriveCl .. | .arriveDie .. | .arriveDev .. | .waitCl ..
    | .waitDie .. | .waitDev .. | .sync .. => [.e]
  | _ => []

/-- Whether an instruction is a micro-operation (R225). -/
def Instr.isMicro : Instr → Bool
  | .mEnd .. | .fmt .. | .bindA .. | .bindB .. | .bindAcc .. | .scl .. | .pass .. | .passParam .. | .lp ..
    | .lpParam .. | .el .. | .padd .. | .zacc .. | .anch .. | .tok .. | .wt .. => true
  | _ => false

end Sys2Proof
end

