-- ==== Sys2Proof/Machine/State.lean ====
section
/-! DEFINITION. The state of the part as plain data, and the state after reset. Every structure names the rules that give it. -/

namespace Sys2Proof.Machine

/-- Why the machine stops with a fault. The part's own faults (R290 to R341) are taken by the context or reported by
records, and the machine goes on, so they are next states. -/
inductive Fault where
  /-- No meaning raises it: every condition that this part detects is taken by the context or reported by a record
  (R290), which is a next state. Safe. -/
  | none
  deriving DecidableEq, Repr

/-- Why an instruction has no meaning here. -/
inductive Refusal where
  /-- An arm of `exec` without a meaning yet; safe: the run stops. -/
  | notModelled (mnemonic : String)
  deriving DecidableEq, Repr

/-! ### Memories -/

/-- A byte store: address and byte pairs, addresses strictly rising, no entry equal to what an unlisted address reads as
(0, log entry 4). -/
abbrev Memory := List Host.Cell

/-- The key under which each byte of an encrypted store was last written (R257, R258): address and key pairs, addresses
strictly rising; an unlisted byte has been written by none. -/
abbrev Owners := List (Nat × Nat)

/-! ### The control processor's context -/

/-- Where a result lands (R325). -/
inductive Dest where
  | x (r : Reg)
  | pair (n : PredPair)
  | pred (p : Pred)
  deriving DecidableEq, Repr

/-- A result in flight (R113): it lands at step 1 of the bundle that `rem` further bundles of the context precede,
counted from the next bundle. -/
structure LandRec where
  dest : Dest
  value : Word
  rem : Nat
  sq : Bool
  deriving DecidableEq, Repr

/-- A hardware loop (R133, R134, R325): remaining count, offsets of the body's first bundle and of the end bundle. -/
structure HwLoop where
  active : Bool := false
  count : BitVec 32 := 0
  first : Word := 0
  last : Word := 0
  deriving DecidableEq, Repr

/-- A taken control transfer: to an offset, or the return of `rett` to the EPC that it read at issue (R127, R132). -/
inductive Transfer where
  | goto (t : Word)
  | trapReturn (t : Word)
  deriving DecidableEq, Repr

/-- Whether the next bundle is a delay bundle, and of which transfer (R112, R294). -/
inductive Delay where
  | none
  | untaken
  | taken (t : Transfer)
  deriving DecidableEq, Repr

/-- The state of one context that the context block holds (R95, R96, R325). -/
structure Block where
  x : Vector Word 32 := Vector.replicate 32 0
  p : BitVec 16 := 1
  d : Vector (Vector Word 12) 8 := Vector.replicate 8 (Vector.replicate 12 0)
  k : BitVec 16 := 0
  mp : Vector Lane 8 := Vector.replicate 8 0
  trapped : Bool := false
  triggered : Bool := false
  stopped : Bool := false
  now : BitVec 48 := 0
  nowc : BitVec 48 := 0
  specd : BitVec 6 := 0
  pc : Word := 0
  delay : Delay := .none
  flags : BitVec 7 := 0
  tvec : Word := 0
  epc : Word := 0
  btarg : Word := 0
  cause : BitVec 8 := 0
  faddr : Word := 0
  outer : HwLoop := {}
  inner : HwLoop := {}
  pOuter : HwLoop := {}
  pInner : HwLoop := {}
  rstk : List Word := []
  spilled : Nat := 0
  base : Vector Lane 4 := Vector.replicate 4 0
  baseExt : Option Lane := none
  land : List LandRec := []
  parked : List LandRec := []
  arrive : Vector Word 3 := Vector.replicate 3 0
  sync : Word := 0
  /-- whether the implicit checkpoint of the bundle at `pc` has been taken (R342) -/
  bdone : Bool := false
  deriving DecidableEq, Repr

/-! ### Signals -/

/-- The producer a signal is bound to (R56), in the code order of R69. -/
inductive Binding where
  | unbound | stream | grid | cp | remote
  deriving DecidableEq, Repr

/-- The states of a slot (R61), in the code order of R69. -/
inductive SlotState where
  | free | filling | full | draining
  deriving DecidableEq, Repr

/-- A slot of a signal (R61): state, sample tag, claim NOW, held mark, rows written, the rows. `past` marks a claim made before the tick
that NOWC counts (R64, log entry 44), `fresh` one made since the context's last checkpoint boundary (R345). -/
structure SigSlot where
  st : SlotState := .free
  tag : Nat := 0
  claim : BitVec 48 := 0
  held : Bool := false
  rows : BitVec 64 := 0
  data : List Row := []
  past : Bool := false
  fresh : Bool := false
  deriving DecidableEq, Repr

/-- An entry of a signal plan (R22, R30, R55). -/
structure Plan where
  sig : SigNum := 0
  fmt : BitVec 8
  rows : Nat
  depth : Nat
  lead : Nat
  rate : Nat
  phase : Nat
  start : Lane
  isStatic : Bool
  isRemote : Bool
  deriving DecidableEq, Repr

/-- A planned signal (R54): its plan, its first byte in the core's signal store, advance count, binding and N = D + L
slots. -/
structure Signal where
  plan : Plan
  base : Nat := 0
  adv : Nat := 0
  bind : Binding
  slots : List SigSlot
  deriving DecidableEq, Repr

/-! ### Commands, faults and accesses in flight -/

/-- A pending deferred fault (R298, R306). `fills` are the ranges of samples, by signal, that the command did not make, and
`frees` those it did not free; `sig` is the signal it names; `writes` that a drain covers it; `atSys` that only a
drain at `sys`, a barrier or a `halt` delivers it (R338, R339); `susp` that a translation fault suspends it (R315). -/
structure PendFault where
  id : Nat
  kp : BitVec 4
  cause : BitVec 8
  source : BitVec 3
  unit : BitVec 3
  detail : Word
  fills : List (SigNum × Nat × Nat) := []
  frees : List (SigNum × Nat × Nat) := []
  sig : Option SigNum := none
  writes : Bool := false
  atSys : Bool := false
  susp : Bool := false
  deriving DecidableEq, Repr

/-- The kinds of write in flight to device memory: a `gst`, the atomics, a cell addition, and a unit that a stream command
writes, with its pieces in physical memory (R146, R148, R149, R247, R262). -/
inductive PostKind where
  | store
  | aadd | amin | amax | aswp
  | acas (cmp : Word)
  | cell
  | unit (pieces : List (Nat × Nat)) (bytes : List Byte)
  deriving DecidableEq, Repr

/-- The scopes at which a `gst` has performed (R262): `none`, `cl`, `die`; at `dev` it leaves the list. -/
inductive Scope where
  | none | cl | die | dev | sys
  deriving DecidableEq, Repr

/-- A write in flight (R146 to R149, R262): its number, the issue number of its instruction or command, the engine that
makes it (none for the context itself), issuing context, kernel, domain and its key, address, datum, the scopes at which it has
performed, and the age of its translation (R256). `read` marks an atomic that returns its old value, `late` a write issued after the
triggering of a context that has been released (R271); `ord` is the number of an engine's unit in its command (R236, R240, R247). -/
structure Posted where
  id : Nat
  cmd : Nat
  eng : Option (Fin 6)
  src : CtxId
  kid : Nat
  dom : DomNum
  key : Nat
  kind : PostKind
  va : Word
  pa : Nat
  data : Word
  scope : Scope
  read : Bool
  born : Nat := 0
  late : Bool := false
  ord : Nat := 0
  deriving DecidableEq, Repr

/-- The access whose value the context's next bundle waits for (R111, R146, R148), with the age of its translation. `value` is
set once an atomic has performed; `lost` are the held stores that a `commit` of the same bundle has discarded, which it still reads (R27,
R71). -/
structure PendRead where
  atomic : Bool
  va : Word
  pa : Nat
  dest : Reg
  sq : Bool
  value : Option Word
  born : Nat := 0
  lost : List (Nat × Word) := []
  deriving DecidableEq, Repr

/-- A `gst` in the hold buffer (R71, R345): its NOW tag, whether a boundary (R345) or a `commit` (R71) releases it, and the age
of its translation. -/
structure HeldStore where
  id : Nat
  va : Word
  pa : Nat
  data : Word
  now : BitVec 48
  spec : Bool
  born : Nat := 0
  deriving DecidableEq, Repr

/-- A posted atomic or cell addition held until the next boundary (R345), with the words SIG covers (R346). -/
structure HeldPost where
  post : Posted
  word : Lane
  a : Word
  b : Word
  deriving DecidableEq, Repr

/-- A queued remote store (R145): issuing context, partner's spatial point, signal, position, unit, value. -/
structure Remote where
  id : Nat
  ctx : Fin 4
  kid : Nat
  die : Nat
  point : Nat
  sig : SigNum
  pos : Nat
  unit : BitVec 5
  value : Word
  kp : BitVec 4
  held : Bool
  word : Lane
  deriving DecidableEq, Repr

/-- A `launch` in a posting queue (R165). -/
structure LaunchReq where
  id : Nat
  addr : Word
  queue : BitVec 7
  kp : BitVec 4
  deriving DecidableEq, Repr

/-- A tick in progress (R65, R153). `id` orders it among the commands; `kp` is its produced token. -/
structure TickReq where
  id : Nat
  kp : BitVec 4
  deriving DecidableEq, Repr

/-- A barrier wait (R166): its scope, its token, and the release cycle once the last needed arrival has performed. -/
structure BarWait where
  scope : Scope
  release : Option Nat
  deriving DecidableEq, Repr

/-- A context in a rerun (R346): whether it has reached its boundary in this run, and GBUSY and SIG of the pair's runs. -/
structure RerunMember where
  ctx : Fin 4
  there : Bool := false
  gbusy1 : Nat := 0
  sig1 : BitVec 64 := 0
  gbusy2 : Nat := 0
  sig2 : BitVec 64 := 0
  deriving DecidableEq, Repr

/-- The rerun of a core's rolled-back contexts (R346): the pair and its run, whether the pair had an error, the detail of the
notice, and the contexts. -/
structure Rerun where
  pair : Nat
  run : Nat
  err : Bool
  detail : Word
  members : List RerunMember
  deriving DecidableEq, Repr

/-! ### Accumulator rows -/

/-- An accumulator row (R91, R219, R328): 128 cells of 72 bits, invalid marks, anchor, range mark, the domain that last wrote
it, the kernels whose calls have written it under that domain, and the context and kernel of the call that wrote it last (R79). -/
structure AccRow where
  c : Vector (BitVec 72) 128 := Vector.replicate 128 0
  inv : BitVec 128 := 0
  anchor : BitVec 16 := 48
  mark : Bool := false
  dom : Option DomNum := none
  kids : List Nat := []
  caller : Option (Fin 4 × Nat) := none
  deriving DecidableEq, Repr

/-- A checkpoint shadow copy (R343): the context block with OWNER and the owned sequence entries (R73, R325), the coordinates,
token owners, arrivals and pending faults that go with it, the signals, the rows selected by CKMASK. -/
structure Shadow where
  blk : Block
  owner : Bool
  coord : Vector (BitVec 32) 6
  kOwner : Vector Nat 16
  arrived : Vector (List Nat) 3
  faults : List PendFault
  seqs : List (Nat × BitVec 32)
  sigs : Vector (Option Signal) 64
  rows : List (Nat × AccRow)
  mask : Word
  deriving DecidableEq, Repr

/-! ### Contexts -/

/-- A hardware context: the context block's state and the rest (R48, R95). -/
structure Ctx extends Block where
  live : Bool := false
  ended : Bool := false
  /-- the cycle in which the context ended (R166) -/
  endedAt : Nat := 0
  halting : Bool := false
  kid : Nat := 0
  dom : DomNum := 0
  prio : BitVec 5 := 0
  die : Nat := 0
  point : Nat := 0
  coord : Vector (BitVec 32) 6 := Vector.replicate 6 0
  ncoord : Vector (BitVec 32) 6 := Vector.replicate 6 1
  kOwner : Vector Nat 16 := Vector.replicate 16 0
  sigs : Vector (Option Signal) 64 := Vector.replicate 64 none
  tick : Option TickReq := none
  /-- `trig`s issued under speculation: NOW, token, issue number (R52) -/
  trigs : List (BitVec 48 × BitVec 4 × Nat) := []
  /-- the number from which writes do not count as ordered before the context's triggering (R271) -/
  trigAt : Nat := 0
  /-- the number the next command had when the bundle being issued began -/
  first : Nat := 0
  /-- the latest cycle in which an event set bits of FLAGS, and those bits (R97) -/
  flagAt : Nat := 0
  flagNew : BitVec 7 := 0
  read : Option PendRead := none
  stall : Bool := false
  posting : List LaunchReq := []
  faults : List PendFault := []
  hold : List HeldStore := []
  heldPosts : List HeldPost := []
  entryValid : BitVec 32 := 0
  ckpting : Bool := false
  ckmask : Word := 0
  cur : Bool := false
  shadow0 : Option Shadow := none
  shadow1 : Option Shadow := none
  gbusy : Nat := 0
  /-- the number the next command had at the last boundary (R345) -/
  epoch : Nat := 0
  /-- whether the `launch` of the interval has posted its record: a rerun does not post it again (R345, R346) -/
  launched : Bool := false
  /-- whether the context is in a rerun of its core, and the detail of the notice 0x82 that its move will bring (R346,
  R347) -/
  rerunning : Bool := false
  retiring : Option Word := none
  /-- the cycles of the arrivals at `cl`, `die` and `dev`, latest first (R166) -/
  arrived : Vector (List Nat) 3 := Vector.replicate 3 []
  wait : Option BarWait := none
  /-- the cycle in which a waiting `sync` was reached, and the cycle in which its bundle issues (R167) -/
  syncSeen : Option Nat := none
  syncAt : Option Nat := none
  gacqAt : Option Nat := none
  /-- whether pre-emption takes the context once its engine work is quiet (R326, R327) -/
  leaving : Bool := false
  /-- offset of the bundle being issued, and of the bundle after it in address order -/
  here : Word := 0
  next : Word := 0
  /-- a transfer, or a redirection without a delay bundle, that the bundle being issued has set -/
  xfer : Delay := .none
  jump : Option Word := none
  /-- whether the bundle being issued has passed its checks and waits (R296, R41) -/
  admitted : Bool := false
  /-- a `trap n` that waits for the value-returning access of its own bundle (R317) -/
  trapWait : Option (BitVec 15) := none
  /-- whether the end of the bundle waits for its value-returning access: its transfer's target is invalid, or it returns from a
  trap (R317, R319) -/
  closing : Bool := false
  /-- the fault of the access that the next bundle waits for: cause and detail (R338, R339) -/
  readFault : Option (BitVec 8 × Word) := none
  deriving DecidableEq, Repr

/-! ### Translations (R251 to R256) -/

/-- By what an address is translated: a range entry, or the page of a leaf with its physical address and permissions. -/
inductive Via where
  | range (e : RangeEntry)
  | page (pa : Nat) (sh a w r : Bool)
  deriving DecidableEq, Repr

/-- A translation that a cache or an engine's run holds: its domain, the first and the last virtual byte to which it applies,
what translates them, and its age: the number that the next command had when it was read from the tables in force, or 0 when it
was read from replaced ones (R255, R256). -/
structure Xlat where
  dom : DomNum
  lo : Nat
  hi : Nat
  via : Via
  born : Nat
  deriving DecidableEq, Repr

/-! ### Stream engines -/

/-- What an index of a list yields: no row, and not counted; a row item of zero units; or a row of the table (R243). -/
inductive ListRow where
  | skip
  | zero
  | row (r : Nat)
  deriving DecidableEq, Repr

/-- A unit that an engine has translated and has still to read: its number, its position in the sequence table's order (R72),
its virtual address, its pieces in physical memory, for a copy the pieces to write, none where the destination is outside, and
the age of its translation (R237, R240, R255). -/
structure UnitReq where
  u : Nat
  pos : Int
  va : Word
  src : List (Nat × Nat)
  dst : Option (List (Nat × Nat))
  born : Nat
  deriving DecidableEq, Repr

/-- A counted row of a pool: its units as numbers, and its weight (R245). -/
structure PoolRow where
  units : List Nat
  weight : Option Lane
  deriving DecidableEq, Repr

/-- The six stream and Yarrow commands (R160). -/
inductive StreamKind where
  | sload | sloadPl | sstore | scopy | sgather | sreduce | sscatter
  deriving DecidableEq, Repr

/-- A stream or Yarrow command (R160 to R162, R313): what it copied at its issue, and its progress: `(j, e)` is the first
window or list entry, and unit, not yet translated; `made` counts the samples that a gather has written. `adv` is the ADV a
fill counts from, read at issue, or a drain's, read when it takes effect; `ixAdv` and `ixAdv2` are the index samples of the
two records, `ix` and `ix2` their entries once read, an entry beyond the sample as `none`. `run`, `run2` and `runIx` are the
translations in use for the units, those of a second record, and the index list (R255); `reqs` the units still to be read,
`got` those read, `entry` the list entry at `j`, `pool` and `seen` the counted rows of a pool and the rows among them. `fail` is the
unit at which the command has faulted and its fault, which waits for the units before it (R313); `plFrom` the first plane byte
that a `sload.pl` writes from its last resume point on (R218, R313). -/
structure StreamCmd where
  id : Nat
  ctx : Fin 4
  kind : StreamKind
  kp : BitVec 4
  sig : SigNum
  pos : BitVec 7
  rec1 : Vector Word 12
  rec2 : Vector Word 12
  a : Word
  b : Word
  oor : BitVec 2
  red : BitVec 2
  distinct : Bool
  weighted : Bool
  adv : Nat
  ixAdv : Nat
  ixAdv2 : Nat
  ix : Option (List (Option Int))
  ix2 : Option (List (Option Int))
  taken : Bool
  effective : Bool
  held : Bool
  j : Nat
  e : Nat
  made : Nat := 0
  run : Option Xlat := none
  run2 : Option Xlat := none
  runIx : Option Xlat := none
  reqs : List UnitReq := []
  got : List (Nat × List Byte) := []
  entry : Option (ListRow × Lane) := none
  pool : List PoolRow := []
  seen : List Nat := []
  fail : Option (Nat × BitVec 8 × Word) := none
  plFrom : Nat := 0
  susp : Option (BitVec 8 × Word)
  retry : Bool
  word : Lane
  ext : Lane
  deriving DecidableEq, Repr

/-- An engine (R162, R231): its queue, the command in progress, and the commands whose units have all been sent while some
write has still to perform. -/
structure Engine where
  queue : List StreamCmd := []
  current : Option StreamCmd := none
  sent : List StreamCmd := []
  deriving DecidableEq, Repr

/-- A sequence-table entry (R72, R73). -/
structure SeqEntry where
  ptr : BitVec 32 := 0
  owner : Option (Fin 4) := none
  deriving DecidableEq, Repr

/-! ### The grid -/

/-- The unit whose result is in flight (R174). -/
inductive UnitKind where
  | alu | mul | shfRow
  | shfCol (frame : Option (Fin 2))
  deriving DecidableEq, Repr

/-- An ALU, MUL or SHF operation in flight (R173, R185, R207): the remaining grid cycles, the result rows, the lanes that
the mask lets through, and its flags. -/
structure UnitOp where
  kind : UnitKind
  rem : Nat
  rows : List Row
  mask : BitVec 64
  flags : BitVec 7
  deriving DecidableEq, Repr

/-- An Attar operation in flight (R197 to R200): its completion cycle, results, mask and flags. -/
structure AttOp where
  done : Nat
  res : Row
  idx : Option Row
  mask : BitVec 64
  flags : BitVec 7
  deriving DecidableEq, Repr

/-- A tile (R169). -/
structure Tile where
  v : Vector Row 8 := Vector.replicate 8 0
  f : Vector (Vector Row 16) 2 := Vector.replicate 2 (Vector.replicate 16 0)
  q : Vector Lane 4 := Vector.replicate 4 0
  g : Vector (BitVec 64) 2 := Vector.replicate 2 (BitVec.allOnes 64)
  seed : BitVec 64 := 0
  cnt : BitVec 64 := 0
  link : Vector Row 4 := Vector.replicate 4 0
  aluO : Row := 0
  mulO : Row := 0
  mulC : Row := 0
  attO : Row := 0
  shfO : Row := 0
  aluR : Row := 0
  mulR : Row := 0
  attR : Row := 0
  attX : Row := 0
  shfR : Row := 0
  mem : Vector (BitVec 96) 64 := Vector.replicate 64 0
  ops : List UnitOp := []
  att : List AttOp := []
  attDone : Nat := 0
  deriving DecidableEq, Repr

/-- A readout request (R179, R220): row, format, rounding, the draw of a stochastic request, the calls it waits for, the context and the
`grun` that made it. -/
structure ReadReq where
  row : BitVec 10
  fmt : BitVec 5
  rnd : BitVec 3
  draw : Row
  waits : List Nat
  ctx : Fin 4
  run : Nat := 0
  deriving DecidableEq, Repr

/-- A row on its way to a readout port's queue: the cycle from which it is delivered, the row, whether it is the last of
its readout, and then the readout's flags; the context and kernel whose call wrote the row (R79, R179); the context and the `grun`
that asked for it (R346). -/
structure ReadRow where
  cyc : Nat
  row : Row
  last : Bool
  flags : BitVec 7
  caller : Option (Fin 4 × Nat) := none
  src : Fin 4 × Nat := (0, 0)
  deriving DecidableEq, Repr

/-- A readout port acc0 or acc1 (R179). -/
structure AccPort where
  reqs : List ReadReq := []
  coming : List ReadRow := []
  rows : List ReadRow := []
  last : Row := 0
  deriving DecidableEq, Repr

/-- A grid command in the grid queue (R156); `clear` stands where ownership passes to a context of another domain, and takes no
room in the queue (R169). -/
inductive GridOp where
  | cfg (image : Nat) (bound : List (SigNum × Binding)) (before : Vector (Option Binding) 64)
  | run (count : Nat)
  | set (tile : Fin 32) (dst : BitVec 3) (value : Word)
  | rel
  | clear (d : DomNum)
  deriving DecidableEq, Repr

/-- A grid command with its issuer, issue number and produced token (R156, R151). -/
structure GridCmd where
  id : Nat
  ctx : Fin 4
  kp : BitVec 4
  op : GridOp
  deriving DecidableEq, Repr

/-- The running `grun` (R182, R184). `endWait` marks an END whose tick waits, `atEnd` that the last END has completed; `owed` are the
flags of this iteration's readouts for the contexts, with their kernels, that called the routines (R79). -/
structure GridRun where
  id : Nat
  ctx : Fin 4
  kp : BitVec 4
  left : Nat
  ord : Nat
  word : Nat
  tapCur : Vector Nat 16
  outCur : Vector Nat 8
  flags : BitVec 7
  endWait : Bool
  atEnd : Bool
  owed : List (Fin 4 × Nat × BitVec 7) := []
  deriving DecidableEq, Repr

/-- The grid (R169, R178 to R182). `grant` is the waiting context to which the free grid goes (R49). -/
structure Grid where
  owner : Option (Fin 4) := none
  grant : Option (Fin 4) := none
  dom : Option DomNum := none
  lastCtx : Option (Fin 4) := none
  period : Nat := 1
  ticking : Bool := false
  tapb : Vector (BitVec 32) 16 := Vector.replicate 16 0
  outb : Vector (BitVec 16) 8 := Vector.replicate 8 0
  tiles : Vector Tile 32 := Vector.replicate 32 {}
  params : Vector Lane 8 := Vector.replicate 8 0
  ports : Vector AccPort 2 := Vector.replicate 2 {}
  queue : List GridCmd := []
  loading : Option (GridCmd × Nat) := none
  run : Option GridRun := none
  deriving DecidableEq, Repr

/-! ### The matrix array -/

/-- An entry of the matrix call queue (R50, R158): a routine load or a call, its context, parameter copy and token. -/
structure MxItem where
  id : Nat
  ctx : Fin 4
  kid : Nat
  isLoad : Bool
  entry : BitVec 5
  params : Vector Lane 8
  kp : BitVec 4
  fromGrid : Bool
  deriving DecidableEq, Repr

/-- What a micro-operation does to the accumulator when it lands (R214, R219, R226). -/
inductive AccEffect where
  | zero (row : Nat) (n : Nat)
  | anchor (row : Nat) (n : Nat) (a : BitVec 16)
  | mac (row : Nat) (fmt : BitVec 2) (arow : Row) (runs : Vector (BitVec 1024) 128) (scales : Vector (BitVec 64) 128)
  deriving DecidableEq, Repr

/-- An accumulator effect in flight, with the cycle in which it lands and the domain, kernel and context of its call. -/
structure PendEffect where
  cyc : Nat
  call : Nat
  dom : DomNum
  kid : Nat
  eff : AccEffect
  ctx : Fin 4 := 0
  deriving DecidableEq, Repr

/-- The running or suspended call (R221, R226 to R230). -/
structure MxCall where
  item : MxItem
  pc : Nat := 0
  loops : List (Nat × Nat) := []
  fmt : Option (BitVec 2) := none
  hold : Bool := false
  bcur : Nat := 0
  bstep : Bool := true
  acur : Nat := 0
  astep : Bool := false
  scales : Vector (BitVec 512) 128 := Vector.replicate 128 (BitVec.ofNat 512 (0x7F * ((2 ^ 512 - 1) / 255)))
  newScales : List (Nat × Vector (BitVec 512) 128) := []
  runs : Vector (BitVec 1024) 128 := Vector.replicate 128 0
  arow : Row := 0
  passLeft : Nat := 0
  passFirst : Bool := false
  busy : Nat := 0
  deriving DecidableEq, Repr

/-- A row in the A-feed queue (R178), with the kernel, the place on its die and the domain of the grid that pushed it, and the context
and the `grun` (R346). -/
structure FeedRow where
  kid : Nat
  place : Nat
  dom : DomNum
  row : Row
  src : Fin 4 × Nat := (0, 0)
  deriving DecidableEq, Repr

/-- The matrix array (R50, R178, R221, R224). `loading` is the load at the head with its completion cycle (R223). -/
structure Matrix where
  queue : List MxItem := []
  afeed : List FeedRow := []
  run : Option MxCall := none
  resumed : List MxCall := []
  /-- calls suspended because their context is being pre-empted (R230) -/
  away : List MxCall := []
  loading : Option (MxItem × Nat) := none
  effects : List PendEffect := []
  store : Vector Lane 256 := Vector.replicate 256 0
  deriving DecidableEq, Repr

/-! ### Cores -/

/-- What the contexts of a kernel at one place of a die hold on their core: the CP window (R100), plane region (R216), routine
bases (R221) and shadow (R344). -/
structure Window where
  kid : Nat
  place : Nat
  wbase : Nat
  imgEnd : Nat
  plBase : Nat
  plSize : Nat
  routines : List (BitVec 5 × Nat × Nat)
  shadowBase : Nat
  shadowSize : Nat
  deriving DecidableEq, Repr

/-- A core (R8). -/
structure Core where
  ctxs : Vector Ctx 4 := Vector.replicate 4 {}
  table : Vector (BitVec 3) 32 := Vector.replicate 32 4
  strict : Bool := false
  staged : Vector (BitVec 3) 32 := Vector.replicate 32 4
  stagedStrict : Bool := false
  stagedAt : Option Nat := none
  half : Bool := false
  lastTie : Fin 4 := 3
  cp : Memory := []
  cpOwner : Owners := []
  windows : List Window := []
  plane : Memory := []
  acc : Vector AccRow 1024 := Vector.replicate 1024 {}
  seqs : Vector SeqEntry 32 := Vector.replicate 32 {}
  remote : List Remote := []
  /-- the translation caches: range entries, and pages (R255) -/
  ranges : List Xlat := []
  pages : List Xlat := []
  grid : Grid := {}
  mx : Matrix := {}
  engines : Vector Engine 6 := Vector.replicate 6 {}
  /-- plane lines that `sload.pl` wrote: line, context, number of the command (R349) -/
  plLines : List (Nat × Fin 4 × Nat) := []
  retired : Bool := false
  rerun : Option Rerun := none
  /-- corrected errors of each store, by its code of R348 (R340) -/
  corrected : Vector Nat 8 := Vector.replicate 8 0
  deriving DecidableEq, Repr

/-! ### Objects, kernels, queues and domains -/

/-- A loop-table level (R31). -/
structure Level where
  kind : BitVec 8 := 0
  extent : BitVec 32 := 0
  deriving DecidableEq, Repr

/-- A kernel of an object: code image, signal plan, loop table (R29 to R31). -/
structure KImage where
  code : List Lane
  plan : List Plan
  loops : Vector Level 6
  deriving DecidableEq, Repr

/-- A loaded section: its kernel index (0xFFFF shared), ALIGN and bytes (R28). -/
structure Section where
  kern : BitVec 16
  align : Nat
  bytes : List Byte
  deriving DecidableEq, Repr

/-- A loaded object (R28 to R32, R282, R355). `devs` are the addresses and sizes of its DEVDATA images, `taken` the pieces of physical
memory in which they stand. -/
structure Object where
  handle : BitVec 16
  dom : DomNum
  kernels : List KImage
  grids : List Section
  routs : List Section
  cpdata : List Section
  planes : List Section
  devs : List (Word × Nat)
  taken : List (Nat × Nat) := []
  deriving DecidableEq, Repr

/-- A context taken by pre-emption, with what it takes along: its number, spill area, and owned sequence entries (R326 to
R328). -/
structure SavedCtx where
  ctx : Ctx
  slot : Fin 4
  spill : Memory
  spillOwner : Owners
  seqs : List (Fin 32 × BitVec 32)
  deriving DecidableEq, Repr

/-- What a moved kernel leaves of one core (R327, R328, R347): its core's place on the die, the contexts, their stream commands
and `rst`s in the order of their queues, the grid when it has commands or an owner in it, the A rows that it has pushed,
suspended calls, accumulator rows, the plane region and its `sload.pl` lines, the CP window. `cycle` is the cycle of the
save, `size` the bytes of the save image that have a layout. -/
structure SavedCore where
  place : Nat
  cycle : Nat
  size : Nat
  ctxs : List SavedCtx
  streams : List (Fin 6 × StreamCmd)
  remotes : List Remote
  grid : Option Grid
  afeed : List FeedRow
  calls : List MxCall
  rows : List (Nat × AccRow)
  plane : Memory
  plLines : List (Nat × Fin 4 × Nat)
  cp : Memory
  cpOwner : Owners
  deriving DecidableEq, Repr

/-- A context of a kernel that has ended and been released, as its barriers and `sync`s still count it: its place, its arrivals at `cl`,
`die` and `dev`, latest first, and the cycle of its end (R166, R167, R334). -/
structure Gone where
  die : Nat
  point : Nat
  arrived : Vector (List Nat) 3
  endedAt : Nat
  deriving DecidableEq, Repr

/-- A launched kernel (R40, R47, R52, R276, R277), from its placement to its completion. -/
structure Kernel where
  kid : Nat
  obj : BitVec 16
  kidx : BitVec 8
  dom : DomNum
  queue : BitVec 7
  recIdx : BitVec 32
  prio : BitVec 5
  args : List Word
  done : Word
  seqn : Word
  notify : Bool
  /-- the order of its latest placement (R47) -/
  order : Nat
  aborted : Bool
  /-- what pre-emption has saved: a list for each die of the kernel; empty while the kernel is placed -/
  saved : List (List SavedCore)
  /-- the cycle of its pre-emption, and the levels by which its queue has risen for it since (R47) -/
  since : Nat := 0
  raised : Nat := 0
  /-- the record that its ABORT writes once all of its work is over (R337) -/
  record : Option (Word × Word) := none
  gone : List Gone := []
  deriving DecidableEq, Repr

/-- A launch record (R276). -/
structure LaunchRec where
  obj : BitVec 16
  kidx : BitVec 8
  notify : Bool
  done : Word
  seqn : Word
  args : List Word
  deriving DecidableEq, Repr

/-- A launch queue's block (R274), the cycle since which its head record waits and the levels it has risen by (R46), what has
been read of the head record by its aligned words, the record once read and checked (R275, R276), and the producing kernels of
its device-fed records, 0 for an aborted one (R276, R337). -/
structure Queue where
  rbase : Word := 0
  en : Bool := false
  src : Bool := false
  dom : DomNum := 0
  level : BitVec 5 := 0
  rsize : BitVec 4 := 0
  tail : BitVec 32 := 0
  head : BitVec 32 := 0
  stop : Bool := false
  since : Option Nat := none
  raised : Nat := 0
  got : List (Nat × List Byte) := []
  record : Option LaunchRec := none
  /-- the pre-empted kernels that wait ahead of its records, earliest first (R47) -/
  waiting : List Nat := []
  producers : List (BitVec 32 × Nat) := []
  deriving DecidableEq, Repr

/-- A tenant domain (R251, R253, R256, R272, R285, R337). `key` names its encryption keys, a new number at each CREATE
(R257); `stale` are the mappings replaced since the last invalidation performed; `inval` is the number that the next command
had when an invalidation began; `dying` marks a DESTROY in progress. -/
structure Domain where
  live : Bool := false
  key : Nat := 0
  ranges : Vector RangeEntry 64 := Vector.replicate 64 { vbase := 0, vlimit := 0, pbase := 0, attr := 0 }
  root : Word := 0
  signed : Bool := false
  digests : List (BitVec 384) := []
  fqAddr : Word := 0
  fqSize : BitVec 8 := 0
  windows : List Nat := []
  stale : List (Vector RangeEntry 64 × Word) := []
  inval : Option Nat := none
  dying : Bool := false
  deriving DecidableEq, Repr

/-! ### The device -/

/-- A device-link port (R279, R280, R338). -/
structure Port where
  state : BitVec 8 := 0
  peerPort : BitVec 8 := 0
  peerPart : BitVec 16 := 0
  replays : Nat := 0
  deriving DecidableEq, Repr

/-- What the device answers to the host or a peer (R272, R280, R282, R284): `poison` and `refused` are CXL.mem errors of a read and a
write; an SPDM response carries its code. -/
inductive HostResp where
  | data (bytes : List Byte)
  | poison
  | written
  | discarded
  | refused
  | mailbox (status : BitVec 32) (ret : BitVec 32)
  | spdm (code : Nat) (bytes : List Byte)
  deriving DecidableEq, Repr

/-- The state of the SPDM responder's connection and session (R284). -/
inductive SpdmState where
  | idle | version | capabilities | negotiated | handshake | secure
  deriving DecidableEq, Repr

/-- A fault record on its way to a domain's fault queue (R292, R322, R323): the domain, the words, and the launch queue whose
vector is signalled once the record has performed (R277). -/
structure FaultRec where
  dom : DomNum
  w0 : Word
  w1 : Word
  notify : Option (BitVec 7) := none
  deriving DecidableEq, Repr

/-- An access of the host itself to its own memory, by its physical address (R259, R268; log entry 39). -/
inductive HostAccess where
  | store (pa : Nat) (bytes : List Byte)
  | load (pa n : Nat)
  deriving DecidableEq, Repr

/-- The agents of one arithmetic-clock cycle, in the order in which they take their turns (log entry 1). -/
inductive Phase where
  | slots | array | readout | engine (e : Fin 6) | attar | remote | grid | tick (c : Fin 4) | post (c : Fin 4) | cp
  | host | place | memory | monitor
  deriving DecidableEq, Repr

/-- Whose turn it is: an agent of a core, or for the last four phases an agent of the device (log entry 1). -/
structure Turn where
  core : CoreId := 0
  phase : Phase := .slots
  deriving DecidableEq, Repr

/-- The state of the part. -/
structure State where
  cycle : Nat := 0
  turn : Turn := {}
  cur : CtxId := { core := 0, ctx := 0 }
  draws : Nat := 0
  /-- the choices that the spec leaves free, one for each turn: which independent event goes first, which place is taken,
  what an outside agent answers (R2, R9, R35, R100, R216; log entry 1) -/
  choices : List Nat := []
  cmdSeq : Nat := 1
  inbox : List (Nat × Instr) := []
  /-- the host's accesses to its own memory, each with the cycle from which it comes (log entry 39) -/
  hostMem : List (Nat × HostAccess) := []
  cores : Vector Core 320 := Vector.replicate 320 {}
  mem : Memory := []
  memOwner : Owners := []
  poison : List Nat := []
  posted : List Posted := []
  domains : Vector Domain 64 := Vector.replicate 64 {}
  keySeq : Nat := 1
  queues : Vector Queue 128 := Vector.replicate 128 {}
  lastQueue : BitVec 7 := 127
  /-- the queue whose record the placement unit has chosen, or its pre-empted kernel (R46) -/
  chosen : Option (BitVec 7 × Option Nat) := none
  objects : List Object := []
  objSeq : BitVec 16 := 1
  kernels : List Kernel := []
  kidSeq : Nat := 1
  monq : List FaultRec := []
  log : List (DomNum × DomNum) := []
  msix : List Nat := []
  hostOut : List HostResp := []
  mbStatus : BitVec 32 := 0
  bootst : BitVec 8 := 0
  measures : List (BitVec 8 × BitVec 384) := []
  spdm : SpdmState := .idle
  plim : BitVec 32 := 2400
  clk : BitVec 32 := 850
  /-- power samples below the raising threshold since the clock last rose (R281) -/
  belowFor : Nat := 0
  throt : BitVec 64 := 0
  nRetired : BitVec 32 := 0
  ports : Vector Port 16 := Vector.replicate 16 {}
  deriving DecidableEq, Repr

/-- The free choice of this turn (log entry 1). -/
def State.pick (s : State) : Nat := s.choices.headD 0

/-- Whether event `i` of this turn, whose time the spec leaves open, happens now (R9, log entry 1). -/
def State.readyAt (s : State) (i : Nat) : Bool := !s.pick.testBit i

/-- The part right after reset (R44, R73, R98, R182, R273, R274, R279, R281, R283): no domain, object or kernel, the
monitor not yet started. Values the spec gives none for: log entries 4 and 14. -/
def State.reset : State := {}

end Sys2Proof.Machine
end

