-- ==== Sys2Proof/Machine/Ops.lean ====
section
/-! DEFINITION. The shared operations over the state: bits and bytes, memories in canonical form, accessors, results in
flight, control-processor data memory, taking a trap and returning from one, and the end of a pass. -/

namespace Sys2Proof.Machine

/-- The outcome of a step of this machine. -/
abbrev Out := Host.Outcome State Fault Refusal

/-! ### Bits and bytes -/

/-- `r` with the bits of `v` at position `i`. -/
def insertBits {n w : Nat} (r : BitVec n) (i : Nat) (v : BitVec w) : BitVec n :=
  (r &&& ~~~((BitVec.allOnes w).setWidth n <<< i)) ||| (v.setWidth n <<< i)

/-- Bit `i`. -/
def bitAt {n : Nat} (r : BitVec n) (i : Nat) : Bool := r.getLsbD i

/-- The number that bytes give, little-endian (R140). -/
def leNat : List Byte → Nat
  | [] => 0
  | b :: r => b.toNat + 256 * leNat r

/-- `n` bytes of a number, little-endian. -/
def leBytes : Nat → Nat → List Byte
  | 0, _ => []
  | n + 1, v => BitVec.ofNat 8 v :: leBytes n (v / 256)

/-- Bits `hi` to `lo` of a number. -/
def field (v hi lo : Nat) : Nat := (v / 2 ^ lo) % 2 ^ (hi - lo + 1)

/-- `a` rounded up to a multiple of `k`. -/
def alignUp (a k : Nat) : Nat := if k = 0 then a else (a + k - 1) / k * k

/-- Whether a list holds a number twice. -/
def hasRepeat : List Nat → Bool
  | [] => false
  | a :: r => r.contains a || hasRepeat r

/-- The row with one lane value in every lane. -/
def rowOf (v : Lane) : Row := BitVec.ofNat 2048 (v.toNat * ((2 ^ 2048 - 1) / (2 ^ 32 - 1)))

/-- Lane `l` of a row (R74). -/
def laneOf (r : Row) (l : Nat) : Lane := r.extractLsb' (32 * l) 32

/-- Unit `u` of a row: lanes `2 u` and `2 u + 1` (R142). -/
def unitOf (r : Row) (u : Nat) : Word := r.extractLsb' (64 * u) 64

/-- A row from its lanes, lane 0 first. -/
def rowOfLanes : List Lane → Row
  | [] => 0
  | l :: r => (rowOfLanes r <<< 32) ||| l.setWidth 2048

/-! ### Lists of places and what they hold -/

/-- What a list holds at a place; `z` where it lists none. -/
def listed {β : Type} (z : β) : List (Nat × β) → Nat → β
  | [], _ => z
  | (b, v) :: r, a => if a = b then v else listed z r a

/-- A list without a place. -/
def without {β : Type} : List (Nat × β) → Nat → List (Nat × β)
  | [], _ => []
  | (b, v) :: r, a => if a = b then without r a else (b, v) :: without r a

/-- An entry put in front of the first of a larger place. -/
def putEntry {β : Type} : List (Nat × β) → Nat → β → List (Nat × β)
  | [], a, v => [(a, v)]
  | (b, w) :: r, a, v => if a < b then (a, v) :: (b, w) :: r else (b, w) :: putEntry r a v

/-! ### Byte stores in canonical form -/

namespace Memory

/-- A byte of a store: an unlisted address reads as 0 (log entry 4). -/
def get (m : Memory) (a : Nat) : Byte := listed 0 m a

/-- A byte written: its entry goes, and unless the value is 0 a new one stands in its order. -/
def set (m : Memory) (a : Nat) (v : Byte) : Memory := if v = 0 then without m a else putEntry (without m a) a v

/-- Every entry's address is at least `lo`, addresses strictly rise, and no value is 0. -/
def wfFrom : Nat → Memory → Bool
  | _, [] => true
  | lo, (b, v) :: r => decide (lo ≤ b) && v != 0 && wfFrom (b + 1) r

/-- The canonical form. -/
def wf (m : Memory) : Bool := wfFrom 0 m

/-- `n` bytes from `a`. -/
def getBytes (m : Memory) (a : Nat) : Nat → List Byte
  | 0 => []
  | n + 1 => get m a :: getBytes m (a + 1) n

/-- Bytes written from `a`. -/
def setBytes (m : Memory) (a : Nat) : List Byte → Memory
  | [] => m
  | b :: r => setBytes (set m a b) (a + 1) r

end Memory

namespace Owners

/-- The key under which a byte was last written; 0 where none has been. -/
def get (o : Owners) (a : Nat) : Nat := listed 0 o a

/-- The key of a byte. -/
def set (o : Owners) (a : Nat) (v : Nat) : Owners := putEntry (without o a) a v

/-- The key of `n` bytes from `a`. -/
def setN (o : Owners) (a : Nat) : Nat → Nat → Owners
  | 0, _ => o
  | n + 1, v => setN (set o a v) (a + 1) n v

end Owners

/-! ### Accessors -/

namespace State

/-- A core. -/
def core (s : State) (n : CoreId) : Core := s.cores[n.val]'n.isLt

/-- A core replaced. -/
def setCore (s : State) (n : CoreId) (k : Core) : State := { s with cores := s.cores.set n.val k n.isLt }

/-- A context. -/
def ctx (s : State) (c : CtxId) : Ctx := (s.core c.core).ctxs[c.ctx.val]'c.ctx.isLt

/-- A context replaced. -/
def setCtx (s : State) (c : CtxId) (x : Ctx) : State :=
  let k := s.core c.core
  s.setCore c.core { k with ctxs := k.ctxs.set c.ctx.val x c.ctx.isLt }

/-- The context whose bundle is being issued. -/
def me (s : State) : Ctx := s.ctx s.cur

/-- The context whose bundle is being issued, replaced. -/
def setMe (s : State) (x : Ctx) : State := s.setCtx s.cur x

/-- Its core. -/
def myCore (s : State) : Core := s.core s.cur.core

/-- Its core replaced. -/
def setMyCore (s : State) (k : Core) : State := s.setCore s.cur.core k

/-- A domain. -/
def domain (s : State) (d : DomNum) : Domain := s.domains[d.toNat]'(d.isLt)

/-- A domain replaced. -/
def setDomain (s : State) (d : DomNum) (x : Domain) : State := { s with domains := s.domains.set d.toNat x d.isLt }

/-- A launch queue. -/
def queue (s : State) (q : BitVec 7) : Queue := s.queues[q.toNat]'(q.isLt)

/-- A launch queue replaced. -/
def setQueue (s : State) (q : BitVec 7) (x : Queue) : State := { s with queues := s.queues.set q.toNat x q.isLt }

/-- A core changed by a function. -/
def onCore (s : State) (n : CoreId) (f : Core → Core) : State := s.setCore n (f (s.core n))

/-- A core's grid changed by a function. -/
def onGrid (s : State) (n : CoreId) (f : Grid → Grid) : State := s.onCore n fun k => { k with grid := f k.grid }

/-- A core's matrix array changed by a function. -/
def onMx (s : State) (n : CoreId) (f : Matrix → Matrix) : State := s.onCore n fun k => { k with mx := f k.mx }

/-- A context changed by a function. -/
def onCtx (s : State) (c : CtxId) (f : Ctx → Ctx) : State := s.setCtx c (f (s.ctx c))

/-- The next number for a command, kernel or draw is taken. -/
def bump (s : State) : State := { s with cmdSeq := s.cmdSeq + 1 }

/-- One draw of a choice that the spec leaves free. -/
def draw (s : State) : State := { s with draws := s.draws + 1 }

/-- A kernel by its number. -/
def kernel? (s : State) (kid : Nat) : Option Kernel := s.kernels.find? (fun k => k.kid == kid)

/-- An object by its handle. -/
def object? (s : State) (h : BitVec 16) : Option Object := s.objects.find? (fun o => o.handle == h)

/-- The image of a kernel. -/
def image? (s : State) (k : Kernel) : Option KImage := (s.object? k.obj).bind (fun o => o.kernels[k.kidx.toNat]?)

/-- The code image of a context's kernel (R29). -/
def codeOf (s : State) (x : Ctx) : List Lane :=
  match (s.kernel? x.kid).bind s.image? with
  | some i => i.code
  | none => []

/-- The key of a context's domain (R257, R258). -/
def keyOf (s : State) (x : Ctx) : Nat := (s.domain x.dom).key

end State

/-- A context's signal. -/
def Ctx.sig (x : Ctx) (n : SigNum) : Option Signal := x.sigs[n.toNat]'(n.isLt)

/-- A context's signal replaced. -/
def Ctx.setSig (x : Ctx) (n : SigNum) (v : Option Signal) : Ctx := { x with sigs := x.sigs.set n.toNat v n.isLt }

/-- Every context of the package. -/
def allCtxs : List CtxId :=
  (List.finRange 320).flatMap fun n => (List.finRange 4).map fun c => { core := n, ctx := c }

/-! ### Registers and results in flight -/

/-- An x register as read: x0 reads 0 (R95). -/
def Ctx.rx (x : Ctx) (r : Reg) : Word := if r = 0 then 0 else x.x[r.toNat]'(r.isLt)

/-- A predicate as read: p0 reads true and p1 false (R95). -/
def Ctx.rp (x : Ctx) (p : Pred) : Bool := if p = 0 then true else if p = 1 then false else x.p.getLsbD p.toNat

/-- A token as read; k0 means none (R95). -/
def Ctx.rk (x : Ctx) (k : BitVec 4) : Bool := if k = 0 then true else x.k.getLsbD k.toNat

/-- A write to x0, p0 or p1 is discarded (R95). -/
def Dest.discarded : Dest → Bool
  | .x r => r == 0
  | .pair n => n == 0
  | .pred p => p.toNat ≤ 1

/-- The registers with one predicate written; writes to p0 and p1 are discarded (R95). -/
def setPred (p : BitVec 16) (n : Pred) (v : Bool) : BitVec 16 :=
  if n.toNat ≤ 1 then p else if v then p ||| (1#16 <<< n.toNat) else p &&& ~~~(1#16 <<< n.toNat)

/-- A result lands in its register, a pair in both of its predicates (R95, R110). -/
def Block.write (b : Block) (d : Dest) (v : Word) : Block :=
  match d with
  | .x r => if r = 0 then b else { b with x := b.x.set r.toNat v r.isLt }
  | .pair n =>
    let lo : Pred := n ++ 0#1
    { b with p := setPred (setPred b.p lo (v.getLsbD 0)) (lo + 1) (!v.getLsbD 0) }
  | .pred p => { b with p := setPred b.p p (v.getLsbD 0) }

/-- Results landed in order. -/
def Block.writeAll (b : Block) : List LandRec → Block
  | [] => b
  | r :: rs => Block.writeAll (b.write r.dest r.value) rs

/-- Step 1 of a bundle: the results due land, in the order of issue, and the others come one bundle closer (R110). -/
def Block.arrive' (b : Block) : Block :=
  let b' := b.writeAll (b.land.filter (fun r => r.rem == 0))
  { b' with land := (b.land.filter (fun r => r.rem != 0)).map (fun r => { r with rem := r.rem - 1 }) }

/-- A result enters flight: with latency `n` it lands `n` bundles after the one being issued (R110, R113); a result
for x0, p0 or p1 is discarded. -/
def Ctx.enter (x : Ctx) (d : Dest) (v : Word) (n : Nat) (sq : Bool) : Ctx :=
  if d.discarded then x else { x with land := x.land ++ [{ dest := d, value := v, rem := n - 1, sq := sq }] }

/-- A predicate's value as a record holds it (R325). -/
def ofBool (b : Bool) : Word := if b then 1 else 0

/-- Bits of FLAGS set by an event of a cycle (R97). -/
def Ctx.orFlags (x : Ctx) (cycle : Nat) (f : BitVec 7) : Ctx :=
  if f = 0 then x
  else { x with flags := x.flags ||| f, flagAt := cycle,
                flagNew := if x.flagAt = cycle then x.flagNew ||| f else f }

/-! ### Tokens -/

/-- A produced token is cleared, and follows the most recently issued producer (R151). -/
def Ctx.clearToken (x : Ctx) (kp : BitVec 4) (id : Nat) : Ctx :=
  if kp = 0 then x
  else { x with k := x.k &&& ~~~(1#16 <<< kp.toNat), kOwner := x.kOwner.set kp.toNat id kp.isLt }

/-- A command performs: its token is set, unless a later-issued command names it (R151). -/
def Ctx.setToken (x : Ctx) (kp : BitVec 4) (id : Nat) : Ctx :=
  if kp = 0 || x.kOwner[kp.toNat]'(kp.isLt) != id then x else { x with k := x.k ||| (1#16 <<< kp.toNat) }

/-- A command of a context performs (R152). -/
def State.performed (s : State) (c : CtxId) (kp : BitVec 4) (id : Nat) : State :=
  s.setCtx c ((s.ctx c).setToken kp id)

/-! ### Control-processor data memory -/

/-- The place of a context among the cores of its kernel on a die (R35). -/
def Ctx.place (x : Ctx) : Nat := x.point % 80

/-- Whether two contexts of a core stand at one place of one kernel, and so share a window (R36, R100). -/
def Ctx.shares (x y : Ctx) : Bool := y.live && y.kid == x.kid && y.place == x.place

/-- The window of a context on its core (R100). -/
def Core.window? (k : Core) (x : Ctx) : Option Window := k.windows.find? fun w => w.kid == x.kid && w.place == x.place

/-- The physical byte that a CP address of a context reaches, when all `w` bytes of the access lie in one row of the
table of R100. -/
def cpPhys (k : Core) (x : Ctx) (a w : Nat) : Option Nat :=
  match k.window? x with
  | none => none
  | some win =>
    if a + w ≤ win.imgEnd then some (win.wbase + a)
    else if 0x3BFE8 ≤ a ∧ a + w ≤ 0x3C000 then some (win.wbase + win.imgEnd + (a - 0x3BFE8))
    else if 0x3C000 ≤ a ∧ a < 0x40000 then
      let c := (a - 0x3C000) / 0x1000
      if a + w ≤ 0x3D000 + 0x1000 * c ∧ k.ctxs.toList[c]?.any x.shares then some a else none
    else none

/-- A byte last written under another key than the reader's, at an address: what the loader or the monitor has written for the
reader's domain at `home` where no domain now has that key, and otherwise a free value (R258; log entry 5). -/
def State.foreignByte (s : State) (key owner p home : Nat) : Byte :=
  if s.domains.any fun d => d.live && d.key == owner then Config.freeByte s.draws p else Config.handedByte key owner home

/-- Where a byte of CP data memory stands for the kernel that it was handed to, wherever its core and window are: kernel, die and
place with the offset in the window, or die and point with the offset in the spill area (R100, R258, R326). -/
def Core.cpHome (k : Core) (p : Nat) : Nat :=
  if 0x3C000 ≤ p then
    match k.ctxs.toList[(p - 0x3C000) / 0x1000]? with
    | some x => ((x.kid * 4 + x.die) * 2 ^ 16 + x.point) * 2 ^ 20 + 2 ^ 19 + p % 0x1000
    | none => p
  else match k.windows.find? fun w => decide (w.wbase ≤ p ∧ p < w.wbase + w.imgEnd + 32) with
    | some w =>
      let die := ((k.ctxs.toList.find? fun x => x.live && x.kid == w.kid && x.place == w.place).map (·.die)).getD 0
      ((w.kid * 4 + die) * 2 ^ 16 + w.place) * 2 ^ 20 + (p - w.wbase)
    | none => p

/-- A byte of CP data memory as a domain's key gives it (R258). -/
def State.cpByte (s : State) (n : CoreId) (key p : Nat) : Byte :=
  let o := Owners.get (s.core n).cpOwner p
  if o == key then Memory.get (s.core n).cp p else s.foreignByte key o p ((s.core n).cpHome p)

/-- `w` bytes of CP data memory from physical byte `p`. -/
def State.cpRead (s : State) (n : CoreId) (key p : Nat) : Nat → List Byte
  | 0 => []
  | w + 1 => s.cpByte n key p :: s.cpRead n key (p + 1) w

/-- Bytes written to CP data memory from physical byte `p`. -/
def State.cpWrite (s : State) (n : CoreId) (key p : Nat) (bs : List Byte) : State :=
  let k := s.core n
  s.setCore n { k with cp := Memory.setBytes k.cp p bs, cpOwner := Owners.setN k.cpOwner p bs.length key }

/-! ### Fault records, traps and stops -/

/-- A fault to take: cause, SOURCE, UNIT, and what CAUSE's companions receive (R291, R292). -/
structure TrapInfo where
  cause : BitVec 8
  source : BitVec 3
  unit : BitVec 3 := 0
  faddr : Word
  epc : Word
  btarg : Word
  deriving DecidableEq, Repr

/-- Word 0 of a fault record (R292). -/
def recordWord (cause : BitVec 8) (dom : DomNum) (ctx : BitVec 2) (core : BitVec 9) (source unit : BitVec 3)
    (dly : Bool) (epc : Word) : Word :=
  cause ++ dom ++ ctx ++ core ++ source ++ unit ++ BitVec.ofBool dly ++ epc.extractLsb' 0 32

/-- A record on its way to a domain's fault queue (R292, R323). -/
def State.post (s : State) (dom : DomNum) (w0 w1 : Word) : State :=
  { s with monq := s.monq ++ [{ dom := dom, w0 := w0, w1 := w1 }] }

/-- The record of a context's fault. -/
def State.postFault (s : State) (c : CtxId) (t : TrapInfo) : State :=
  s.post (s.ctx c).dom
    (recordWord t.cause (s.ctx c).dom (BitVec.ofNat 2 c.ctx.val) (BitVec.ofNat 9 c.core.val) t.source t.unit
      (t.btarg != 0) t.epc) t.faddr

/-- The causes that never reach a handler: the return-stack limits (R321), data errors that rollback cannot repair
(R341) and poison (R349). -/
def neverHandled (cause : BitVec 8) : Bool := cause == 0x13 || cause == 0x14 || cause == 0x81 || cause == 0x84

/-- CAUSE, EPC, BTARG and FADDR written (R317, step 1). -/
def Block.writeTrap (b : Block) (t : TrapInfo) : Block :=
  { b with cause := t.cause, epc := t.epc, btarg := t.btarg, faddr := t.faddr }

/-- The results in flight and the hardware loops parked, and both loops inactive (R317, steps 2 and 3). -/
def Block.park (b : Block) : Block :=
  { b with parked := b.land, land := [], pOuter := b.outer, pInner := b.inner, outer := {}, inner := {} }

/-- What the bundle being issued leaves behind is cleared. -/
def Ctx.settle (x : Ctx) : Ctx :=
  { x with xfer := .none, jump := none, admitted := false, trapWait := none, closing := false,
           bdone := false, gacqAt := none }

/-- A context that turns from its bundle waits at no barrier; a `sync` that it has reached, and whose restart has not been chosen, is
reached anew (R166, R167, R334). -/
def Ctx.leaveBarrier (x : Ctx) : Ctx :=
  let waits : Bool := x.syncSeen.isSome && x.syncAt.isNone
  { x with wait := none, syncSeen := if waits then none else x.syncSeen, sync := if waits then x.sync - 1 else x.sync }

/-- A context takes a trap (R317, R318): the registers are written; the first trap parks the results and loops; with a
handler and no trap before, the context continues at TVEC. -/
def Ctx.trap (x : Ctx) (t : TrapInfo) : Ctx :=
  let x := x.leaveBarrier
  let y := { x with toBlock := x.toBlock.writeTrap t }
  let z := if y.trapped then y else { y with toBlock := y.toBlock.park }
  let z := z.settle
  if z.tvec ≠ 0 ∧ z.trapped = false ∧ neverHandled t.cause = false then
    { z with trapped := true, pc := z.tvec, delay := .none }
  else { z with stopped := true, delay := .none }

/-- Taking a trap: the context enters its handler, or stops and its record is posted (R317, R321, R322). -/
def State.takeTrap (s : State) (c : CtxId) (t : TrapInfo) : State :=
  let x := (s.ctx c).trap t
  let s' := s.setCtx c x
  if x.stopped then s'.postFault c t else s'

/-- The results of the bundle flow marked Q are discarded: a taken transfer takes effect (R112). -/
def Block.squash (b : Block) : Block := { b with land := b.land.filter (fun r => !r.sq) }

/-- The value of an access marked Q, still to come, is discarded when it comes (R112). -/
def PendRead.squash (r : PendRead) : PendRead := if r.sq then { r with dest := 0 } else r

/-- The results of a context marked Q discarded, those in flight and those still to come (R112). -/
def Ctx.squash (x : Ctx) : Ctx := { x with toBlock := x.toBlock.squash, read := x.read.map PendRead.squash }

/-- The return of a trapped context (R319): the handler's results marked Q are discarded, its others land, its loops are
discarded, the parked loops and results are reinstated, and the context is no longer trapped. -/
def Block.reinstate (b : Block) : Block :=
  let b' := b.writeAll (b.land.filter (fun r => !r.sq))
  { b' with land := b.parked, parked := [], outer := b.pOuter, inner := b.pInner, pOuter := {}, pInner := {},
            trapped := false }

/-- The context continues at an offset, in a delay bundle of a transfer to BTARG when BTARG is not 0 (R132). -/
def Block.resumeAt (b : Block) (t : Word) : Block :=
  { b with pc := t, delay := if b.btarg = 0 then .none else .taken (.goto b.btarg) }

/-- Return from a trap to the EPC that `rett` read, when its delay bundle has issued (R132, R319); of a context that is
not trapped it is a plain transfer. -/
def Ctx.trapReturn (x : Ctx) (t : Word) : Ctx :=
  let y := if x.trapped then { x with toBlock := x.toBlock.reinstate } else x.squash
  { y with toBlock := y.toBlock.resumeAt t }

/-- RESUME: EPC and BTARG written, and the parked state reinstated as `rett` does (R324). -/
def Ctx.resume (x : Ctx) (epc btarg : Word) : Ctx :=
  let b := { x.toBlock with epc := epc, btarg := btarg, stopped := false }
  { x with toBlock := b.reinstate.resumeAt epc }

/-- The target of a transfer. -/
def Transfer.target : Transfer → Word
  | .goto t => t
  | .trapReturn t => t

/-- The target that BTARG receives when the bundle being issued is a delay bundle, and 0 otherwise (R296). -/
def Block.pendingTarget (b : Block) : Word :=
  match b.delay with
  | .taken t => t.target
  | _ => 0

/-! ### The code image -/

/-- Word `i` of a code image. -/
def wordAt (code : List Lane) (i : Nat) : Option Lane := code[i]?

/-- The words of the bundle at a byte offset, when it lies wholly in the code image (R356). -/
def bundleAt (code : List Lane) (off : Word) : Option (List Lane) :=
  if off.extractLsb' 0 2 = 0 then
    match code[off.toNat / 4]? with
    | none => none
    | some h =>
      let n := (headerOf h).words
      if off.toNat / 4 + n ≤ code.length then some ((code.drop (off.toNat / 4)).take n) else none
  else none

/-- Whether an offset is a valid transfer target: word aligned and in the code image (R127). -/
def validTarget (code : List Lane) (t : Word) : Bool :=
  t.extractLsb' 0 2 == 0 && decide (t.toNat < 4 * code.length)

/-! ### Loops, and the end of a bundle -/

/-- What a loop step leaves: the loops, and the offset of the body's first bundle when the step returns there (R134). -/
structure LoopStep where
  outer : HwLoop
  inner : HwLoop
  back : Option Word
  deriving DecidableEq, Repr

/-- One loop's step: whether its end offset is this bundle's, and then its count and its return. -/
def HwLoop.step (l : HwLoop) (here : Word) (taken : Bool) : HwLoop × Option Word × Bool :=
  if l.active ∧ l.last = here then
    let n := l.count - 1
    if taken then ({ l with count := n, active := decide (n ≠ 0) }, none, true)
    else if n ≠ 0 then ({ l with count := n }, some l.first, true)
    else ({ l with count := n, active := false }, none, false)
  else (l, none, false)

/-- The step of the active loops at the bundle `here`, inner first (R134). `taken` marks the delay bundle of a taken
transfer. -/
def loopStep (outer inner : HwLoop) (here : Word) (taken : Bool) : LoopStep :=
  let (i, b, stop) := inner.step here taken
  if stop then { outer := outer, inner := i, back := b }
  else
    let (o, b, _) := outer.step here taken
    { outer := o, inner := i, back := b }

/-- The start of a bundle: the results due land (R110, step 1), and the offsets of the bundle and of the next one are
noted. -/
def Ctx.begin (x : Ctx) (len : Nat) : Ctx :=
  { x with toBlock := x.toBlock.arrive', here := x.pc, next := x.pc + BitVec.ofNat 64 (4 * len),
           xfer := .none, jump := none }

/-- Where the context goes after its bundle, the loop step made: the body's first bundle, a redirection without delay
bundle, or the next bundle in address order; and whether that is a delay bundle (R112, R133, R134). -/
def Ctx.follow (x : Ctx) (back : Option Word) : Ctx :=
  { x with pc := (back.orElse fun _ => x.jump).getD x.next, delay := x.xfer }

/-- The loops after the bundle being issued, and its return to a loop's body (R134). -/
def Ctx.loopsDone (x : Ctx) : LoopStep :=
  loopStep x.outer x.inner x.here (match x.delay with
    | .taken _ => true
    | _ => false)

/-- The invalid target of the transfer that would take effect after this bundle: not word aligned, or outside the code
image (R127, R296). -/
def State.badTarget? (s : State) (c : CtxId) : Option Word :=
  let x := s.ctx c
  match x.delay with
  | .taken t => if validTarget (s.codeOf x) t.target then none else some t.target
  | _ => none

/-- A context after its bundle, its loops stepped: the pending transfer has taken effect, or the context goes on (R112,
R127, R134). -/
def Ctx.close (x : Ctx) : Ctx :=
  let l := x.loopsDone
  let y := { x with outer := l.outer, inner := l.inner }
  match x.delay with
  | .taken (.goto t) => { y.squash with pc := t, delay := .none }.settle
  | .taken (.trapReturn t) => (y.trapReturn t).settle
  | _ => (y.follow l.back).settle

/-- A context whose loops have stepped and whose transfer does not take effect. -/
def Ctx.stepLoops (x : Ctx) : Ctx :=
  let l := x.loopsDone
  { x with outer := l.outer, inner := l.inner }

/-- Whether the bundle being issued is the delay bundle of a return from a trap (R319). -/
def Ctx.returns (x : Ctx) : Bool :=
  x.trapped && match x.delay with
    | .taken (.trapReturn _) => true
    | _ => false

/-- The end of a bundle: the loops step, and a pending transfer takes effect or the context goes on. A transfer whose
target is invalid is fault 0x08 at the target (R296). Before that fault, and before a return from a trap, the value of an access
of the bundle is waited for (R317, R319). -/
def State.endBundle (s : State) (c : CtxId) : State :=
  let x := s.ctx c
  if x.read.isSome && ((s.badTarget? c).isSome || x.returns) then s.setCtx c { x with closing := true, admitted := false }
  else match s.badTarget? c with
    | some t => (s.setCtx c x.stepLoops).takeTrap c { cause := 0x08, source := 0, faddr := t, epc := t, btarg := 0 }
    | none => s.setCtx c x.close

/-- The software trap after every slot of its bundle: EPC is the offset of the bundle that the context would issue next
(R136). In the delay bundle of a trapped context's `rett` the return takes effect first, and the trap is that of an untrapped
context: R318 and R319 leave the order open. In the delay bundle of a transfer with an invalid target fault 0x08 and this trap meet:
the trap is taken, at the target, and the results marked Q stay in flight (both DESIGN CHOICE, log entry 49). -/
def State.trapBundle (s : State) (c : CtxId) (n : Word) : State :=
  let info (epc : Word) : TrapInfo := { cause := 0x10, source := 0, faddr := n, epc := epc, btarg := 0 }
  match s.badTarget? c with
  | some t => (s.setCtx c (s.ctx c).stepLoops).takeTrap c (info t)
  | none => (s.setCtx c (s.ctx c).close).takeTrap c (info (s.ctx c).close.pc)

/-! ### The end of a pass -/

/-- The temporal coordinates advanced as an odometer, the highest-numbered temporal level fastest: `none` when the point
was the last (R38, R39). -/
def odometer (kinds : Vector Level 6) (coord : Vector (BitVec 32) 6) : List (Fin 6) → Option (Vector (BitVec 32) 6)
  | [] => none
  | l :: ls =>
    if (kinds[l.val]'l.isLt).kind = 1 then
      if (coord[l.val]'l.isLt).toNat + 1 < (kinds[l.val]'l.isLt).extent.toNat then
        some (coord.set l.val ((coord[l.val]'l.isLt) + 1) l.isLt)
      else odometer kinds (coord.set l.val 0 l.isLt) ls
    else odometer kinds coord ls

/-- A record put among records in the order of their bundles, behind those of the same bundle. -/
def insertDue (r : LandRec) : List LandRec → List LandRec
  | [] => [r]
  | a :: l => if r.rem < a.rem then r :: a :: l else a :: insertDue r l

/-- Records in the order in which empty bundles would land them (R110, R111). -/
def inDueOrder (l : List LandRec) : List LandRec := l.foldl (fun acc r => insertDue r acc) []

/-- What `halt` and re-entry do to the context's registers: every result in flight lands, a trap's parked state is
discarded, the loops become inactive and the return stack empty (R39, R111, R318). -/
def Block.endPass (b : Block) : Block :=
  let b' := b.writeAll (inDueOrder b.land)
  { b' with land := [], parked := [], trapped := false, outer := {}, inner := {}, pOuter := {}, pInner := {},
            rstk := [], spilled := 0, pc := 0, delay := .none, bdone := false }

/-- The sequence-table entries of a context that ends return to no owner (R73). -/
def Core.dropSeqs (k : Core) (c : Fin 4) : Core :=
  { k with seqs := k.seqs.map (fun e => if e.owner = some c then { e with owner := none } else e) }

/-- The commands of an engine that satisfy a test; the others are withdrawn. -/
def Engine.keep (e : Engine) (p : StreamCmd → Bool) : Engine :=
  { queue := e.queue.filter p, current := e.current.filter p, sent := e.sent.filter p }

/-- A function applied to every command of an engine. -/
def Engine.onCmds (e : Engine) (f : StreamCmd → StreamCmd) : Engine :=
  { queue := e.queue.map f, current := e.current.map f, sent := e.sent.map f }

/-- The commands of an engine, the earliest first. -/
def Engine.cmds (e : Engine) : List StreamCmd := e.sent ++ e.current.toList ++ e.queue

/-- The stream commands of a context withdrawn from an engine. -/
def Engine.withdraw (e : Engine) (c : Fin 4) : Engine := e.keep fun q => q.ctx != c

/-- A context withdraws its suspended commands: at re-entry and at its end (R39). -/
def Core.withdrawStreams (k : Core) (c : Fin 4) : Core := { k with engines := k.engines.map (fun e => e.withdraw c) }

/-- The loop table of a context's kernel (R31). -/
def State.loopsOf (s : State) (x : Ctx) : Vector Level 6 :=
  match (s.kernel? x.kid).bind s.image? with
  | some i => i.loops
  | none => Vector.replicate 6 {}

end Sys2Proof.Machine
end

