-- ==== Sys2Proof/Machine/Operands.lean ====
section
/-! DEFINITION. Operand forms of the control processor: immediates, addresses, branch targets, the widths of memory operands, and
how a slot that always issues gives its result. -/

namespace Sys2Proof.Machine

/-- Sign extension of I10 (R119, R139). -/
def sext10 (i : BitVec 10) : Word := i.signExtend 64

/-- Sign extension of I15 (R120). -/
def sext15 (i : BitVec 15) : Word := i.signExtend 64

/-- The address of a slot M access: xA + sext(I10) modulo 2^64 (R139). -/
def Ctx.addr (x : Ctx) (a : Reg) (i : BitVec 10) : Word := x.rx a + sext10 i

/-- The target of a PC-relative transfer: the offset of its bundle plus 4 × sext(displacement) (R128). -/
def Ctx.relTarget (x : Ctx) (i : BitVec 20) : Word := x.here + (i.signExtend 64 <<< 2)

/-- The address of the table word of `jt`: xA + 4 × min(xB, n) (R130). -/
def Ctx.tableAddr (x : Ctx) (a b : Reg) (n : BitVec 5) : Word :=
  x.rx a + BitVec.ofNat 64 (4 * min (x.rx b).toNat n.toNat)

/-- The offset of the end bundle of a `loop` (R133). -/
def Ctx.loopEnd (x : Ctx) (i : BitVec 15) : Word := x.here + BitVec.ofNat 64 (4 * i.toNat)

/-- Sign extension of a value of `w` bytes (R140). -/
def sextBytes (w v : Nat) : Word := ((BitVec.ofNat (8 * w) v).signExtend 64)

/-- Zero extension of a value of `w` bytes (R140). -/
def zextBytes (v : Nat) : Word := BitVec.ofNat 64 v

/-- The slot word of an instruction, rebuilt where the slot repeats (R103, R104). -/
def slotWord (i : Instr) : Lane := (encode i).headD 0

/-- The extension word of a slot E instruction; 0 where it has none (R105). -/
def extWord (i : Instr) : Lane := ((encode i).drop 1).headD 0

/-- The FADDR of the faults that name a slot: slot number in bits 33:32, slot word in bits 31:0 (R291). -/
def slotDetail (slot : BitVec 2) (w : Lane) : Word := 0#30 ++ slot ++ w

/-- A precise fault at the bundle that the context is issuing (R296). -/
def State.precise (s : State) (cause : BitVec 8) (source : BitVec 3) (faddr : Word) : TrapInfo :=
  { cause := cause, source := source, faddr := faddr, epc := s.me.here, btarg := s.me.pendingTarget }

/-- A slot that always issues: under a true guard it has its effect, under a false guard none (R106). -/
def issuePlain (g : Pred) (eff : State → State) (s : State) : Out :=
  if s.me.rp g then .next (eff s) else .next s

/-- A slot whose effect is one result, with latency `n` (R110, R111). -/
def result (d : Dest) (v : Word) (n : Nat) (q : Bool) (s : State) : State := s.setMe (s.me.enter d v n q)

/-- A scalar slot with an x result: `f` computes it from the registers as the bundle reads them (R114). -/
def scalar (g : Pred) (q : Bool) (d : Reg) (n : Nat) (f : Ctx → Word) (s : State) : Out :=
  issuePlain g (result (.x d) (f s.me) n q) s

/-- A compare: the condition goes to `pd` and its complement to `pd + 1` (R123). -/
def compare (g : Pred) (q : Bool) (pd : PredPair) (f : Ctx → Bool) (s : State) : Out :=
  issuePlain g (result (.pair pd) (ofBool (f s.me)) 1 q) s

/-- A predicate operation: the value goes to the single predicate pD (R124). -/
def predicate (g : Pred) (q : Bool) (d : Pred) (f : Ctx → Bool) (s : State) : Out :=
  issuePlain g (result (.pred d) (ofBool (f s.me)) 1 q) s

end Sys2Proof.Machine
end

