-- ==== Sys2Proof/Machine/Records.lean ====
section
/-! DEFINITION. Layout records: their fields, their checks, and the nest of windows they describe (R232 to R237, R242, R312). -/

namespace Sys2Proof.Machine

/-- A layout record's fields (R232). -/
structure Rec where
  base : Nat
  fmt : Nat
  rank : Nat
  bound : Nat
  ixen : Bool
  ixdim : Nat
  ilv : Nat
  fill : Lane
  ext : List Nat
  str : List Int
  win : List Nat
  ixsig : SigNum
  ixwidth : Nat
  ixoff : Nat
  seq : Nat
  deriving DecidableEq, Repr

/-- Word `i` of a record. -/
def recWord (d : Vector Word 12) (i : Nat) : Nat := (d.toList.getD i 0).toNat

/-- The 256-bit group of words 5 to 8 (R232). -/
def recGroup (d : Vector Word 12) : Nat :=
  recWord d 5 + 2 ^ 64 * recWord d 6 + 2 ^ 128 * recWord d 7 + 2 ^ 192 * recWord d 8

/-- EXTi of a record's words. -/
def recExt (d : Vector Word 12) (i : Nat) : Nat := field (recWord d (2 + i / 2)) (32 * (i % 2) + 31) (32 * (i % 2))

/-- WINi of a record's words. -/
def recWin (d : Vector Word 12) (i : Nat) : Nat := field (recWord d (9 + i / 4)) (16 * (i % 4) + 15) (16 * (i % 4))

/-- STRi of a record's words, as its 40 bits. -/
def recStr (d : Vector Word 12) (i : Nat) : Nat := field (recGroup d) (40 * i + 39) (40 * i)

/-- The fields of a record (R232). -/
def recOf (d : Vector Word 12) : Rec :=
  let w1 := recWord d 1
  let ix := recWord d 10 / 2 ^ 32
  { base := recWord d 0, fmt := field w1 63 56, rank := field w1 55 53, bound := field w1 52 50,
    ixen := field w1 47 47 == 1, ixdim := field w1 46 44, ilv := field w1 39 32, fill := BitVec.ofNat 32 w1,
    ext := (List.range 6).map (recExt d),
    str := (List.range 6).map (fun i => (BitVec.ofNat 40 (recStr d i)).toInt),
    win := (List.range 6).map (recWin d),
    ixsig := BitVec.ofNat 6 ix, ixwidth := field ix 9 8, ixoff := field ix 31 10, seq := field (recWord d 11) 63 56 }

/-- A check of one field: its word, its lowest bit, and whether it is admitted. -/
structure FieldCheck where
  word : Nat
  bit : Nat
  ok : Bool
  deriving DecidableEq, Repr

/-- The fields in the order in which a record is checked: words 0 to 11, and in each from bit 63 down; a field that
spans two words at its lower-numbered word (R312). Yarrow commands do not read WIN, BOUND and ILV (R232). -/
def recChecks (d : Vector Word 12) (yarrow : Bool) : List FieldCheck :=
  let w1 := recWord d 1
  let w10 := recWord d 10
  let rank := field w1 55 53
  let ixen := field w1 47 47 == 1
  let ext (i w b : Nat) : FieldCheck := ⟨w, b, decide (i < rank) || recExt d i == 0⟩
  let str (i w b : Nat) : FieldCheck := ⟨w, b, decide (i < rank) || recStr d i == 0⟩
  let win (i w b : Nat) : FieldCheck :=
    ⟨w, b, yarrow || (if i < rank then recWin d i != 0 else recWin d i == 0)⟩
  [⟨1, 56, decide (1 ≤ field w1 63 56 ∧ field w1 63 56 ≤ 0x13)⟩,
   ⟨1, 53, decide (1 ≤ rank ∧ rank ≤ 6)⟩,
   ⟨1, 50, yarrow || decide (field w1 52 50 ≤ 2)⟩,
   ⟨1, 48, field w1 49 48 == 0⟩,
   ⟨1, 44, if ixen then decide (field w1 46 44 < rank) else field w1 46 44 == 0⟩,
   ⟨1, 40, field w1 43 40 == 0⟩,
   ⟨1, 36, yarrow || decide (field w1 39 36 ≤ 9)⟩,
   ⟨1, 32, yarrow || decide (field w1 35 32 ≤ 3)⟩,
   ext 1 2 32, ext 0 2 0, ext 3 3 32, ext 2 3 0, ext 5 4 32, ext 4 4 0,
   str 1 5 40, str 0 5 0, str 3 6 56, str 2 6 16, str 4 7 32,
   ⟨8, 48, field (recWord d 8) 63 48 == 0⟩, str 5 8 8,
   win 3 9 48, win 2 9 32, win 1 9 16, win 0 9 0,
   ⟨10, 42, ixen || field w10 63 42 == 0⟩,
   ⟨10, 40, if ixen then decide (field w10 41 40 ≤ 2) else field w10 41 40 == 0⟩,
   ⟨10, 38, field w10 39 38 == 0⟩,
   ⟨10, 32, ixen || field w10 37 32 == 0⟩,
   win 5 10 16, win 4 10 0,
   ⟨11, 56, decide (field (recWord d 11) 63 56 ≤ 32)⟩,
   ⟨11, 0, field (recWord d 11) 55 0 == 0⟩]

/-- The detail of fault 0x40 when a check of the record fails (R312). -/
def recRefused (d : Vector Word 12) (yarrow : Bool) (desc : DescNum) : Option Word :=
  ((recChecks d yarrow).find? (fun c => !c.ok)).map fun c =>
    BitVec.ofNat 64 (c.word * 2 ^ 56 + c.bit * 2 ^ 48 + desc.toNat)

/-- The size of a unit in bytes (R233). -/
def unitSize (fmt : Nat) : Nat :=
  match fmt with
  | 1 | 5 => 1
  | 2 | 6 | 9 | 0xB => 2
  | 3 | 7 | 0xA | 0xC => 4
  | 4 | 8 => 8
  | 0xD | 0xE | 0xF => 256
  | 0x10 => 64
  | 0x11 => 96
  | 0x12 => 128
  | _ => 16

/-- The alignment of a unit's address (R233). -/
def unitAlign (fmt : Nat) : Nat := if 0x10 ≤ fmt ∧ fmt ≤ 0x12 then 32 else unitSize fmt

/-- Whether a record's FMT admits a signal format (R233). -/
def fmtAdmits (fmt : Nat) (sig : BitVec 8) : Bool :=
  if fmt ≤ 0xF then fmt == sig.toNat else decide (0x10 ≤ fmt ∧ fmt ≤ 0x12) && fmt - 3 == sig.toNat

/-- How many units of a format a sample of `rows` rows holds. The units of a .col code take the sample's element
positions from 0 upward, 224, 320 or 480 in each row (R82, R238; DEDUCED, log entry 18). -/
def unitsPerSample (fmt rows : Nat) : Nat :=
  match fmt with
  | 0x10 => rows * 224 / 64
  | 0x11 => rows * 320 / 128
  | 0x12 => rows * 480 / 256
  | _ => rows * 256 / unitSize fmt

/-- The product of a list. -/
def product : List Nat → Nat
  | [] => 1
  | a :: r => a * product r

namespace Rec

/-- The dimensions in use. -/
def dims (r : Rec) : List Nat := List.range r.rank

/-- EXTi. -/
def extAt (r : Rec) (i : Nat) : Nat := r.ext.getD i 0
/-- WINi. -/
def winAt (r : Rec) (i : Nat) : Nat := r.win.getD i 0
/-- STRi. -/
def strAt (r : Rec) (i : Nat) : Int := r.str.getD i 0

/-- The windows of dimension `i`: T(i) (R236, R239). -/
def tiles (r : Rec) (i : Nat) : Nat :=
  if r.ixen ∧ i = r.ixdim then 1 else (r.extAt i + r.winAt i - 1) / r.winAt i

/-- The number of windows of the nest, 0 when an extent is 0 (R236). -/
def windows (r : Rec) : Nat :=
  if r.dims.any (fun i => r.extAt i == 0) then 0 else product (r.dims.map r.tiles)

/-- The units of a window (R236). -/
def winUnits (r : Rec) : Nat := product (r.dims.map r.winAt)

/-- A number in the mixed radix `radix`, dimension 0 fastest (R236). -/
def digits : List Nat → Nat → List Nat
  | [], _ => []
  | m :: ms, n => n % m :: digits ms (n / m)

/-- The window coordinates w of unit `e`. -/
def winCoord (r : Rec) (e : Nat) : List Nat := digits (r.dims.map r.winAt) e

/-- The coordinate x of unit `e` of window `j`, the indirect dimension taken from the index `ix` of its window coordinate
(R236, R239). -/
def coord (r : Rec) (j e : Nat) (ix : Nat → Int) : List Int :=
  let t := digits (r.dims.map r.tiles) j
  let w := r.winCoord e
  r.dims.map fun i =>
    if r.ixen ∧ i = r.ixdim then ix (w.getD i 0) else ((t.getD i 0 * r.winAt i + w.getD i 0 : Nat) : Int)

/-- Whether a coordinate is inside (R237). -/
def inside (r : Rec) (x : List Int) : Bool :=
  r.dims.all fun i => decide (0 ≤ x.getD i 0 ∧ x.getD i 0 < r.extAt i)

/-- The coordinate that a fill reads for a coordinate, `none` for the FILL unit (R237). -/
def resolve (r : Rec) (x : List Int) : Option (List Int) :=
  if r.inside x then some x
  else if r.bound = 0 then none
  else if r.bound = 1 then some (r.dims.map fun i => max 0 (min (x.getD i 0) (r.extAt i - 1)))
  else some (r.dims.map fun i => x.getD i 0 % r.extAt i)

/-- The address of a coordinate, modulo 2^64 (R236). -/
def addr (r : Rec) (off : Nat) (x : List Int) : Word :=
  BitVec.ofInt 64 ((r.base : Int) + off + unitSize r.fmt * (r.dims.map fun i => x.getD i 0 * r.strAt i).sum)

/-- The dimensions of a row item (R242). -/
def itemDims (r : Rec) : List Nat := List.range (r.rank - 1)

/-- The units of a row item (R242). -/
def itemUnits (r : Rec) : Nat := product (r.itemDims.map r.extAt)

/-- The number of rows of the table of a Yarrow command (R242). -/
def tableRows (r : Rec) : Nat := r.extAt (r.rank - 1)

/-- The address of unit `e` of the row item of row `n` (R242). -/
def rowAddr (r : Rec) (n e : Nat) : Word :=
  r.addr 0 ((digits (r.itemDims.map r.extAt) e).map (fun (d : Nat) => (d : Int)) ++ [(n : Int)])

/-- The FILL unit's bytes (R237). -/
def fillUnit (r : Rec) : List Byte :=
  match r.fmt with
  | 4 | 8 => leBytes 8 (r.fill.signExtend 64).toNat
  | 0xD | 0xE | 0xF => (List.range 64).flatMap fun _ => leBytes 4 r.fill.toNat
  | 0x10 => (List.range 64).map fun _ => r.fill.extractLsb' 0 8
  | 0x11 => leBytes 96 (((2 ^ 768 - 1) / 63) * (r.fill.toNat % 64))
  | 0x12 => leBytes 128 (((2 ^ 1024 - 1) / 15) * (r.fill.toNat % 16))
  | f => leBytes (unitSize f) (r.fill.toNat)

/-- A unit whose every bit is 0. -/
def zeroUnit (r : Rec) : List Byte := List.replicate (unitSize r.fmt) 0

end Rec

end Sys2Proof.Machine
end

