-- ==== Sys2Proof/Machine/Signals.lean ====
section
/-! DEFINITION. Signals: slots, taps, writes, pins, ticks, expiry, speculation, `sclr` and `sstat` (R54 to R71). -/

namespace Sys2Proof.Machine

/-- `due(s, n)`: (n − phase) mod rate = 0 (R57). -/
def Plan.due (p : Plan) (n : BitVec 48) : Bool := ((n.toNat : Int) - p.phase) % p.rate == 0

/-- N = D + L slots (R54). -/
def Plan.nslots (p : Plan) : Nat := p.depth + p.lead

/-- The signal at creation: every slot free, unbound, or remote for a REMOTE signal (R56, R58). -/
def Signal.init (p : Plan) : Signal :=
  { plan := p, adv := 0, bind := if p.isRemote then .remote else .unbound, slots := List.replicate p.nslots {} }

namespace Signal

/-- The slot of sample `k`: slot k mod N (R58). -/
def slot (g : Signal) (k : Nat) : SigSlot := g.slots.getD (k % g.plan.nslots) {}

/-- The slot of sample `k` replaced. -/
def setSlot (g : Signal) (k : Nat) (v : SigSlot) : Signal := { g with slots := g.slots.set (k % g.plan.nslots) v }

/-- Whether the slot of sample `k` holds it (R61). -/
def holds (g : Signal) (k : Nat) : Bool := (g.slot k).st != .free && (g.slot k).tag == k

/-- Whether a tap of sample `k` reads (R62). -/
def readable (g : Signal) (k : Nat) : Bool :=
  g.holds k && ((g.slot k).st == .full || (g.slot k).st == .draining)

/-- Whether sample `k` is older than depth (R66). -/
def expired (g : Signal) (k : Nat) : Bool := decide (k + g.plan.depth ≤ g.adv)

/-- Row `r` of sample `k`. -/
def rowAt (g : Signal) (k r : Nat) : Row := (g.slot k).data.getD r 0

/-- A row of start values (R60). -/
def startRow (g : Signal) : Row := rowOf g.plan.start

/-- Whether the signal is in-tick: unbound, grid or CP (R56). -/
def inTick (g : Signal) : Bool := g.bind == .unbound || g.bind == .grid || g.bind == .cp

/-- Whether sample `k` is committed (R64): full, and for an in-tick signal claimed before the tick that NOWC counts. -/
def committed (g : Signal) (k : Nat) : Bool := g.readable k && (!g.inTick || (g.slot k).past)

end Signal

/-- What a write to a slot meets (R63). -/
inductive WriteTest where
  | ok | wait | full
  deriving DecidableEq, Repr

namespace Signal

/-- Whether a producer may write sample `k`, waits, or finds it full (R63). -/
def writeTest (g : Signal) (k : Nat) : WriteTest :=
  let v := g.slot k
  if v.st = .free then .ok
  else if v.tag ≠ k ∨ v.held then .wait
  else match v.st with
    | .filling => .ok
    | .full => .full
    | _ => .wait

/-- The slot claimed for sample `k` at NOW, every lane the start value (R61). -/
def claim (g : Signal) (k : Nat) (now : BitVec 48) : SigSlot :=
  { st := .filling, tag := k, claim := now, held := false, rows := 0,
    data := List.replicate g.plan.rows g.startRow, fresh := true }

/-- Row `r` of sample `k` written by `f`; the slot is claimed if it was free, and full once every row has been written
(R61, R63). -/
def writeRow (g : Signal) (k : Nat) (now : BitVec 48) (r : Nat) (f : Row → Row) : Signal :=
  let v := if (g.slot k).st = .free then g.claim k now else g.slot k
  let rows := v.rows ||| (1#64 <<< r)
  let all := (List.range g.plan.rows).all fun i => rows.getLsbD i
  g.setSlot k { v with data := v.data.set r (f (v.data.getD r 0)), rows := rows,
                       st := if all then .full else .filling }

/-- A whole sample written at once by a fill (R238): the slot is full. -/
def writeSample (g : Signal) (k : Nat) (now : BitVec 48) (data : List Row) : Signal :=
  g.setSlot k { g.claim k now with st := .full, data := data, rows := BitVec.allOnes 64 }

end Signal

/-! ### Store commands: the samples they pin -/

/-- The sample offset of a drain, −64 to 63 (R160). -/
def StreamCmd.off (q : StreamCmd) : Int := q.pos.toInt

/-- Whether a command is a drain (R162). -/
def StreamCmd.isDrain (q : StreamCmd) : Bool := q.kind == .sstore || q.kind == .sscatter

/-- Whether a command is a fill (R162). -/
def StreamCmd.isFill (q : StreamCmd) : Bool := q.kind == .sload || q.kind == .sgather || q.kind == .sreduce

/-- How many samples a drain copies: its windows, or its indices (R238, R247). -/
def StreamCmd.samples (q : StreamCmd) : Nat :=
  if q.kind = .sstore then (recOf q.rec1).windows else (q.b.extractLsb' 0 32).toNat

/-- The sample of a drain's step `j` (R238, R247). -/
def StreamCmd.drainSample (q : StreamCmd) (j : Nat) : Int := (q.adv : Int) + q.off + j

/-- Whether a command pins sample `k` of its context's signal `n`: a drain from its effect until it has copied the
sample, an indirect command its index sample until its entries are read (R64, R239). -/
def StreamCmd.pins (q : StreamCmd) (n : SigNum) (k : Nat) : Bool :=
  (q.isDrain && q.sig == n && q.effective && !q.held
    && decide (q.drainSample q.j ≤ k ∧ (k : Int) < q.drainSample q.samples))
  || ((recOf q.rec1).ixen && (recOf q.rec1).ixsig == n && q.ix.isNone && q.ixAdv == k
    && (q.kind == .sload || q.kind == .sloadPl || q.kind == .sstore || q.kind == .scopy))
  || (q.kind == .scopy && (recOf q.rec2).ixen && (recOf q.rec2).ixsig == n && q.ix2.isNone && q.ixAdv2 == k)

/-- Whether a drain is in the middle of copying sample `k`: a unit of it has been sent (R61). -/
def StreamCmd.copies (q : StreamCmd) (n : SigNum) (k : Nat) : Bool :=
  q.isDrain && q.sig == n && q.effective && decide (0 < q.e) && decide (q.drainSample q.j = k)

/-- The stream and Yarrow commands of a context on its core's engines that have not performed. -/
def Core.streamsOf (k : Core) (c : Fin 4) : List StreamCmd :=
  (k.engines.toList.flatMap Engine.cmds).filter fun q => q.ctx == c

/-- Whether a sample is pinned (R64). -/
def Core.pinned (k : Core) (c : Fin 4) (n : SigNum) (smp : Nat) : Bool := (k.streamsOf c).any fun q => q.pins n smp

/-- Whether a store stream is copying a sample (R61). -/
def Core.copying (k : Core) (c : Fin 4) (n : SigNum) (smp : Nat) : Bool := (k.streamsOf c).any fun q => q.copies n smp

/-- A draining slot whose streams are done: full and held, full within depth, or free (R61). -/
def Core.settleSlot (k : Core) (c : Fin 4) (n : SigNum) (g : Signal) (v : SigSlot) : SigSlot :=
  if v.st = .draining ∧ k.copying c n v.tag = false then
    if v.held then { v with st := .full }
    else if g.expired v.tag then (if k.pinned c n v.tag then v else {})
    else { v with st := .full }
  else v

/-- The slots of one signal of a context after a store stream's progress (R61). -/
def Core.settleSig (k : Core) (c : Fin 4) (n : SigNum) : Core :=
  let x := k.ctxs[c.val]'c.isLt
  match x.sig n with
  | none => k
  | some g =>
    { k with ctxs := k.ctxs.set c.val (x.setSig n (some { g with slots := g.slots.map (k.settleSlot c n g) })) c.isLt }

/-- The number of a signal from its place. -/
def sigNums : List SigNum := (List.range 64).map (BitVec.ofNat 6)

/-- Every signal of a context after a command's progress or its withdrawal (R61). -/
def Core.settle (k : Core) (c : Fin 4) : Core := sigNums.foldl (fun k n => k.settleSig c n) k

/-! ### Ticks -/

/-- The signals that a tick from NOW advances (R57, R65). -/
def Ctx.dueSigs (x : Ctx) : List (SigNum × Signal) :=
  sigNums.filterMap fun n =>
    match x.sig n with
    | some g => if !g.plan.isStatic && g.plan.due (x.now + 1) then some (n, g) else none
    | none => none

/-- How often this speculation has advanced a signal (R65, R70). -/
def Ctx.specAdvances (x : Ctx) (g : Signal) : Nat :=
  ((List.range (x.now - x.nowc).toNat).filter fun i => g.plan.due (x.nowc + 1 + BitVec.ofNat 48 i)).length

/-- The detail of a signal fault (R304). -/
def sigDetail (adv : Nat) (lp : BitVec 8) (n : SigNum) : Word := BitVec.ofNat 48 adv ++ lp ++ 0#2 ++ n

/-- The speculation overflow that a tick from NOW would be, with its detail (R70, R304, R309). -/
def Ctx.tickOverflow (x : Ctx) : Option Word :=
  if x.specd = 0 then none
  else if (x.now - x.nowc).toNat + 1 > x.specd.toNat then some (sigDetail x.now.toNat 0xFF 0)
  else (x.dueSigs.find? fun (_, g) => decide (x.specAdvances g ≥ g.plan.lead)).map fun (n, g) =>
    sigDetail g.adv (BitVec.ofNat 8 g.plan.lead) n

/-- Whether a tick from NOW waits on a signal (R65). -/
def Signal.tickWaits (g : Signal) : Bool :=
  if g.inTick then (g.slot g.adv).st != .free && (g.slot g.adv).tag != g.adv
  else !g.readable (g.adv + 1)

/-- Whether a tick from NOW waits (R65). -/
def Ctx.tickWaits (x : Ctx) : Bool := x.dueSigs.any fun (_, g) => g.tickWaits

/-- Expiry of sample `k` (R61, R66). -/
def Core.expire (kc : Core) (c : Fin 4) (n : SigNum) (spec : Bool) (g : Signal) (k : Nat) : Signal :=
  let v := g.slot k
  if g.holds k then
    if spec then
      (if v.st = .full ∨ v.st = .draining then g.setSlot k { v with held := true } else g)
    else match v.st with
      | .full => g.setSlot k (if kc.pinned c n k then { v with st := .draining } else {})
      | _ => g
  else g

/-- A signal advanced by one tick: its sample finalised when in-tick, ADV raised, the sample beyond depth expired
(R65). -/
def Core.advance (kc : Core) (c : Fin 4) (x : Ctx) (n : SigNum) (g : Signal) : Signal :=
  let a := g.adv
  let g1 :=
    if g.inTick then
      if (g.slot a).st = .free then g.setSlot a { g.claim a x.now with st := .full }
      else if (g.slot a).st = .filling then g.setSlot a { g.slot a with st := .full } else g
    else g
  let g2 := { g1 with adv := a + 1 }
  if g.plan.depth ≤ a + 1 then kc.expire c n (x.specd != 0) g2 (a + 1 - g.plan.depth) else g2

/-- The slots of a signal of which a test says that they were claimed before the tick that NOWC now counts (R64). -/
def Signal.markPast (g : Signal) (p : SigSlot → Bool) : Signal :=
  { g with slots := g.slots.map fun v => if v.st != .free && p v then { v with past := true } else v }

/-- The context after a tick (R65). At a committed tick every claim so far comes before NOWC (R64). -/
def Core.tick (kc : Core) (c : Fin 4) : Ctx :=
  let x := kc.ctxs[c.val]'c.isLt
  let y := x.dueSigs.foldl (fun y (n, g) => y.setSig n (some (kc.advance c x n g))) x
  let n1 := x.now + 1
  if x.specd = 0 then
    { y with now := n1, nowc := n1, sigs := y.sigs.map fun g => g.map fun g => g.markPast fun _ => true }
  else { y with now := n1 }

/-! ### Speculation -/

/-- A slot under `commit x` (R61, R64, R70): `lo` is c + x, `now` the NOW before; a slot claimed from `lo` on in an in-tick
signal is discarded, and a held slot is judged against the new ADV. -/
def Core.commitSlot (kc : Core) (c : Fin 4) (n : SigNum) (g : Signal) (lo now : BitVec 48) (adv : Nat) (v : SigSlot) :
    SigSlot :=
  if g.inTick && v.st != .free && !v.past && decide ((v.claim - lo).toNat ≤ (now - lo).toNat) then {}
  else if v.held then
    if v.tag + g.plan.depth ≤ adv then
      match v.st with
      | .full => if kc.pinned c n v.tag then { v with st := .draining, held := false } else {}
      | _ => { v with held := false }
    else { v with held := false }
  else v

/-- A signal under `commit x` (R70). -/
def Core.commitSig (kc : Core) (c : Fin 4) (n : SigNum) (g : Signal) (lo now : BitVec 48) : Signal :=
  let back := ((List.range (now - lo).toNat).filter fun i => g.plan.due (lo + 1 + BitVec.ofNat 48 i)).length
  let adv := if g.plan.isStatic then g.adv else g.adv - back
  { g with adv := adv, slots := g.slots.map (kc.commitSlot c n g lo now adv) }.markPast
    fun v => decide ((now - lo).toNat < (v.claim - lo).toNat)

/-- The signals and counters of a context under `commit x` (R70). -/
def Core.commit (kc : Core) (c : Fin 4) (k : BitVec 48) : Ctx :=
  let x := kc.ctxs[c.val]'c.isLt
  let lo := x.nowc + k
  let y := sigNums.foldl (fun y n => match x.sig n with
    | some g => y.setSig n (some (kc.commitSig c n g lo x.now))
    | none => y) x
  { y with now := lo, nowc := lo, specd := 0 }

/-! ### `sclr` and `sstat` -/

/-- A signal cleared (R69). -/
def Signal.clear (g : Signal) : Signal := { Signal.init g.plan with base := g.base }

/-- The status word of `sstat` (R69). -/
def Signal.status (g : Signal) : Word :=
  let st0 := if g.holds g.adv then (g.slot g.adv).st else .free
  let code (t : SlotState) : BitVec 2 := match t with
    | .free => 0
    | .filling => 1
    | .full => 2
    | .draining => 3
  let bind : BitVec 3 := match g.bind with
    | .unbound => 0
    | .stream => 1
    | .grid => 2
    | .cp => 3
    | .remote => 4
  let ahead := ((List.range g.plan.lead).filter fun i =>
    g.holds (g.adv + i + 1) && (g.slot (g.adv + i + 1)).st == .full).length
  bind ++ code st0 ++ BitVec.ofBool (g.slots.any (·.held)) ++ BitVec.ofNat 12 (min g.adv (g.plan.depth - 1))
    ++ BitVec.ofNat 7 ahead ++ BitVec.ofNat 13 (g.adv % g.plan.nslots) ++ BitVec.ofNat 26 g.adv

/-! ### The end of a pass -/

/-- The context of a pass that ends: its registers reset, its faults and waits gone. -/
def Ctx.passOver (x : Ctx) : Ctx :=
  { x with toBlock := x.toBlock.endPass, halting := false, faults := [], xfer := .none, jump := none,
           admitted := false, wait := none, syncSeen := none, syncAt := none }

/-- A core on which a context's pass ends: its suspended commands are withdrawn and its slots settle (R39, R61). -/
def Core.passOver (k : Core) (c : Fin 4) : Core :=
  (Core.withdrawStreams { k with ctxs := k.ctxs.set c.val (k.ctxs[c.val]'c.isLt).passOver c.isLt } c).settle c

/-- A context that ends: it triggers, and no longer waits for the grid (R39, R52, R271). -/
def Ctx.finish (x : Ctx) (cycle seq : Nat) : Ctx :=
  { x with ended := true, endedAt := cycle, triggered := true, gacqAt := none,
           trigAt := if x.triggered then x.trigAt else seq }

/-- A core one of whose contexts ends: its sequence entries and the grid are released (R40, R49, R73). -/
def Core.freed (k : Core) (c : Fin 4) : Core :=
  { k.dropSeqs c with grid := { k.grid with owner := if k.grid.owner = some c then none else k.grid.owner } }

/-- The end of a pass, once its waits are over: suspended commands are withdrawn, and the kernel's first bundle follows with
the coordinates advanced, or the context ends, triggers, and releases the grid and its sequence entries (R38, R39, R40, R52,
R61, R73, R271). -/
def State.endPass (s : State) (c : CtxId) : State :=
  let x := s.ctx c
  let s1 := s.onCore c.core fun k => k.passOver c.ctx
  match odometer (s.loopsOf x) x.coord [5, 4, 3, 2, 1, 0] with
  | some co => s1.onCtx c fun y => { y with coord := co }
  | none => (s1.onCore c.core fun k => k.freed c.ctx).onCtx c fun y => y.finish s.cycle s.cmdSeq

end Sys2Proof.Machine
end

