-- ==== Sys2Proof/Machine/DevMem.lean ====
section
/-! DEFINITION. Device and host memory: translation, permissions, the bytes under a key, and what a read sees of writes in flight
(R250 to R263, R330, R331). -/

namespace Sys2Proof.Machine

/-! ### Physical addresses -/

/-- Whether a physical address lies outside the package (R250). -/
def paExt (pa : Nat) : Bool := pa / 2 ^ 51 % 2 == 1

/-- Whether no store holds a physical address: the cases of 0x57 (R330). -/
def paInvalid (pa : Nat) : Bool :=
  if paExt pa then pa / 2 ^ 48 % 8 != 0 else decide (0x165A0BC000 ≤ pa % 2 ^ 48)

/-- Whether a physical address lies in the link aperture (R279, R280). -/
def paAperture (pa : Nat) : Bool := paExt pa && pa / 2 ^ 48 % 8 == 0 && pa / 2 ^ 44 % 16 == 15

/-- The peer that an aperture address names, which is also the number of the port that leads to it (R280; log entry 11). -/
def paPeer (pa : Nat) : BitVec 4 := BitVec.ofNat 4 (pa / 2 ^ 40)

/-- Whether a physical address is host memory (R250, R280). -/
def paHost (pa : Nat) : Bool := paExt pa && !paAperture pa

/-- Whether an access goes over a link whose port is not up: fault 0xA2 (R338). -/
def State.linkDown (s : State) (pa : Nat) : Bool :=
  paAperture pa && (s.ports[(paPeer pa).toNat]'((paPeer pa).isLt)).state != 2

/-- DETAIL of fault 0xA2: the peer, and bits 39:0 of the peer address (R338). -/
def linkDetail (pa : Nat) : Word := BitVec.ofNat 64 (pa / 2 ^ 40 % 16 * 2 ^ 60 + pa % 2 ^ 40)

/-- A port carried an access: its count of failed replays starts anew (R338). -/
def State.linkUsed (s : State) (pa : Nat) : State :=
  if paAperture pa then
    let p := s.ports[(paPeer pa).toNat]'((paPeer pa).isLt)
    { s with ports := s.ports.set (paPeer pa).toNat { p with replays := 0 } (paPeer pa).isLt }
  else s

/-- The permissions an access needs; `ext0` that it must lie in HBM (R254). -/
structure Need where
  r : Bool := false
  w : Bool := false
  a : Bool := false
  ext0 : Bool := false
  deriving DecidableEq, Repr

/-- R254, `gld` and its like. -/
def Need.read : Need := { r := true }
/-- R254, `gst` and its like. -/
def Need.write : Need := { w := true }
/-- R254, the atomics. -/
def Need.atomic : Need := { r := true, w := true, a := true, ext0 := true }

/-! ### Translations (R251 to R256) -/

/-- What translates an address: the physical address and the bits SH, A, W, R of the entry. -/
structure Leaf where
  pa : Nat
  sh : Bool
  a : Bool
  w : Bool
  r : Bool
  deriving DecidableEq, Repr

/-- Whether a physical address lies in a poisoned block (R349). -/
def State.poisoned (s : State) (pa n : Nat) : Bool :=
  !paExt pa && s.poison.any fun b => decide (pa / 64 ≤ b ∧ b ≤ (pa + n - 1) / 64)

/-- Whether a write would leave a part of a poisoned block as it is (R349). -/
def State.cutsPoison (s : State) (pa n : Nat) : Bool :=
  s.poisoned pa n && !paExt pa && s.poison.any fun b =>
    decide (pa / 64 ≤ b ∧ b ≤ (pa + n - 1) / 64) && !decide (pa ≤ 64 * b ∧ 64 * (b + 1) ≤ pa + n)

/-- Eight bytes of raw memory, as a table entry is read (R255): no store has them, fault 0x57 (R330; DESIGN CHOICE, log entry 45);
a poisoned block is fault 0x84 (R349); those of a linked device are free values (log entry 11). -/
def State.rawWord (s : State) (pa : Nat) : Except (BitVec 8) Nat :=
  if paInvalid pa then .error 0x57
  else if s.poisoned pa 8 then .error 0x84
  else if paAperture pa then .ok (leNat ((List.range 8).map fun i => Config.freeByte s.draws (pa + i)))
  else .ok (leNat (Memory.getBytes s.mem pa 8))

/-- A choice among `n` of this turn's, apart from those that say which events happen in it (log entry 1). -/
def State.pickOf (s : State) (i n : Nat) : Nat := s.pick / 2 ^ (64 * (i + 1)) % n

/-- The physical address under a range entry (R252). -/
def rangeMap (e : RangeEntry) (va : Nat) : Nat :=
  let attr := e.attr.toNat
  let g := 2 ^ (8 + field attr 15 12)
  let sp := 2 ^ field attr 11 8
  let o := va - e.vbase.toNat
  let pb := e.pbase.toNat
  let stk := pb / 2 ^ 48 % 8 + o / g % sp
  let off := pb % 2 ^ 48 + o / g / sp * g + o % g
  (pb / 2 ^ 51 % 2) * 2 ^ 51 + stk * 2 ^ 48 + off

/-- Whether a physical address is one to which a valid range entry leads (R252). -/
def rangeReaches (e : RangeEntry) (pa : Nat) : Bool :=
  let g := 2 ^ (8 + field e.attr.toNat 15 12)
  let sp := 2 ^ field e.attr.toNat 11 8
  let pb := e.pbase.toNat
  let r := pa % 2 ^ 48 - pb % 2 ^ 48
  let va := e.vbase.toNat + ((r / g * sp + (pa / 2 ^ 48 % 8 - pb / 2 ^ 48 % 8)) * g + r % g)
  e.attr.getLsbD 0 && decide (va ≤ e.vlimit.toNat) && rangeMap e va == pa

/-- Whether an address matches a range entry (R251). -/
def rangeHits (e : RangeEntry) (va : Nat) : Bool := e.attr.getLsbD 0 && decide (e.vbase.toNat ≤ va ∧ va ≤ e.vlimit.toNat)

/-- The range entry that translates an address: the lowest-numbered that matches (R251). -/
def rangeFor (ranges : Vector RangeEntry 64) (va : Nat) : Option RangeEntry := ranges.toList.find? fun e => rangeHits e va

/-- The part of an interval about an address in which none of some range entries matches, where none matches the address itself
(R251). -/
def clearOf (es : List RangeEntry) (va : Nat) (b : Nat × Nat) : Nat × Nat :=
  es.foldl (fun b e =>
    if !e.attr.getLsbD 0 then b
    else if e.vlimit.toNat < va then (max b.1 (e.vlimit.toNat + 1), b.2)
    else if va < e.vbase.toNat then (b.1, min b.2 (e.vbase.toNat - 1)) else b) b

/-- Whether a valid table entry breaks R253: a reserved bit, or LEAF or C64 against its level. -/
def pteBad (e level : Nat) : Bool :=
  field e 63 52 != 0 || field e 11 7 != 0 || (level != 0 && field e 6 6 == 1)
    || (level == 0 && field e 1 1 == 0) || (decide (3 ≤ level) && field e 1 1 == 1)

/-- Whether a page of `n` bytes from a physical address does not lie wholly in one stack (R253): its ends differ in EXT or
STK, or only one of them is a byte of the stack (log entry 45). -/
def pageSplit (pa n : Nat) : Bool :=
  pa / 2 ^ 48 != (pa + n - 1) / 2 ^ 48 || paInvalid pa != paInvalid (pa + n - 1)

/-- Whether the 16 entries of a 64 KiB page agree: equal but for FRAME, and FRAME consecutive from an aligned address
(R253). `tab` is the table, `i` the index of one of them. -/
def State.c64Ok (s : State) (tab i : Nat) : Except (BitVec 8) Bool :=
  let at0 := tab + 8 * (i / 16 * 16)
  match s.rawWord at0 with
  | .error c => .error c
  | .ok first =>
    if s.poisoned at0 128 then .error 0x84
    else .ok (field first 15 12 == 0 &&
      (List.range 16).all fun k => leNat (Memory.getBytes s.mem (at0 + 8 * k) 8) == first + k * 2 ^ 12)

/-- The bits of an address within the page of a leaf at a level (R253). -/
def pageBits (e level : Nat) : Nat := if level = 0 ∧ field e 6 6 = 1 then 16 else 12 + 9 * level

/-- The first physical byte of the page of a leaf at a level: that of the whole 64 KiB page where the entry is one of its 16
(R253). -/
def pageBase (e level : Nat) : Nat := if level = 0 ∧ field e 6 6 = 1 then field e 51 16 * 2 ^ 16 else field e 51 12 * 2 ^ 12

/-- The page that a leaf entry at a level maps, about `va` (R253). -/
def leafPage (d : DomNum) (born va e level : Nat) : Xlat :=
  let n := 2 ^ pageBits e level
  { dom := d, lo := va / n * n, hi := va / n * n + n - 1, born := born,
    via := .page (pageBase e level) (field e 5 5 == 1) (field e 4 4 == 1) (field e 3 3 == 1) (field e 2 2 == 1) }

/-- The page-table walk from a table at `level` down (R253): 0x50 for an invalid entry, 0x53 for a malformed one, 0x84 for a
poisoned one (R349). -/
def State.walk (s : State) (d : DomNum) (born va : Nat) : Nat → Nat → Except (BitVec 8) Xlat
  | level, tab =>
    let shift := 12 + 9 * level
    let i := va / 2 ^ shift % (if level = 4 then 256 else 512)
    match s.rawWord (tab + 8 * i) with
    | .error c => .error c
    | .ok e =>
      if field e 0 0 = 0 then .error 0x50
      else if pteBad e level then .error 0x53
      else if field e 1 1 = 1 then
        match (if level = 0 ∧ field e 6 6 = 1 then s.c64Ok tab i else .ok true) with
        | .error c => .error c
        | .ok ok =>
          if !ok || pageSplit (pageBase e level) (2 ^ pageBits e level) then .error 0x53 else .ok (leafPage d born va e level)
      else match level with
        | 0 => .error 0x53
        | l + 1 => s.walk d born va l (field e 51 12 * 2 ^ 12)

/-- The range entries and page-table roots by which an access of a domain may be translated, each with the age of the translation:
those in force, and while the invalidation of a change has not performed, those replaced (R256, log entry 7). -/
def State.mappings (s : State) (d : DomNum) : List ((Vector RangeEntry 64 × Word) × Nat) :=
  let dm := s.domain d
  ((dm.ranges, dm.root), s.cmdSeq) :: dm.stale.map fun m => (m, 0)

/-- A translation kept to the part of it about an address in which no entry of a list matches (R251). -/
def Xlat.within (x : Xlat) (es : List RangeEntry) (va : Nat) : Xlat :=
  let b := clearOf es va (x.lo, x.hi)
  { x with lo := b.1, hi := b.2, via := match x.via with
      | .range e => .range e
      | .page pa sh a w r => .page (pa + (b.1 - x.lo)) sh a w r }

/-- The translation of an address read from a domain's range entries, tried first, or its page table: it applies as far as no
range entry that comes before it matches (R251, R253). -/
def State.lookUp (s : State) (d : DomNum) (va : Nat) (m : (Vector RangeEntry 64 × Word) × Nat) : Except (BitVec 8) Xlat :=
  let es := m.1.1.toList
  match es.find? fun e => rangeHits e va with
  | some e => .ok (({ dom := d, lo := e.vbase.toNat, hi := e.vlimit.toNat, via := .range e, born := m.2 } : Xlat).within
      (es.takeWhile fun e => !rangeHits e va) va)
  | none => (s.walk d m.2 va 4 m.1.2.toNat).map fun x => x.within es va

/-- Whether a translation applies to an address of a domain (R255). -/
def Xlat.covers (x : Xlat) (d : DomNum) (va : Nat) : Bool := x.dom == d && decide (x.lo ≤ va ∧ va ≤ x.hi)

/-- What a translation gives for an address. -/
def Xlat.leaf (x : Xlat) (va : Nat) : Leaf :=
  match x.via with
  | .range e =>
    let attr := e.attr.toNat
    { pa := rangeMap e va, sh := field attr 4 4 == 1, a := field attr 3 3 == 1, w := field attr 2 2 == 1,
      r := field attr 1 1 == 1 }
  | .page pa sh a w r => { pa := pa + (va - x.lo), sh := sh, a := a, w := w, r := r }

/-- The translations that the caches of a core hold for an address (R255). -/
def Core.cached (k : Core) (d : DomNum) (va : Nat) : List Xlat := (k.ranges ++ k.pages).filter fun x => x.covers d va

/-- The translation of an access: from the tables in force or replaced, or where a cache of its core holds one, that one (R255,
R256). Which entries a cache has evicted is free (log entry 7). A domain that does not exist has no translation (R285). -/
def State.xlat (s : State) (n : Option CoreId) (d : DomNum) (va : Nat) : Except (BitVec 8) Xlat :=
  if !(s.domain d).live then .error 0x50 else
  let l := match n with
    | some n => (s.core n).cached d va
    | none => []
  let ms := s.mappings d
  let i := s.pickOf 0 (ms.length + l.length)
  match ms[i]? with
  | some m => s.lookUp d va m
  | none => match l[i - ms.length]? with
    | some x => .ok x
    | none => .error 0x50

/-- The translation that an engine keeps from the units before, where it applies, and otherwise a new one (R255). -/
def State.xlatOr (s : State) (run : Option Xlat) (n : Option CoreId) (d : DomNum) (va : Nat) : Except (BitVec 8) Xlat :=
  match run.filter fun x => x.covers d va with
  | some x => .ok x
  | none => s.xlat n d va

/-- A core's caches with a translation that an access has used in front; they hold 64 range entries and 512 pages (R8,
R255). -/
def Core.cache (k : Core) (x : Xlat) : Core :=
  match x.via with
  | .range _ => { k with ranges := (x :: k.ranges.filter (· != x)).take 64 }
  | .page .. => { k with pages := (x :: k.pages.filter (· != x)).take 512 }

/-- An access or unit checked in the order of R331: bits 63:56, alignment (`alignCode`), the walk, 0x57, permission, and
EXT 0 where it is needed; the physical address with the translation used, or the cause. `run` is a translation that an engine
keeps from the units before (R255). -/
def State.access (s : State) (n : Option CoreId) (d : DomNum) (va : Word) (align : Nat) (alignCode : BitVec 8) (need : Need)
    (run : Option Xlat) : Except (BitVec 8) (Nat × Xlat) :=
  if va.toNat / 2 ^ 56 ≠ 0 then .error 0x55
  else if va.toNat % align ≠ 0 then .error alignCode
  else match s.xlatOr run n d va.toNat with
    | .error c => .error c
    | .ok x =>
      let l := x.leaf va.toNat
      if paInvalid l.pa then .error 0x57
      else if need.w && !l.w && l.sh then .error 0x52
      else if (need.r && !l.r) || (need.w && !l.w) || (need.a && !l.a) then .error 0x51
      else if need.ext0 && paExt l.pa then .error 0x56
      else .ok (l.pa, x)

/-- The age of a translation that may be missing. -/
def bornOf (x : Option Xlat) : Nat := (x.map (·.born)).getD 0

/-- The physical address of an access, or its cause (R331). -/
def State.translate (s : State) (n : Option CoreId) (d : DomNum) (va : Word) (align : Nat) (alignCode : BitVec 8) (need : Need) :
    Except (BitVec 8) Nat :=
  (s.access n d va align alignCode need none).map (·.1)

/-- Whether a cause is a translation fault, which suspends a stream (R331). -/
def isTranslationFault (c : BitVec 8) : Bool := c == 0x50 || c == 0x52 || c == 0x53

/-! ### Bytes under a key -/

/-- A byte of device or host memory as a key gives it (R257, R258): a byte of a linked device is a free value (R280); host
memory is not encrypted by the device (R249). -/
def State.devByte (s : State) (key pa : Nat) : Byte :=
  let o := Owners.get s.memOwner pa
  if paAperture pa then Config.freeByte s.draws pa
  else if paExt pa || o == key then Memory.get s.mem pa else s.foreignByte key o pa pa

/-- `n` bytes of device memory as a key gives them. -/
def State.devRead (s : State) (key pa : Nat) : Nat → List Byte
  | 0 => []
  | n + 1 => s.devByte key pa :: s.devRead key (pa + 1) n

/-- Bytes written to device memory under a key; a write of a whole 64-byte block clears its poison (R257, R349). -/
def State.devWrite (s : State) (key pa : Nat) (bs : List Byte) : State :=
  { s with
    mem := Memory.setBytes s.mem pa bs
    memOwner := if paExt pa then s.memOwner else Owners.setN s.memOwner pa bs.length key
    poison := s.poison.filter fun b => !decide (pa ≤ 64 * b ∧ 64 * (b + 1) ≤ pa + bs.length) }

/-! ### Writes in flight -/

/-- The number of a scope: `none` to `sys`. -/
def Scope.num : Scope → Nat
  | .none => 0
  | .cl => 1
  | .die => 2
  | .dev => 3
  | .sys => 4

/-- The smallest scope that holds the observers of two cores (R6, R7, R261). -/
def commonScope (a b : CoreId) : Scope :=
  if a.val / 4 = b.val / 4 then .cl else if a.val / 80 = b.val / 80 then .die else .dev

/-- An observer of device memory inside the package: a context or an engine of a core, or the Yarrow of a stack (R261). -/
inductive Observer where
  | core (n : CoreId)
  | yarrow (stack : Nat)
  deriving DecidableEq, Repr

/-- The common scope of an observer and the observers of a core; stacks 2d and 2d + 1 belong to die d (R6, R261). -/
def Observer.common : Observer → CoreId → Scope
  | .core a, b => commonScope a b
  | .yarrow k, b => if k / 2 = b.val / 80 then .die else .dev

/-- The stack in which a physical address of HBM lies (R250). -/
def stackOf (pa : Nat) : Nat := pa / 2 ^ 48 % 8

/-- Whether two byte ranges overlap. -/
def overlaps (a n b m : Nat) : Bool := decide (a < b + m ∧ b < a + n)

/-- Whether two byte ranges in pieces meet. -/
def piecesMeet (a b : List (Nat × Nat)) : Bool := a.any fun p => b.any fun q => overlaps p.1 p.2 q.1 q.2

/-- How many bytes a write in flight touches from its address on; a unit's pieces are its own. -/
def PostKind.size : PostKind → Nat
  | .cell => 16
  | .unit .. => 0
  | _ => 8

/-- Whether a write in flight is a `gst`. -/
def PostKind.isStore : PostKind → Bool
  | .store => true
  | _ => false

/-- The bytes at an address with one store laid over them. -/
def overlay (bs : List Byte) (pa : Nat) (p : Nat) (v : Word) : List Byte :=
  (List.range bs.length).map fun i =>
    if p ≤ pa + i ∧ pa + i < p + 8 then BitVec.ofNat 8 (v.toNat / 256 ^ (pa + i - p)) else bs.getD i 0

/-- Whether a write in flight is a `gst` of a context's present kernel. -/
def State.ownStore (s : State) (own : Option CtxId) (p : Posted) : Bool := own == some p.src && p.kid == (s.ctx p.src).kid

/-- Writes laid over bytes, in order. -/
def overlayAll (bs : List Byte) (pa : Nat) (ps : List Posted) : List Byte :=
  ps.foldl (fun bs p => overlay bs pa p.pa p.data) bs

/-- `n` bytes as an observer reads them (R147, R262, R263): memory; over it, in their coherence order, every `gst` in flight
that has performed at the scope common to its core and the observer's, or is the reading context's own; and over these the
reading context's own that have performed nowhere. The list of writes in flight holds those that have performed somewhere in
coherence order (log entry 46). `own` is the reading context; an engine is no context. -/
def State.observe (s : State) (o : Observer) (own : Option CtxId) (key pa n : Nat) : List Byte :=
  let here := s.posted.filter fun p => p.kind.isStore && overlaps pa n p.pa 8 && (p.key == key || paExt pa)
  let seen := here.filter fun p => p.scope != .none &&
    (s.ownStore own p || decide ((o.common p.src.core).num ≤ p.scope.num))
  overlayAll (overlayAll (s.devRead key pa n) pa seen) pa (here.filter fun p => p.scope == .none && s.ownStore own p)

/-- The bytes that a `gld` of a context returns: its held stores lie over everything else, in issue order, those that a `commit` beside
it has discarded among them (R27, R71, R147). -/
def State.observeHeld (s : State) (c : CtxId) (pa n : Nat) : List Byte :=
  let held := (s.ctx c).hold.map (fun h => (h.pa, h.data)) ++ ((s.ctx c).read.map (·.lost)).getD []
  held.foldl (fun bs h => overlay bs pa h.1 h.2) (s.observe (.core c.core) (some c) (s.keyOf (s.ctx c)) pa n)

/-- A `gst` in flight posted, or every other kind (R146, R148, R149). -/
def State.postWrite (s : State) (p : Posted) : State := { s with posted := s.posted ++ [p] }

/-- Whether every `gst`, atomic and `acadd` in flight of a context has performed at a scope (R150). -/
def State.writesDone (s : State) (c : CtxId) (sc : Scope) : Bool :=
  !s.posted.any fun p => p.src == c && p.kid == (s.ctx c).kid && decide (p.scope.num < min sc.num 3)

end Sys2Proof.Machine
end

