-- ==== Sys2Proof/Machine/Checkpoint.lean ====
section
/-! DEFINITION. What a context's commands hold up, and checkpoints: boundaries, held writes, shadow copies, rollback and reruns
(R39, R41, R342 to R350). -/

namespace Sys2Proof.Machine

/-! ### The commands of a context that have not performed -/

/-- Whether a stream command waits for the boundary that releases it, or is a drain released at an earlier boundary
whose next sample was claimed after the last boundary (R343, R345). -/
def StreamCmd.later (x : Ctx) (q : StreamCmd) : Bool :=
  q.held || (q.isDrain && q.effective && decide (q.id < x.epoch) &&
    match x.sig q.sig with
    | some g => decide (0 ≤ q.drainSample q.j) && (!g.holds (q.drainSample q.j).toNat || (g.slot (q.drainSample q.j).toNat).fresh)
    | none => false)

/-- Whether a command is suspended and not about to retry (R315). -/
def StreamCmd.resting (q : StreamCmd) : Bool := q.susp.isSome && !q.retry

/-- Whether an entry of the grid queue is a change of domain (R169). -/
def GridCmd.isClear (q : GridCmd) : Bool :=
  match q.op with
  | .clear _ => true
  | _ => false

/-- Whether an entry of the grid queue is a mark: a change of domain, or a `grel`, which has performed (R152, R169). -/
def GridCmd.isMark (q : GridCmd) : Bool :=
  match q.op with
  | .clear _ | .rel => true
  | _ => false

/-- Whether a context has a grid command that has not performed (R152). -/
def Core.gridBusy (k : Core) (c : Fin 4) : Bool :=
  k.grid.queue.any (fun g => g.ctx == c && !g.isMark) || k.grid.loading.any (fun g => g.1.ctx == c) || k.grid.run.any (fun r => r.ctx == c)

/-- Whether a context has a routine load or call that has not performed (R152). -/
def Core.mxBusy (k : Core) (c : Fin 4) : Bool :=
  k.mx.queue.any (fun m => m.ctx == c) || k.mx.loading.any (fun m => m.1.ctx == c)
    || k.mx.run.any (fun r => r.item.ctx == c) || k.mx.resumed.any (fun r => r.item.ctx == c)
    || k.mx.away.any (fun r => r.item.ctx == c)

/-- Whether a context has an engine command that a checkpoint waits for (R343). `halt` waits for no suspended command
(R39). -/
def Core.engineBusy (k : Core) (c : Fin 4) (halt : Bool) : Bool :=
  let x := k.ctxs[c.val]'c.isLt
  k.gridBusy c || k.mxBusy c || (k.streamsOf c).any (fun q => !q.later x && !(halt && q.resting))
    || k.remote.any (fun r => r.ctx == c && !r.held)

/-- Whether a context has any command of its E slots, or an `rst`, that has neither performed nor faulted nor been
suspended (R39, R307). -/
def Core.cmdsBusy (k : Core) (c : Fin 4) : Bool :=
  let x := k.ctxs[c.val]'c.isLt
  x.tick.isSome || !x.posting.isEmpty || k.gridBusy c || k.mxBusy c
    || (k.streamsOf c).any (fun q => !q.resting) || k.remote.any (fun r => r.ctx == c)

/-- The configuration images of a kernel's object, one after another (R180); that those of several GRIDIMG sections, own and shared,
follow one another in table order and are counted through is a DESIGN CHOICE (log entry 50). -/
def State.gridBytes (s : State) (x : Ctx) : List Byte :=
  match s.kernel? x.kid with
  | none => []
  | some k =>
    match s.object? k.obj with
    | none => []
    | some o => (o.grids.filter fun g => g.kern == 0xFFFF || g.kern.toNat == k.kidx.toNat).flatMap (·.bytes)

/-- The bytes from image `i` on: each image starts ISIZE bytes after the one before it (R180). -/
def imageFrom : Nat → List Byte → List Byte
  | 0, b => b
  | i + 1, b => imageFrom i (b.drop (leNat (b.take 4)))

/-- The ticking bit of a configuration image of a context's kernel, by its index (R180). -/
def State.imageTicks (s : State) (x : Ctx) (i : Nat) : Bool :=
  ((imageFrom i (s.gridBytes x)).getD 5 0).getLsbD 0

/-- Whether a ticking `grun` of a context with an issue number below `lim` runs or waits to run (R57, R64): the grid's
queue is followed with the configuration that each `gcfg` in it loads. -/
def State.gridTicks (s : State) (c : CtxId) (lim : Nat) : Bool :=
  let g := (s.core c.core).grid
  let mine (id : Nat) (cx : Fin 4) : Bool := cx == c.ctx && decide (id < lim)
  let ticks (cx : Fin 4) (i : Nat) : Bool := s.imageTicks (s.ctx { core := c.core, ctx := cx }) i
  let now := match g.loading with
    | some (⟨_, cx, _, .cfg i _ _⟩, _) => ticks cx i
    | _ => g.ticking
  let rec scan (t : Bool) : List GridCmd → Bool
    | [] => false
    | ⟨_, cx, _, .cfg i _ _⟩ :: r => scan (ticks cx i) r
    | ⟨id, cx, _, .run n⟩ :: r => (t && n != 0 && mine id cx) || scan t r
    | _ :: r => scan t r
  g.run.any (fun r => g.ticking && mine r.id r.ctx && !r.atEnd) || scan now g.queue

/-- Whether a tick of a context is in progress, or a ticking `grun` of it (R57, R153). -/
def State.tickBusy (s : State) (c : CtxId) : Bool := (s.ctx c).tick.isSome || s.gridTicks c s.cmdSeq

/-! ### Deferred faults -/

/-- A deferred fault held against a context (R298, R306). -/
def State.hold (s : State) (c : CtxId) (f : PendFault) : State :=
  let x := s.ctx c
  s.setCtx c { x with faults := x.faults ++ [f] }

/-! ### Drains take effect -/

/-- Whether the first sample of a drain has expired as it takes effect (R64): a sample numbered below 0 has not. -/
def StreamCmd.expiredAt (q : StreamCmd) (g : Signal) : Bool :=
  decide (0 < q.samples) && decide (0 ≤ (g.adv : Int) + q.off ∧ (g.adv : Int) + q.off + g.plan.depth ≤ g.adv)

/-- A drain takes effect: it reads ADV and pins its samples from now on; a first sample that has expired is fault 0x2E,
deferred, and the command performs (R64, R162, R303). -/
def State.drainEffect (s : State) (n : CoreId) (e : Fin 6) (inQueue : Option Nat) : State :=
  let k := s.core n
  let eng := k.engines[e.val]'e.isLt
  let q? := match inQueue with
    | none => eng.current
    | some i => eng.queue[i]?
  match q? with
  | none => s
  | some q =>
    let x := k.ctxs[q.ctx.val]'q.ctx.isLt
    match x.sig q.sig with
    | none => s
    | some g =>
      let q' := { q with adv := g.adv, effective := true, held := false }
      let put (r : List StreamCmd) : Engine := match inQueue with
        | none => { eng with current := r.head? }
        | some i => { eng with queue := eng.queue.take i ++ r ++ eng.queue.drop (i + 1) }
      if q'.expiredAt g then
        let c : CtxId := { core := n, ctx := q.ctx }
        let s' := s.setCore n { k with engines := k.engines.set e.val (put []) e.isLt }
        (s'.performed c q.kp q.id).hold c
          { id := q.id, kp := q.kp, cause := 0x2E, source := 6, unit := BitVec.ofNat 3 e.val,
            detail := sigDetail g.adv (q.pos.signExtend 8) q.sig, sig := some q.sig, writes := true }
      else s.setCore n { k with engines := k.engines.set e.val (put [q']) e.isLt }

/-- Every waiting drain of an engine whose wait for a boundary or a ticking `grun` is over takes effect (R64, R345). -/
def State.drainEffects (s : State) (n : CoreId) (e : Fin 6) : State :=
  let ready (s : State) (q : StreamCmd) : Bool :=
    q.isDrain && !q.effective && !q.held && !s.gridTicks { core := n, ctx := q.ctx } q.id
  let eng (s : State) := (s.core n).engines[e.val]'e.isLt
  let s1 := if (eng s).current.any (ready s) then s.drainEffect n e none else s
  (List.range (eng s1).queue.length).reverse.foldl
    (fun s i => if ((eng s).queue[i]?).any (ready s) then s.drainEffect n e (some i) else s) s1

/-! ### Held writes -/

/-- A held store becomes a `gst` in flight, as if issued now (R71, R345). -/
def State.releaseStore (s : State) (c : CtxId) (h : HeldStore) : State :=
  let x := s.ctx c
  s.postWrite { id := h.id, cmd := h.id, eng := none, src := c, kid := x.kid, dom := x.dom, key := s.keyOf x,
                kind := .store, va := h.va, pa := h.pa, data := h.data, scope := .none, read := false, born := h.born }

/-- The held stores of a `commit` (R70, R71): those claimed below `lo` perform as if issued now, or join the held writes
of a checkpointed interval (R350); the others are discarded, though an access of the same bundle still reads them (R27). -/
def State.commitStores (s : State) (c : CtxId) (base k : BitVec 48) : State :=
  let x0 := s.ctx c
  let keeps (h : HeldStore) : Bool := h.spec && decide ((h.now - base).toNat < k.toNat)
  let lost := (x0.hold.filter fun h => h.spec && !keeps h).map fun h => (h.pa, h.data)
  let x : Ctx := { x0 with read := x0.read.map fun (r : PendRead) => { r with lost := lost } }
  if x.ckpting then
    s.setCtx c { x with hold := (x.hold.filter fun h => !h.spec || keeps h).map fun h => { h with spec := false } }
  else
    (x.hold.filter keeps).foldl (fun s h => s.releaseStore c h)
      (s.setCtx c { x with hold := x.hold.filter fun h => !h.spec })

/-- A held write of either kind, with its issue number. -/
inductive HeldItem where
  | store (h : HeldStore)
  | post (h : HeldPost)
  | remote (r : Remote)
  | stream (q : StreamCmd)
  deriving DecidableEq, Repr

/-- Its issue number. -/
def HeldItem.id : HeldItem → Nat
  | .store h => h.id
  | .post h => h.post.id
  | .remote r => r.id
  | .stream q => q.id

/-- An item inserted in issue order. -/
def HeldItem.insert (i : HeldItem) : List HeldItem → List HeldItem
  | [] => [i]
  | j :: r => if i.id ≤ j.id then i :: j :: r else j :: i.insert r

/-- The held writes of a context's interval in issue order (R345). -/
def State.heldItems (s : State) (c : CtxId) : List HeldItem :=
  let x := s.ctx c
  let k := s.core c.core
  let all := (x.hold.filter (fun h => !h.spec)).map HeldItem.store ++ x.heldPosts.map HeldItem.post
    ++ (k.remote.filter (fun r => r.ctx == c.ctx && r.held)).map HeldItem.remote
    ++ ((k.streamsOf c.ctx).filter (·.held)).map HeldItem.stream
  all.foldr HeldItem.insert []

/-- The held writes released at a boundary, in issue order: stores and posted commands go into flight, queued and
engine commands may proceed, and drains take effect (R345). -/
def State.release (s : State) (c : CtxId) : State :=
  let s1 := (s.heldItems c).foldl (fun s i => match i with
    | .store h => s.releaseStore c h
    | .post h => s.postWrite h.post
    | _ => s) s
  let k := s1.core c.core
  let x := s1.ctx c
  let free (q : StreamCmd) : StreamCmd := if q.ctx = c.ctx then { q with held := false } else q
  let s2 := s1.setCore c.core { k with
    remote := k.remote.map (fun r => if r.ctx = c.ctx then { r with held := false } else r)
    engines := k.engines.map fun e => e.onCmds free }
  let s3 := s2.setCtx c { x with hold := x.hold.filter (·.spec), heldPosts := [] }
  (List.finRange 6).foldl (fun s e => s.drainEffects c.core e) s3

/-- One byte more of a CRC-64 of ECMA-182 (R346). -/
def crcByte (crc : BitVec 64) (b : Byte) : BitVec 64 :=
  let step (c : BitVec 64) : BitVec 64 := if c.msb then (c <<< 1) ^^^ 0x42F0E1EBA9EA3693#64 else c <<< 1
  (List.range 8).foldl (fun c _ => step c) (crc ^^^ (b.setWidth 64 <<< 56))

/-- The bytes of a held write that SIG covers (R346): a store's address and data; a posted command's slot word,
extension word and operand registers. -/
def HeldItem.bytes : HeldItem → List Byte
  | .store h => leBytes 8 h.va.toNat ++ leBytes 8 h.data.toNat
  | .post h =>
    leBytes 4 h.word.toNat ++ leBytes 8 h.a.toNat ++ leBytes 8 h.b.toNat ++
      (match h.post.kind with
       | .acas f => leBytes 8 f.toNat
       | _ => [])
  | .remote r => leBytes 4 r.word.toNat ++ leBytes 8 r.value.toNat
  | .stream q =>
    leBytes 4 q.word.toNat ++ leBytes 4 q.ext.toNat ++ leBytes 8 q.a.toNat ++
      (if q.kind = .sstore then [] else leBytes 8 q.b.toNat)

/-- SIG of a context's interval (R346). -/
def State.signature (s : State) (c : CtxId) : BitVec 64 :=
  ((s.heldItems c).flatMap HeldItem.bytes).foldl crcByte 0

/-! ### Shadow copies -/

/-- The accumulator rows that a live-row mask names: bit i selects rows 16 i to 16 i + 15 (R343). -/
def maskedRows (mask : Word) : List Nat := (List.range 1024).filter fun r => mask.getLsbD (r / 16)

/-- The shadow copy of a context as it stands (R343). -/
def State.shadowOf (s : State) (c : CtxId) (mask : Word) : Shadow :=
  let x := s.ctx c
  { blk := x.toBlock, owner := (s.core c.core).grid.owner == some c.ctx, coord := x.coord, kOwner := x.kOwner,
    arrived := x.arrived, faults := x.faults, sigs := x.sigs, mask := mask,
    seqs := ((List.range 32).zip (s.core c.core).seqs.toList).filterMap fun (i, e) =>
      if e.owner = some c.ctx then some (i, e.ptr) else none,
    rows := (maskedRows mask).map fun r => (r, (s.core c.core).acc.toList.getD r {}) }

/-- The current shadow copy of a context. -/
def Ctx.shadow (x : Ctx) : Option Shadow := if x.cur then x.shadow1 else x.shadow0

/-- A shadow copy written into the copy that is not current, which becomes current; an interval begins (R342, R343,
R345). -/
def State.saveShadow (s : State) (c : CtxId) (mask : Word) (blk : Block) : State :=
  let x := s.ctx c
  let calm (g : Signal) : Signal := { g with slots := g.slots.map fun v => { v with fresh := false } }
  let x := { x with sigs := x.sigs.map fun g => g.map calm }
  let sh := { (s.setCtx c x).shadowOf c mask with blk := blk }
  s.setCtx c { x with
    shadow0 := if x.cur then some sh else x.shadow0
    shadow1 := if x.cur then x.shadow1 else some sh
    cur := !x.cur, ckpting := true, ckmask := mask, gbusy := 0, epoch := s.cmdSeq, launched := false }

/-- A core's accumulator rows written back. -/
def Core.putRows (k : Core) (rows : List (Nat × AccRow)) : Core :=
  { k with acc := rows.foldl (fun a (r, v) => a.setIfInBounds r v) k.acc }

/-- The operations in flight in the grid's units discarded. -/
def Grid.dropOps (g : Grid) : Grid := { g with tiles := g.tiles.map fun t => { t with ops := [], att := [], attDone := 0 } }

/-- The grid without a context's commands; a run of it stops with the operations that it has in flight. A change of domain stays
(R169). -/
def Grid.dropCtx (g : Grid) (c : Fin 4) : Grid :=
  let g' := { g with
    queue := g.queue.filter (fun q => q.ctx != c || q.isClear), loading := g.loading.filter (fun q => q.1.ctx != c),
    run := g.run.filter (fun r => r.ctx != c) }
  if g.run.any (fun r => r.ctx == c) then g'.dropOps else g'

/-- A readout port without what a context's `grun`s from a number on have asked for and not read. -/
def AccPort.dropRuns (p : AccPort) (c : Fin 4) (lo : Nat) : AccPort :=
  let mine (o : Fin 4 × Nat) : Bool := o.1 == c && decide (lo ≤ o.2)
  { p with reqs := p.reqs.filter fun r => !mine (r.ctx, r.run)
           coming := p.coming.filter fun r => !mine r.src
           rows := p.rows.filter fun r => !mine r.src }

/-- The grid and the A-feed queue without what a context's `grun`s from a number on have put into the readout ports and the queue
(R346). -/
def Core.dropRuns (k : Core) (c : Fin 4) (lo : Nat) : Core :=
  { k with
    grid := { k.grid with ports := k.grid.ports.map fun p => p.dropRuns c lo }
    mx := { k.mx with afeed := k.mx.afeed.filter fun r => !(r.src.1 == c && decide (lo ≤ r.src.2)) } }

/-- The matrix array without a context's loads and calls, and without what its running call has in flight. -/
def Matrix.dropCtx (m : Matrix) (c : Fin 4) : Matrix :=
  { m with
    queue := m.queue.filter (fun i => i.ctx != c)
    loading := m.loading.filter (fun i => i.1.ctx != c)
    run := m.run.filter (fun r => r.item.ctx != c)
    resumed := m.resumed.filter (fun r => r.item.ctx != c)
    away := m.away.filter (fun r => r.item.ctx != c)
    effects := m.effects.filter (fun e => !(m.run.any (fun r => r.item.ctx == c && r.item.id == e.call))) }

/-- The commands of a context's interval discarded: held writes, results, and the engine commands issued in it, with the rows that its
`grun`s have fed to the array and read out; a drain released at an earlier boundary survives (R345, R346). -/
def Core.dropInterval (k : Core) (c : Fin 4) : Core :=
  let x := k.ctxs[c.val]'c.isLt
  { k.dropRuns c x.epoch with
    engines := k.engines.map fun e => e.keep fun q => q.ctx != c || (decide (q.id < x.epoch) && !q.held)
    remote := k.remote.filter fun r => r.ctx != c || (decide (r.id < x.epoch) && !r.held)
    grid := (k.dropRuns c x.epoch).grid.dropCtx c
    mx := (k.dropRuns c x.epoch).mx.dropCtx c }

/-- Grid ownership as a shadow copy holds it (R325, R346). -/
def Grid.ownAs (g : Grid) (c : Fin 4) (own : Bool) : Grid :=
  { g with owner := if own then some c else if g.owner = some c then none else g.owner }

/-- A context restored from its current shadow copy (R346): context block, grid ownership, pending faults, signals, masked rows; what
the interval issued is discarded. A slot that drained at the checkpoint follows the drains that have gone on since (R61, R345). -/
def State.restoreShadow (s : State) (c : CtxId) : State :=
  let k := (s.core c.core).dropInterval c.ctx
  let x := s.ctx c
  match x.shadow with
  | none => s
  | some sh =>
    let k1 := (k.putRows sh.rows).dropSeqs c.ctx
    let k2 := { k1 with
      seqs := sh.seqs.foldl (fun a (i, p) => a.setIfInBounds i { ptr := p, owner := some c.ctx }) k1.seqs
      grid := k1.grid.ownAs c.ctx sh.owner }
    let since := x.faults.filter fun f => decide (f.id < x.epoch) && !sh.faults.contains f
    ((s.setCore c.core k2).setCtx c { x with
      toBlock := sh.blk, coord := sh.coord, kOwner := sh.kOwner, arrived := sh.arrived, sigs := sh.sigs, hold := [],
      heldPosts := [], faults := sh.faults ++ since, tick := none, trigs := [], read := none, readFault := none, stall := false,
      posting := x.posting.filter fun r => decide (r.id < x.epoch), halting := false, wait := none, syncSeen := none, syncAt := none, gacqAt := none, gbusy := 0,
      xfer := .none, jump := none, admitted := false, trapWait := none, closing := false }).onCore c.core fun k => k.settle c.ctx

/-- The record of a data-error notice or stop of a context (R341, R348): SOURCE and UNIT are 0 and EPC is the restored
PC. -/
def State.notice (s : State) (c : CtxId) (cause : BitVec 8) (detail : Word) : State :=
  let x := s.ctx c
  s.post x.dom (recordWord cause x.dom (BitVec.ofNat 2 c.ctx.val) (BitVec.ofNat 9 c.core.val) 0 0 false x.pc) detail

/-- The detail of a data error with its count of rerun pairs (R348). -/
def pairDetail (detail : Word) (pair : Nat) : Word := insertBits detail 56 (BitVec.ofNat 4 pair)

/-- A boundary of a checkpointing context: the held writes are released and the shadow copy becomes current (R342, R343,
R345). `blk` is the context block that the copy holds. -/
def State.boundary (s : State) (c : CtxId) (mask : Word) (blk : State → Block) : State :=
  let s1 := s.release c
  s1.saveShadow c mask (blk s1)

/-! ### Reruns (R346) -/

/-- A context in a rerun has reached its boundary: GBUSY and SIG of its run are recorded, and it waits there. -/
def State.reach (s : State) (c : CtxId) (sig : BitVec 64) : State :=
  let x := s.ctx c
  s.onCore c.core fun k => { k with rerun := k.rerun.map fun r =>
    { r with members := r.members.map fun m =>
        if m.ctx ≠ c.ctx ∨ m.there then m
        else if r.run = 1 then { m with there := true, gbusy1 := x.gbusy, sig1 := sig }
        else { m with there := true, gbusy2 := x.gbusy, sig2 := sig } } }

/-- Whether a context of a rerun goes on in it: one that has stopped or ended no longer does (log entry 40). -/
def Ctx.inRerun (x : Ctx) : Bool := x.live && !x.ended && !x.stopped && x.rerunning

/-- The contexts of a rerun that go on in it. -/
def Core.rerunners (k : Core) (r : Rerun) : List RerunMember :=
  r.members.filter fun m => (k.ctxs[m.ctx.val]'m.ctx.isLt).inRerun

/-- Whether the implicit checkpoint of the bundle at the context's PC is still to be taken (R342). -/
def Ctx.needsBoundary (x : Ctx) (specToo : Bool) : Bool := x.ckpting && !x.bdone && (specToo || x.specd == 0)

/-- Whether the waits of a checkpoint are over (R343). -/
def State.boundaryReady (s : State) (c : CtxId) (halt : Bool) : Bool :=
  !(s.core c.core).engineBusy c.ctx halt && (s.ctx c).tick.isNone

/-- The implicit checkpoint of the bundle at the context's PC, with the live-row mask of its latest `ckpt` (R342): the copy
holds the context as it stands before the bundle, with the note that this checkpoint has been taken. In a rerun the context
waits at it for the others (R346). -/
def State.implicitBoundary (s : State) (c : CtxId) : State :=
  if (s.ctx c).rerunning then s.reach c (s.signature c)
  else
    let s1 := s.boundary c (s.ctx c).ckmask fun _ => { (s.ctx c).toBlock with bdone := true }
    s1.onCtx c fun x => { x with bdone := true }

end Sys2Proof.Machine
end

