-- ==== Sys2Proof/Machine/Units.lean ====
section
/-! DEFINITION. The units of a stream or Yarrow command: their addresses and checks, the bytes they read, the samples they
make, and the entries of an index list (R72, R83, R234 to R247, R313, R331). -/

namespace Sys2Proof.Machine

/-- The fault of a unit: its cause, and FADDR (R303, R313, R330). -/
abbrev UnitFault := BitVec 8 × Word

/-- A resume point as FADDR holds it (R313). -/
def resumeDetail (j e : Nat) : Word := BitVec.ofNat 32 j ++ BitVec.ofNat 32 e

/-! ### Samples and units -/

/-- A row from 256 bytes, the first at bits 7:0 (R74). -/
def rowOfBytes (b : List Byte) : Row := BitVec.ofNat 2048 (leNat b)

/-- Rows from bytes. -/
def rowsOfBytes : Nat → List Byte → List Row
  | 0, _ => []
  | n + 1, b => rowOfBytes (b.take 256) :: rowsOfBytes n (b.drop 256)

/-- The bytes of rows. -/
def bytesOfRows (rows : List Row) : List Byte := rows.flatMap fun r => leBytes 256 r.toNat

/-- The element width and the slice ganging of a .col code (R83). -/
def colShape (fmt : Nat) : Nat × Nat :=
  match fmt with
  | 0x10 => (8, 1)
  | 0x11 => (6, 2)
  | _ => (4, 4)

/-- Whether a unit is a .col run. -/
def isCol (fmt : Nat) : Bool := decide (0x10 ≤ fmt ∧ fmt ≤ 0x12)

/-- The elements of a .col run in ascending K (R83). -/
def runElements (fmt : Nat) (run : List Byte) : List Nat :=
  let (w, g) := colShape fmt
  let v := leNat run
  (List.range (64 * g)).map fun k => v / 2 ^ (g * w * (k % 64) + w * (k / 64)) % 2 ^ w

/-- A .col run from its elements (R83). -/
def runOfElements (fmt : Nat) (el : List Nat) : List Byte :=
  let (w, g) := colShape fmt
  let v := ((List.range (64 * g)).zip el).foldl
    (fun v (k, x) => v + x % 2 ^ w * 2 ^ (g * w * (k % 64) + w * (k / 64))) 0
  leBytes (8 * w * g) v

/-- The blocks of a row in an MX format of element width `w` (R82). -/
def rowBlocks (w : Nat) : Nat := 256 / (4 * w + 1)

/-- A row of an MX sample from its elements, every scale byte the same (R82). -/
def mxRow (w : Nat) (el : List Nat) (scale : Byte) : Row :=
  let b := rowBlocks w
  let v := el.foldr (fun x v => x % 2 ^ w + 2 ^ w * v) 0
  BitVec.ofNat 2048 (v + (leNat (List.replicate b scale)) * 2 ^ (32 * w * b))

/-- The elements of a row of an MX sample (R82). -/
def mxRowElements (w : Nat) (r : Row) : List Nat :=
  (List.range (32 * rowBlocks w)).map fun e => (r.extractLsb' (w * e) w).toNat

/-- Rows of an MX sample from elements taken in order. -/
def mxRows (w : Nat) (scale : Byte) : Nat → List Nat → List Row
  | 0, _ => []
  | n + 1, el => mxRow w (el.take (32 * rowBlocks w)) scale :: mxRows w scale n (el.drop (32 * rowBlocks w))

/-- The sample that a fill makes of its window's units: from position 0 upward, the rest as the FILL unit (R238). -/
def Rec.sample (r : Rec) (rows : Nat) (units : List (List Byte)) : List Row :=
  if isCol r.fmt then
    let w := (colShape r.fmt).1
    let total := rows * 32 * rowBlocks w
    let el := units.flatMap (runElements r.fmt)
    mxRows w (r.fill.extractLsb' 0 8) rows
      (el.take total ++ List.replicate (total - el.length) (r.fill.toNat % 2 ^ w))
  else
    let b := units.flatten
    let n := (rows * 256 - b.length) / unitSize r.fmt
    rowsOfBytes rows (b ++ (List.replicate n r.fillUnit).flatten)

/-- Unit `e` of a sample, as a drain writes it (R238). -/
def Rec.unitOfSample (r : Rec) (rows : List Row) (e : Nat) : List Byte :=
  if isCol r.fmt then
    let (w, g) := colShape r.fmt
    runOfElements r.fmt (((rows.flatMap (mxRowElements w)).drop (64 * g * e)).take (64 * g))
  else
    let z := unitSize r.fmt
    let row := rows.getD (z * e / 256) 0
    leBytes z (row.extractLsb' (8 * (z * e % 256)) (8 * z)).toNat

/-! ### Addresses and checks -/

/-- The pieces in which a unit is translated: a .col run in 32-byte pieces, every other unit whole (R255). -/
def unitPieces (fmt : Nat) : List (Nat × Nat) :=
  if isCol fmt then (List.range (unitSize fmt / 32)).map fun i => (32 * i, 32) else [(0, unitSize fmt)]

/-- A piece put behind others, joined to the last where it follows it in one store (R349). -/
def joinPiece (l : List (Nat × Nat)) (p : Nat × Nat) : List (Nat × Nat) :=
  match l.getLast? with
  | some b => if b.1 + b.2 = p.1 ∧ p.1 % 2 ^ 40 ≠ 0 then l.dropLast ++ [(b.1, b.2 + p.2)] else l ++ [p]
  | none => [p]

/-- The physical pieces of a unit at an address, checked in the order of R331, and the translation last used, which the
units after it use where it applies (R255); or its fault: 0x42 reports the resume point, the others the address (R313, R330);
a port that is down is fault 0xA2 (R338). -/
def State.unitAt (s : State) (n : CoreId) (d : DomNum) (fmt : Nat) (va : Word) (need : Need) (j e : Nat) (run : Option Xlat) :
    Except UnitFault (List (Nat × Nat) × Option Xlat) :=
  let go (acc : Except UnitFault (List (Nat × Nat) × Option Xlat)) (p : Nat × Nat) :
      Except UnitFault (List (Nat × Nat) × Option Xlat) :=
    match acc with
    | .error f => .error f
    | .ok (l, run) =>
      match s.access (some n) d (va + BitVec.ofNat 64 p.1) (if p.1 = 0 then unitAlign fmt else 1) 0x42 need run with
      | .ok (pa, x) => if s.linkDown pa then .error (0xA2, linkDetail pa) else .ok (joinPiece l (pa, p.2), some x)
      | .error c => .error (c, if c = 0x42 then resumeDetail j e else va)
  (unitPieces fmt).foldl go (.ok ([], run))

/-- The bytes of a unit's pieces, each as the observer of its address reads it: a poisoned block is fault 0x84 (R266, R349). -/
def State.readPieces (s : State) (obs : Nat → Observer) (key : Nat) (va : Word) (ps : List (Nat × Nat)) :
    Except UnitFault (List Byte) :=
  if ps.any (fun p => s.poisoned p.1 p.2) then .error (0x84, va)
  else .ok (ps.flatMap fun p => s.observe (obs p.1) none key p.1 p.2)

/-- The Yarrow that reads an address: that of the stack in which it lies (R13, R246, R259, R261). -/
def yarrowAt (pa : Nat) : Observer := .yarrow (stackOf pa)

/-- Bytes written to a unit's pieces. -/
def State.writePieces (s : State) (key : Nat) : List (Nat × Nat) → List Byte → State
  | [], _ => s
  | (pa, n) :: r, b => (s.devWrite key pa (b.take n)).writePieces key r (b.drop n)

/-- The ports that carry a unit's pieces carry an access (R338). -/
def State.linksUsed (s : State) (ps : List (Nat × Nat)) : State := ps.foldl (fun s p => s.linkUsed p.1) s

/-- Whether the sequence table filters a read at a position for a context: the entry's owner is another context of the
same kernel, and the position is at or beyond the pointer (R72, R73). -/
def State.seqFilters (s : State) (n : CoreId) (c : Fin 4) (seq : Nat) (pos : Int) : Bool :=
  let k := s.core n
  if seq = 0 then false
  else
    let e := k.seqs.toList.getD (seq - 1) {}
    match e.owner with
    | none => false
    | some o =>
      o != c && (k.ctxs[o.val]'o.isLt).kid == (k.ctxs[c.val]'c.isLt).kid && decide ((e.ptr.toNat : Int) ≤ pos)

/-- A coordinate of unit `e` of window `j`: fault 0x43 where it takes an index entry beyond the index sample (R239). -/
def Rec.unitCoord (r : Rec) (j e : Nat) (ix : List (Option Int)) : Except UnitFault (List Int) :=
  if r.ixen then
    match ix.getD ((r.winCoord e).getD r.ixdim 0) none with
    | none => .error (0x43, resumeDetail j e)
    | some v => .ok (r.coord j e fun _ => v)
  else .ok (r.coord j e fun _ => 0)

/-- A unit as an engine meets it: bytes that need no read, or the pieces from which it is read, with its address and its
position; and the translation in use after it. -/
structure UnitSrc where
  pos : Int := 0
  va : Word
  bytes : Option (List Byte)
  src : List (Nat × Nat)
  run : Option Xlat

/-- Unit `e` of window `j` of a record, read for a context: the FILL unit where the coordinate is outside under BOUND 0 or the
sequence table filters it, and otherwise its translated pieces (R72, R237, R255). A poisoned block is fault 0x84 (R349). -/
def State.unitSrc (s : State) (n : CoreId) (c : Fin 4) (r : Rec) (off : Nat) (ix : List (Option Int)) (j e : Nat)
    (run : Option Xlat) : Except UnitFault UnitSrc :=
  let x := (s.core n).ctxs[c.val]'c.isLt
  let fill : UnitSrc := { va := 0, bytes := some r.fillUnit, src := [], run := run }
  match r.unitCoord j e ix with
  | .error f => .error f
  | .ok co =>
    match r.resolve co with
    | none => .ok fill
    | some co =>
      if s.seqFilters n c r.seq (co.getD (r.rank - 1) 0) then .ok fill
      else
        let va := r.addr off co
        match s.unitAt n x.dom r.fmt va Need.read j e run with
        | .error f => .error f
        | .ok (ps, run) =>
          if ps.any fun p => s.poisoned p.1 p.2 then .error (0x84, va)
          else .ok { pos := co.getD (r.rank - 1) 0, va := va, bytes := none, src := ps, run := run }

/-- The physical pieces to which a drain or copy writes unit `e` of window `j`, none where the coordinate is outside (R237),
and the translation in use after it. -/
def State.unitDest (s : State) (n : CoreId) (d : DomNum) (r : Rec) (off : Nat) (ix : List (Option Int)) (j e : Nat)
    (run : Option Xlat) : Except UnitFault (Option (List (Nat × Nat)) × Option Xlat) :=
  match r.unitCoord j e ix with
  | .error f => .error f
  | .ok co =>
    if r.inside co then
      match s.unitAt n d r.fmt (r.addr off co) Need.write j e run with
      | .error f => .error f
      | .ok (ps, run) => .ok (some ps, run)
    else .ok (none, run)

/-- Whether some of the units of a window from unit `e` on faults (R313). `fuel` bounds their number. -/
def State.unitsFault (s : State) (n : CoreId) (c : Fin 4) (r : Rec) (off : Nat) (ix : List (Option Int)) (j : Nat) :
    Nat → Nat → Bool
  | 0, _ => false
  | fuel + 1, e =>
    match s.unitSrc n c r off ix j e none with
    | .error _ => true
    | .ok _ => s.unitsFault n c r off ix j fuel (e + 1)

/-! ### Index samples and index lists -/

/-- Element `i` of a sample, of `w` bytes, signed; `none` beyond the sample (R239). -/
def sampleEntry (rows : List Row) (w i : Nat) : Option Int :=
  if (i + 1) * w ≤ 256 * rows.length then
    let row := rows.getD (i * w / 256) 0
    some ((row.extractLsb' (8 * (i * w % 256)) (8 * w)).toInt)
  else none

/-- The entries that an indirect record reads from its index sample (R239). -/
def Rec.entries (r : Rec) (rows : List Row) : List (Option Int) :=
  (List.range (r.winAt r.ixdim)).map fun w => sampleEntry rows (2 ^ (r.ixwidth + 1)) (r.ixoff + w)

/-- How many entries the index list of a command has (R242). -/
def StreamCmd.count (q : StreamCmd) : Nat := (q.b.extractLsb' 0 32).toNat

/-- What an index of a command's list yields under its OOR code (R243). -/
def StreamCmd.rowOf (q : StreamCmd) (idx : Nat) : ListRow :=
  let rows := (recOf q.rec1).tableRows
  if idx < rows then .row idx
  else if q.oor = 2 then .zero
  else if q.oor = 1 ∧ rows ≠ 0 then .row (rows - 1)
  else .skip

/-- Entry `i` of the index list of a command, as the Yarrow of its stack reads it: what it yields, its weight, and the
translation in use after it (R242, R243, R246). A list outside HBM is fault 0x56 (R259; log entry 47); fault 0x44 reports the
resume point, which is (0, 0) for an `sreduce` (R313). -/
def State.listEntry (s : State) (n : CoreId) (q : StreamCmd) (i : Nat) : Except UnitFault ((ListRow × Lane) × Option Xlat) :=
  let x := (s.core n).ctxs[q.ctx.val]'q.ctx.isLt
  let z := if q.weighted then 8 else 4
  let va := q.a + BitVec.ofNat 64 (z * i)
  match s.access (some n) x.dom va z 0x44 { Need.read with ext0 := true } q.runIx with
  | .error c => .error (c, if c = 0x44 then resumeDetail (if q.kind = .sreduce then 0 else i) 0 else va)
  | .ok (pa, t) =>
    match s.readPieces yarrowAt (s.keyOf x) va [(pa, z)] with
    | .error f => .error f
    | .ok b => .ok ((q.rowOf (leNat b % 2 ^ 32), BitVec.ofNat 32 (leNat b / 2 ^ 32)), some t)

/-- The access of a Yarrow command to its rows: it must lie in HBM (R254, R259). -/
def yarrowNeed (k : StreamKind) : Need :=
  if k = .sscatter then Need.atomic else { r := true, ext0 := true }

/-- Unit `e` of the row item that an index yields (R242, R313). -/
def State.rowUnit (s : State) (n : CoreId) (q : StreamCmd) (row : ListRow) (j e : Nat) (run : Option Xlat) :
    Except UnitFault UnitSrc :=
  let x := (s.core n).ctxs[q.ctx.val]'q.ctx.isLt
  let r := recOf q.rec1
  match row with
  | .skip => .ok { va := 0, bytes := some [], src := [], run := run }
  | .zero => .ok { va := 0, bytes := some r.zeroUnit, src := [], run := run }
  | .row i =>
    if q.kind != .sscatter && s.seqFilters n q.ctx r.seq i then .ok { va := 0, bytes := some r.fillUnit, src := [], run := run }
    else
      let va := r.rowAddr i e
      let pool := q.kind == .sreduce
      match s.unitAt n x.dom r.fmt va (yarrowNeed q.kind) (if pool then 0 else j) (if pool then 0 else e) run with
      | .error f => .error f
      | .ok (ps, run) =>
        if ps.any fun p => s.poisoned p.1 p.2 then .error (0x84, va)
        else .ok { pos := i, va := va, bytes := none, src := ps, run := run }

/-- Whether a unit of the row item that an index yields faults. -/
def State.rowFaults (s : State) (n : CoreId) (q : StreamCmd) (row : ListRow) (j : Nat) : Bool :=
  (List.range (recOf q.rec1).itemUnits).any fun e => match s.rowUnit n q row j e none with
    | .error _ => true
    | .ok _ => false

/-! ### The samples of fills and drains, and whether a command will fault before them (R306) -/

/-- The next sample of a fill: ADV at its issue, plus its position, plus the samples it has made (R238, R244, R245). -/
def StreamCmd.fillSample (q : StreamCmd) : Nat :=
  q.adv + q.pos.toNat + (if q.kind = .sload then q.j else if q.kind = .sgather then q.made else 0)

/-- The last sample that a fill can make. -/
def StreamCmd.lastSample (q : StreamCmd) : Nat :=
  if q.kind = .sload then q.adv + q.pos.toNat + (recOf q.rec1).windows - 1
  else if q.kind = .sgather then q.fillSample + (q.count - q.j) - 1
  else q.fillSample

/-- Whether a fill makes sample `k` of signal `n` from its present point on. -/
def StreamCmd.makes (q : StreamCmd) (n : SigNum) (k : Nat) : Bool :=
  q.isFill && q.sig == n && decide (q.fillSample ≤ k ∧ k ≤ q.lastSample)

/-- The entries of an index sample once it is readable (R62, R239). -/
def Ctx.lookup (x : Ctx) (r : Rec) (k : Nat) : Option (List (Option Int)) :=
  match x.sig r.ixsig with
  | none => none
  | some g => if g.readable k then some (r.entries (g.slot k).data) else none

/-- The index entries by which a command's windows can be followed now: those read, or those readable; none while an index
sample is still to be made. -/
def State.entriesNow (s : State) (n : CoreId) (q : StreamCmd) : Option (List (Option Int)) :=
  if (recOf q.rec1).ixen then q.ix.orElse fun _ => ((s.core n).ctxs[q.ctx.val]'q.ctx.isLt).lookup (recOf q.rec1) q.ixAdv
  else some []

/-- Whether the windows `j` to `last` of a fill hold a unit that faults; while its index sample is still to be made that cannot be told,
and the answer is a free choice of the turn (log entry 29). -/
def State.windowsFault (s : State) (n : CoreId) (q : StreamCmd) (j last : Nat) : Bool :=
  let r := recOf q.rec1
  match s.entriesNow n q with
  | none => s.pickOf 2 2 == 1
  | some ix => (List.range (last + 1 - j)).any fun i => s.unitsFault n q.ctx r q.a.toNat ix (j + i) r.winUnits 0

/-- Whether the list entries from `i` on, up to the one that makes sample number `m` counted from the next, fault. -/
def State.listFaults (s : State) (n : CoreId) (q : StreamCmd) : Nat → Nat → Nat → Bool
  | 0, _, _ => false
  | fuel + 1, i, m =>
    match s.listEntry n q i with
    | .error _ => true
    | .ok ((.skip, _), _) => s.listFaults n q fuel (i + 1) m
    | .ok ((row, _), _) =>
      s.rowFaults n q row i || match m with
        | 0 => false
        | m + 1 => s.listFaults n q fuel (i + 1) m

/-- Whether a fill, which has not faulted yet, faults at or before making sample `k` (R306). -/
def State.fillDoomed (s : State) (n : CoreId) (q : StreamCmd) (k : Nat) : Bool :=
  q.susp.isNone && match q.kind with
    | .sload => s.windowsFault n q q.j (min (k - (q.adv + q.pos.toNat)) ((recOf q.rec1).windows - 1))
    | .sgather => s.listFaults n q (q.count - q.j) q.j (k - q.fillSample)
    | .sreduce => s.listFaults n q q.count 0 q.count
    | _ => false

/-- Whether a drain faults in step `j` of its samples: in a unit of the window to which a `sstore` copies, in a list entry or
in a cell of its row item (R306, R313); with an index sample still to be made that is a free choice (log entry 29). -/
def State.drainStepFaults (s : State) (n : CoreId) (q : StreamCmd) (j : Nat) : Bool :=
  let r := recOf q.rec1
  let d := ((s.core n).ctxs[q.ctx.val]'q.ctx.isLt).dom
  if q.kind = .sstore then
    match s.entriesNow n q with
    | none => s.pickOf 2 2 == 1
    | some ix => (List.range r.winUnits).any fun e =>
      match s.unitDest n d r q.a.toNat ix j e none with
      | .error _ => true
      | .ok _ => false
  else match s.listEntry n q j with
    | .error _ => true
    | .ok ((.row k, _), _) => s.rowFaults n q (.row k) j
    | .ok _ => false

/-- Whether a drain that pins sample `k`, and has not faulted yet, faults at or before copying it (R306). -/
def State.drainDoomed (s : State) (n : CoreId) (q : StreamCmd) (k : Nat) : Bool :=
  q.isDrain && q.susp.isNone &&
    (List.range ((k : Int) + 1 - q.drainSample q.j).toNat).any fun i => s.drainStepFaults n q (q.j + i)

end Sys2Proof.Machine
end

