-- ==== Sys2Proof/Machine/Check.lean ====
section
/-! DEFINITION. What a slot meets before its bundle issues: the checks of addresses and uses (R293 step 5, R297, R303), the
deferred faults it delivers (R298, R306), what blocks it (R41), and `issue`, by which every such slot issues. -/

namespace Sys2Proof.Machine

/-! ### What the bits of an instruction name -/

/-- The registers that a slot names as destinations (R110). -/
def destsOf : Instr → List Dest
  | .add _ _ d _ _ | .sub _ _ d _ _ | .mul _ _ d _ _ | .mulh _ _ d _ _ | .mulhn _ _ d _ _
  | .div _ _ d _ _ | .divn _ _ d _ _ | .rem _ _ d _ _ | .remn _ _ d _ _
  | .min _ _ d _ _ | .max _ _ d _ _ | .minn _ _ d _ _ | .maxn _ _ d _ _
  | .and _ _ d _ _ | .or _ _ d _ _ | .xor _ _ d _ _ | .andn _ _ d _ _
  | .shl _ _ d _ _ | .shr _ _ d _ _ | .sra _ _ d _ _
  | .aadd _ _ d _ _ | .amin _ _ d _ _ | .amax _ _ d _ _ | .aswp _ _ d _ _ => [.x d]
  | .addi _ _ d _ _ | .shli _ _ d _ _ | .shri _ _ d _ _ | .srai _ _ d _ _ => [.x d]
  | .movi _ _ d _ | .lhi _ _ d _ | .mfs _ _ d _ => [.x d]
  | .sxI8 _ _ d _ | .sxI16 _ _ d _ | .sxI32 _ _ d _ | .zxN8 _ _ d _ | .zxN16 _ _ d _ | .zxN32 _ _ d _
  | .clz _ _ d _ | .ctz _ _ d _ | .popc _ _ d _ => [.x d]
  | .sel _ _ d _ _ _ | .acas _ _ d _ _ _ | .tld _ _ d _ _ _ => [.x d]
  | .ldI8 _ _ d _ _ | .ldN8 _ _ d _ _ | .ldI16 _ _ d _ _ | .ldN16 _ _ d _ _ | .ldI32 _ _ d _ _
  | .ldN32 _ _ d _ _ | .ld64 _ _ d _ _ | .gld _ _ d _ _ => [.x d]
  | .sstat _ _ d _ _ | .kpoll _ _ d _ => [.x d]
  | .dget _ _ d _ _ _ => [.x d]
  | .cmpEq _ _ n _ _ | .cmpNe _ _ n _ _ | .cmpLt _ _ n _ _ | .cmpLe _ _ n _ _ | .cmpLtn _ _ n _ _
  | .cmpLen _ _ n _ _ => [.pair n]
  | .cmpiEq _ _ n _ _ | .cmpiNe _ _ n _ _ | .cmpiLt _ _ n _ _ | .cmpiLe _ _ n _ _ | .cmpiLtn _ _ n _ _
  | .cmpiLen _ _ n _ _ => [.pair n]
  | .pand _ _ d _ _ | .por _ _ d _ _ | .pxor _ _ d _ _ => [.pred d]
  | .pmov _ _ d _ => [.pred d]
  | _ => []

/-- The registers of a destination, x registers as 0 to 31 and predicates as 32 to 47, without those whose writes are
discarded (R95, R110). -/
def Dest.regs : Dest → List Nat
  | .x r => if r = 0 then [] else [r.toNat]
  | .pair n => if n = 0 then [] else [32 + 2 * n.toNat, 33 + 2 * n.toNat]
  | .pred p => if p.toNat ≤ 1 then [] else [32 + p.toNat]

/-- Whether an instruction is a control transfer (R127). -/
def isTransfer : Instr → Bool
  | .b .. | .bi .. | .jt .. | .call .. | .calli .. | .ret .. | .rett .. => true
  | _ => false

/-- Whether an instruction is a `loop` or a `halt`, which R294 forbids in a delay bundle beside the transfers. -/
def isLoopOrHalt : Instr → Bool
  | .loop .. | .halt .. => true
  | _ => false

/-- The token fields of a slot E instruction (R105). -/
def slotTokens : Instr → Option Tokens
  | .tick _ _ x | .gacq _ _ x | .grel _ _ x | .kwait _ _ x | .trig _ _ x | .arriveCl _ _ x | .arriveDie _ _ x
  | .arriveDev _ _ x | .waitCl _ _ x | .waitDie _ _ x | .waitDev _ _ x | .sync _ _ x => x
  | .ckpt _ _ x => x
  | .spec _ _ _ x | .sclr _ _ _ x | .gcfg _ _ _ x | .grun _ _ _ x | .mxload _ _ _ x | .mxcall _ _ _ x
  | .dclr _ _ _ x | .kpoll _ _ _ x => x
  | .nop _ _ x => x
  | .commit _ _ _ _ x | .sstat _ _ _ _ x | .mxp _ _ _ _ x | .spos _ _ _ _ x | .launch _ _ _ _ x => x
  | .gset _ _ _ _ _ x | .dset _ _ _ _ _ x | .dget _ _ _ _ _ x => x
  | .sload _ _ _ _ _ _ _ x | .scopy _ _ _ _ _ _ _ x | .sstore _ _ _ _ _ _ _ x => some x
  | .sloadPl _ _ _ _ _ _ x => some x
  | .sgather _ _ _ _ _ _ _ _ _ x | .sscatter _ _ _ _ _ _ _ _ _ x => some x
  | .sreduce _ _ _ _ _ _ _ _ _ _ _ _ x => some x
  | _ => none

/-- The consumed tokens of a slot (R151). -/
def consumed (i : Instr) : List (BitVec 4) :=
  match slotTokens i with
  | some t => [t.kc0, t.kc1, t.kc2].filter (· != 0)
  | none => []

/-- The produced token of a slot, 0 for none (R151). -/
def produced (i : Instr) : BitVec 4 :=
  match slotTokens i with
  | some t => t.kp
  | none => 0

/-- The scope at which an instruction waits for the context's writes: the drains, and the arrivals (R150, R166). -/
def drainScope : Instr → Option Scope
  | .drainCl .. | .arriveCl .. => some .cl
  | .drainDie .. | .arriveDie .. => some .die
  | .drainDev .. | .arriveDev .. => some .dev
  | .drainSys .. => some .sys
  | _ => none

/-- The scope of a `wait` (R166). -/
def waitScope : Instr → Option Scope
  | .waitCl .. => some .cl
  | .waitDie .. => some .die
  | .waitDev .. => some .dev
  | _ => none

/-! ### Stream and Yarrow commands as they issue -/

/-- A stream or Yarrow command as it would be issued, from its operands (R160 to R162). -/
def State.streamOf (s : State) (i : Instr) : Option (Fin 6 × StreamCmd) :=
  let x := s.me
  let d (k : DescNum) : Vector Word 12 := x.d[k.toNat]'(k.isLt)
  let mk (kind : StreamKind) (t : Tokens) (sig : SigNum) (pos : BitVec 7) (r1 r2 : Vector Word 12) (a b : Word) :
      StreamCmd :=
    { id := s.cmdSeq, ctx := s.cur.ctx, kind := kind, kp := t.kp, sig := sig, pos := pos, rec1 := r1, rec2 := r2,
      a := a, b := b, oor := 0, red := 0, distinct := false, weighted := false, adv := 0, ixAdv := 0, ixAdv2 := 0,
      ix := none, ix2 := none, taken := false, effective := false, held := false, j := 0, e := 0, susp := none,
      retry := false, word := slotWord i, ext := extWord i }
  let none12 : Vector Word 12 := Vector.replicate 12 0
  let eng (n : Nat) : Fin 6 := Fin.ofNat 6 n
  match i with
  | .sload _ _ e n pos k a t => some (eng e.toNat, mk .sload t n pos (d k) none12 (x.rx a) 0)
  | .sloadPl _ _ e k a b t => some (eng e.toNat, mk .sloadPl t 0 0 (d k) none12 (x.rx a) (x.rx b))
  | .sstore _ _ e n o k a t => some (eng (4 + e.toNat), mk .sstore t n o (d k) none12 (x.rx a) 0)
  | .scopy _ _ e k j a b t => some (eng e.toNat, mk .scopy t 0 0 (d k) (d j) (x.rx a) (x.rx b))
  | .sgather _ _ e n pos k a b oor t =>
    some (eng e.toNat, { mk .sgather t n pos (d k) none12 (x.rx a) (x.rx b) with oor := oor })
  | .sreduce _ _ w e n pos k a b red dis oor t =>
    some (eng e.toNat, { mk .sreduce t n pos (d k) none12 (x.rx a) (x.rx b) with
      oor := oor, red := red, distinct := dis, weighted := w })
  | .sscatter _ _ e n o k a b oor t =>
    some (eng (4 + e.toNat), { mk .sscatter t n o (d k) none12 (x.rx a) (x.rx b) with oor := oor })
  | _ => none

/-- The descriptors that a stream or Yarrow command names (R161). -/
def descsOf : Instr → List DescNum
  | .sload _ _ _ _ _ k _ _ | .sstore _ _ _ _ _ k _ _ => [k]
  | .sloadPl _ _ _ k _ _ _ => [k]
  | .scopy _ _ _ k j _ _ _ => [k, j]
  | .sgather _ _ _ _ _ k _ _ _ _ | .sscatter _ _ _ _ _ k _ _ _ _ => [k]
  | .sreduce _ _ _ _ _ _ k _ _ _ _ _ _ => [k]
  | _ => []

/-- Whether a command is a Yarrow command (R242). -/
def StreamKind.isYarrow : StreamKind → Bool
  | .sgather | .sreduce | .sscatter => true
  | _ => false

/-- Whether a command names a signal (R161). -/
def StreamKind.namesSignal : StreamKind → Bool
  | .sloadPl | .scopy => false
  | _ => true

/-- Whether a command writes device memory (R150). -/
def StreamKind.writesMemory : StreamKind → Bool
  | .sstore | .scopy | .sscatter => true
  | _ => false

/-- Whether a record matches its command and signal (R232, R233, R238, R240 to R247, R312). -/
def StreamCmd.matches (q : StreamCmd) (g : Option Signal) : Bool :=
  let r := recOf q.rec1
  let r2 := recOf q.rec2
  let cap (rows : Nat) : Nat := unitsPerSample r.fmt rows
  match q.kind, g with
  | .sload, some g | .sstore, some g => fmtAdmits r.fmt g.plan.fmt && decide (r.winUnits ≤ cap g.plan.rows)
  | .sgather, some g => fmtAdmits r.fmt g.plan.fmt && !r.ixen && decide (r.itemUnits ≤ cap g.plan.rows)
  | .sreduce, some g =>
    (r.fmt == 1 || r.fmt == 2 || r.fmt == 3 || r.fmt == 9 || r.fmt == 0xA) && fmtAdmits r.fmt g.plan.fmt && !r.ixen
      && decide (r.itemUnits ≤ cap g.plan.rows)
  | .sscatter, some g =>
    r.fmt == 0x13 && (g.plan.fmt == 3 || g.plan.fmt == 4) && !r.ixen
      && decide (r.itemUnits ≤ g.plan.rows * (if g.plan.fmt = 3 then 64 else 32))
  | .sloadPl, _ => r.fmt != 0x13
  | .scopy, _ => r.fmt == r2.fmt && r.windows * r.winUnits == r2.windows * r2.winUnits
  | _, none => false

/-- Whether a drain issued now would take effect at once: no boundary is to release it, and no ticking `grun` of its
context is unfinished (R64, R345). -/
def State.drainNow (s : State) (c : CtxId) : Bool := !(s.ctx c).ckpting && !s.gridTicks c s.cmdSeq

/-- The first fault that a stream or Yarrow command meets at its issue (R303, R312). A signal that its record names as
index signal is checked after the record itself. -/
def State.streamCheck (s : State) (i : Instr) (q : StreamCmd) : Option TrapInfo :=
  let x := s.me
  let trap (cause : BitVec 8) (detail : Word) : Option TrapInfo := some (s.precise cause 3 detail)
  let lp : BitVec 8 := if q.isDrain then q.pos.signExtend 8 else q.pos.setWidth 8
  let g := if q.kind.namesSignal then x.sig q.sig else none
  let r := recOf q.rec1
  let r2 := recOf q.rec2
  let k1 := ((descsOf i)[0]?).getD 0
  let k2 := ((descsOf i)[1]?).getD 0
  let unplannedIx (r : Rec) : Bool := r.ixen && (x.sig r.ixsig).isNone
  if q.kind.namesSignal && g.isNone then trap 0x21 (sigDetail 0 lp q.sig)
  else if q.isFill && g.any (fun g => g.bind != .unbound && g.bind != .stream) then
    trap 0x25 (sigDetail ((g.map (·.adv)).getD 0) lp q.sig)
  else match recRefused q.rec1 q.kind.isYarrow k1 with
  | some d => trap 0x40 d
  | none =>
    match (if q.kind = .scopy then recRefused q.rec2 false k2 else none) with
    | some d => trap 0x40 d
    | none =>
      if !q.kind.isYarrow && unplannedIx r then trap 0x21 (sigDetail 0 0 r.ixsig)
      else if q.kind = .scopy && unplannedIx r2 then trap 0x21 (sigDetail 0 0 r2.ixsig)
      else if q.matches g = false then trap 0x41 (k1.setWidth 64)
      else
        let off := (q.b.extractLsb' 0 32).toNat
        let size := ((s.myCore.window? x).map (·.plSize)).getD 0
        if q.kind = .sloadPl && decide (size < off + r.windows * r.winUnits * unitSize r.fmt) then
          trap 0x12 (BitVec.ofNat 64 off)
        else if q.isDrain && s.drainNow s.cur &&
            g.any q.expiredAt then
          trap 0x2E (sigDetail ((g.map (·.adv)).getD 0) lp q.sig)
        else none

/-! ### Checks of step 5 -/

/-- The partner context of an `rst`: the context of the same launch at point (j, i − i mod 4 + pos) of its cluster, unless it has
ended (R7, R145). -/
def State.partner? (s : State) (c : CtxId) (pos : BitVec 2) : Option CtxId :=
  let x := s.ctx c
  allCtxs.find? fun o =>
    let y := s.ctx o
    y.live && !y.ended && y.kid == x.kid && y.die == x.die && y.point == x.point - x.point % 4 + pos.toNat
      && o.core.val / 4 == c.core.val / 4

/-- The return address of a call: the offset of the bundle after the delay bundle (R131). -/
def State.returnAddress (s : State) : Word :=
  let x := s.me
  match bundleAt (s.codeOf x) x.next with
  | some ws => x.next + BitVec.ofNat 64 (4 * ws.length)
  | none => x.next + 4

/-- The check of a CP data-memory access of `w` bytes (R297). -/
def State.cpCheck (s : State) (a : Word) (w : Nat) : Option TrapInfo :=
  if a.toNat % w ≠ 0 then some (s.precise 0x0A 2 a)
  else if (cpPhys s.myCore s.me a.toNat w).isNone then some (s.precise 0x0B 2 a)
  else none

/-- The translation of a device-memory access by the context whose bundle issues: the physical address and the translation, or
the cause (R331). -/
def State.devAccess (s : State) (a : Word) (align : Nat) (n : Need) : Except (BitVec 8) (Nat × Xlat) :=
  s.access (some s.cur.core) s.me.dom a align 0x54 n none

/-- The check of a device-memory access: translation and permission (R331). -/
def State.devCheck (s : State) (a : Word) (align : Nat) (n : Need) : Option TrapInfo :=
  match s.devAccess a align n with
  | .error c => some (s.precise c 2 a)
  | .ok _ => none

/-- The check of an atomic (R71, R345). -/
def State.atomicCheck (s : State) (i : Instr) (d : Reg) : Option TrapInfo :=
  if s.me.specd ≠ 0 then some (s.precise 0x2A 2 (slotDetail 2 (slotWord i)))
  else if s.me.ckpting ∧ d ≠ 0 then some (s.precise 0x83 2 (slotDetail 2 (slotWord i)))
  else none

/-- The check of a grid command other than `gacq` (R156). -/
def State.ownerCheck (s : State) (i : Instr) : Option TrapInfo :=
  if s.myCore.grid.owner = some s.cur.ctx then none else some (s.precise 0x0D 3 ((slotWord i).setWidth 64))

/-- The check of a barrier instruction or `sync` (R334). -/
def State.barrierCheck (s : State) (i : Instr) : Option TrapInfo :=
  if s.me.specd = 0 then none else some (s.precise 0x60 3 (slotDetail 3 (slotWord i)))

/-- The amount of a `commit`: xD + I15 (R154). -/
def Ctx.commitAmount (x : Ctx) (d : Reg) (n : BitVec 15) : Word := x.rx d + n.setWidth 64

/-- The check that a guarded-true slot undergoes when its bundle becomes the next one (R293 step 5). A slot that R153 or
R57 blocks is checked when that wait is over (R305). -/
def slotCheck (i : Instr) (s : State) : Option TrapInfo :=
  let x := s.me
  let trap (cause : BitVec 8) (source : BitVec 3) (detail : Word) : Option TrapInfo :=
    some (s.precise cause source detail)
  let w := slotWord i
  let step := x.tick.isSome
  match i with
  | .jt _ _ a b n =>
    let t := x.tableAddr a b n
    if t.toNat % 4 ≠ 0 ∨ (cpPhys s.myCore x t.toNat 4).isNone then trap 0x09 0 t else none
  | .loop _ d n =>
    if n = 0 ∨ (x.outer.active ∧ x.inner.active)
        ∨ ((x.rx d).extractLsb' 0 32 ≠ 0 ∧ x.outer.active ∧ (x.outer.last).ult (x.loopEnd n)) then
      trap 0x0C 0 (w.setWidth 64)
    else none
  | .call .. | .calli .. => if 520 ≤ x.rstk.length + x.spilled then trap 0x13 0 s.returnAddress else none
  | .ret .. => if x.rstk = [] ∧ x.spilled = 0 then trap 0x14 0 0 else none
  | .ldI8 _ _ _ a n | .ldN8 _ _ _ a n | .st8 _ _ _ a n => s.cpCheck (x.addr a n) 1
  | .ldI16 _ _ _ a n | .ldN16 _ _ _ a n | .st16 _ _ _ a n => s.cpCheck (x.addr a n) 2
  | .ldI32 _ _ _ a n | .ldN32 _ _ _ a n | .st32 _ _ _ a n => s.cpCheck (x.addr a n) 4
  | .ld64 _ _ _ a n | .st64 _ _ _ a n => s.cpCheck (x.addr a n) 8
  | .tld _ _ _ n lag _ =>
    if step then none
    else match x.sig n with
    | none => trap 0x21 2 (sigDetail 0 (lag.setWidth 8) n)
    | some g =>
      if g.plan.depth ≤ lag.toNat then trap 0x20 2 (sigDetail g.adv (lag.setWidth 8) n)
      else if g.bind = .cp ∧ lag.toNat ≤ g.adv ∧ g.readable (g.adv - lag.toNat) = false then
        trap 0x22 2 (sigDetail g.adv (lag.setWidth 8) n)
      else none
  | .tst _ _ _ n a _ =>
    if step then none
    else match x.sig n with
    | none => trap 0x21 2 (sigDetail 0 (a.setWidth 8) n)
    | some g =>
      if g.bind ≠ .unbound ∧ g.bind ≠ .cp then trap 0x25 2 (sigDetail g.adv (a.setWidth 8) n)
      else if g.plan.lead < a.toNat then trap 0x24 2 (sigDetail g.adv (a.setWidth 8) n)
      else if g.writeTest (g.adv + a.toNat) = .full then trap 0x23 2 (sigDetail g.adv (a.setWidth 8) n)
      else none
  | .rst _ _ _ n pos a _ =>
    if x.specd ≠ 0 then trap 0x2A 2 (slotDetail 2 w)
    else if (x.sig n).isNone then trap 0x21 2 (sigDetail 0 (a.setWidth 8) n)
    else if ((s.partner? s.cur pos).bind fun o => (s.ctx o).sig n).any (·.plan.isRemote) then none
    else trap 0x2F 2 (0#48 ++ (0#6 ++ pos) ++ (0#2 ++ n))
  | .gst _ _ _ a n => if (x.specd ≠ 0 ∨ x.ckpting) ∧ 1024 ≤ x.hold.length then trap 0x29 2 (x.addr a n) else none
  | .aadd _ _ d _ _ | .amin _ _ d _ _ | .amax _ _ d _ _ | .aswp _ _ d _ _ => s.atomicCheck i d
  | .acas _ _ d _ _ _ => s.atomicCheck i d
  | .acadd .. => if x.specd ≠ 0 then trap 0x2A 2 (slotDetail 2 w) else none
  | .tick .. => if s.tickBusy s.cur then none else x.tickOverflow.bind (trap 0x28 3 ·)
  | .spec .. => if x.specd ≠ 0 then trap 0x2B 3 (x.specd.setWidth 64) else none
  | .commit _ _ d n _ =>
    if s.tickBusy s.cur then none
    else
      let c := x.commitAmount d n
      if (x.specd = 0 ∧ c ≠ 0) ∨ (x.specd ≠ 0 ∧ (x.now - x.nowc).toNat < c.toNat) then trap 0x2C 3 c else none
  | .sclr _ _ n _ =>
    if s.tickBusy s.cur then none
    else match x.sig n with
    | none => trap 0x21 3 (sigDetail 0 0 n)
    | some g => if x.specd ≠ 0 then trap 0x2D 3 (sigDetail g.adv 0 n) else none
  | .ckpt _ d _ => if x.specd ≠ 0 ∨ d.q = true ∨ d.i ≠ 0 then trap 0x83 3 (slotDetail 3 w) else none
  | .grel .. | .gcfg .. | .grun .. | .gset .. => s.ownerCheck i
  | .spos _ _ n _ _ =>
    match (s.myCore.seqs[n.toNat]'(n.isLt)).owner with
    | none => none
    | some o =>
      let y := s.myCore.ctxs[o.val]'o.isLt
      if y.live ∧ y.kid ≠ x.kid then trap 0x45 3 (n.setWidth 64) else none
  | .launch .. => if x.specd ≠ 0 then trap 0x2A 3 (slotDetail 3 w) else none
  | .arriveCl .. | .arriveDie .. | .arriveDev .. | .waitCl .. | .waitDie .. | .waitDev .. | .sync .. =>
    s.barrierCheck i
  | .sload .. | .sloadPl .. | .sstore .. | .scopy .. | .sgather .. | .sreduce .. | .sscatter .. =>
    match s.streamOf i with
    | none => none
    | some (_, q) => if step && q.isDrain then none else s.streamCheck i q
  | _ => none

/-- The check that a guarded-true slot undergoes when its bundle issues: the translation of an access to device memory (R320,
R331). -/
def slotXlat (i : Instr) (s : State) : Option TrapInfo :=
  let x := s.me
  match i with
  | .gld _ _ _ a n => s.devCheck (x.addr a n) 8 Need.read
  | .gst _ _ _ a n => s.devCheck (x.addr a n) 8 Need.write
  | .aadd _ _ _ a _ | .amin _ _ _ a _ | .amax _ _ _ a _ | .aswp _ _ _ a _ | .acas _ _ _ a _ _ =>
    s.devCheck (x.rx a) 8 Need.atomic
  | .acadd _ _ a _ => s.devCheck (x.rx a) 16 Need.atomic
  | _ => none

/-! ### What blocks a slot -/

/-- Whether an instruction first takes an implicit checkpoint that is still to be taken (R342). -/
def Ctx.implicit (x : Ctx) : Instr → Bool
  | .halt .. | .arriveCl .. | .arriveDie .. | .arriveDev .. | .sync .. | .launch .. => x.needsBoundary true
  | .drainCl .. | .drainDie .. | .drainDev .. | .drainSys .. | .trig .. => x.needsBoundary false
  | _ => false

/-- Whether a drain at a scope waits: a `gst`, atomic or `acadd` has not performed there, or an `rst` or a writing stream
command has not performed (R150). What a checkpoint boundary still holds is not waited for. -/
def State.drainWaits (s : State) (c : CtxId) (sc : Scope) : Bool :=
  let k := s.core c.core
  !s.writesDone c sc || k.remote.any (fun r => r.ctx == c.ctx && !r.held)
    || (k.streamsOf c.ctx).any (fun q => q.kind.writesMemory && !q.held)

/-- Whether a `commit` triggers the context: its `trig` was issued at a tick that it keeps (R52). -/
def Ctx.keepsTrig (x : Ctx) (k : Word) : Bool :=
  x.trigs.any fun t => decide ((t.1 - x.nowc).toNat < k.toNat)

/-- Whether a `commit` comes at a boundary: it triggers a checkpointing context (R342). -/
def Ctx.commitBounds (x : Ctx) (d : Reg) (n : BitVec 15) : Bool := x.ckpting && x.keepsTrig (x.commitAmount d n)

/-- Whether the grid is another context's, or is to go to another that waits for it (R41, R49). -/
def Grid.taken (g : Grid) (c : Fin 4) : Bool :=
  match g.owner with
  | some o => o != c
  | none => g.grant.any (· != c)

/-- How many entries of the grid queue are taken (R156). -/
def Grid.entries (g : Grid) : Nat := (g.queue.filter fun q => match q.op with
  | .clear _ => false
  | _ => true).length

/-- Whether a command names a signal, as its own or as an index signal still to be read (R155). -/
def StreamCmd.names (q : StreamCmd) (n : SigNum) : Bool :=
  (q.kind.namesSignal && q.sig == n) || ((recOf q.rec1).ixen && !q.kind.isYarrow && (recOf q.rec1).ixsig == n)
    || (q.kind == .scopy && (recOf q.rec2).ixen && (recOf q.rec2).ixsig == n)

/-- The samples that a blocked `tld` or `tick` waits to be made (R306). -/
def Ctx.awaits (x : Ctx) : Instr → List (SigNum × Nat)
  | .tld _ _ _ n lag _ =>
    if (x.sig n).any fun g => decide (lag.toNat ≤ g.adv) && !g.readable (g.adv - lag.toNat) then
      [(n, ((x.sig n).map (·.adv)).getD 0 - lag.toNat)] else []
  | .tick .. => x.dueSigs.filterMap fun (n, g) =>
      if !g.inTick && !g.readable (g.adv + 1) then some (n, g.adv + 1) else none
  | _ => []

/-- The samples that a `tst` or `tick` waits to see out of the slots that it writes: the sample that stands N before the one it
makes, while the slot is occupied (R58, R306). -/
def Ctx.awaitsFree (x : Ctx) : Instr → List (SigNum × Nat)
  | .tst _ _ _ n a _ =>
    match x.sig n with
    | none => []
    | some g =>
      if g.plan.nslots ≤ g.adv + a.toNat ∧ g.writeTest (g.adv + a.toNat) = .wait then [(n, g.adv + a.toNat - g.plan.nslots)]
      else []
  | .tick .. => x.dueSigs.filterMap fun (n, g) =>
      if g.inTick && decide (g.plan.nslots ≤ g.adv) && g.tickWaits then some (n, g.adv - g.plan.nslots) else none
  | _ => []

/-- Whether a `tick` would wait on a sample that a fill of the context faults before making, or on a slot whose sample a drain
faults before copying (R306; log entry 29). -/
def State.tickDoomed (s : State) (i : Instr) : Bool :=
  let qs := s.myCore.streamsOf s.cur.ctx
  let n := s.cur.core
  (s.me.awaits i).any (fun p => qs.any fun q => q.makes p.1 p.2 && s.fillDoomed n q p.2)
    || (s.me.awaitsFree i).any fun p => qs.any fun q => q.pins p.1 p.2 && s.drainDoomed n q p.2

/-- Whether a `wait` is still to be released (R166). -/
def State.waitBlocked (s : State) (sc : Scope) : Bool :=
  !(s.me.wait.any fun w => w.scope == sc && w.release.any fun r => decide (r ≤ s.cycle))

/-- Whether a slot blocks its bundle, its tokens apart (R41). -/
def slotBlocked (i : Instr) (s : State) : Bool :=
  let x := s.me
  let k := s.myCore
  x.implicit i ||
  match i with
  | .halt .. => k.cmdsBusy s.cur.ctx
  | .mfs _ _ _ n => decide (n.toNat ≤ 2) && x.tick.isSome
  | .tld _ _ _ n lag _ =>
    x.tick.isSome || (x.sig n).any fun g => decide (lag.toNat ≤ g.adv) && !g.readable (g.adv - lag.toNat)
  | .tst _ _ _ n a _ => x.tick.isSome || (x.sig n).any fun g => g.writeTest (g.adv + a.toNat) == .wait
  | .rst .. => decide (8 ≤ k.remote.length)
  | .drainCl .. | .drainDie .. | .drainDev .. | .drainSys .. | .arriveCl .. | .arriveDie .. | .arriveDev .. =>
    match drainScope i with
    | some sc => s.drainWaits s.cur sc
    | none => false
  | .tick .. => s.tickBusy s.cur || s.tickDoomed i
  | .spec .. => s.tickBusy s.cur
  | .commit _ _ d n _ =>
    s.tickBusy s.cur || (x.commitBounds d n && (!s.boundaryReady s.cur false || x.rerunning))
  | .sclr _ _ n _ =>
    s.tickBusy s.cur || (x.sig n).any (fun g => g.slots.any (·.st == .draining))
      || (k.streamsOf s.cur.ctx).any (·.names n)
  | .sstat .. => x.tick.isSome
  | .ckpt .. => !s.boundaryReady s.cur false || x.rerunning
  | .gacq .. => k.grid.taken s.cur.ctx
  | .grel .. | .gcfg .. | .grun .. | .gset .. => decide (8 ≤ k.grid.entries)
  | .mxload .. | .mxcall .. => decide (16 ≤ k.mx.queue.length)
  | .sload .. | .sloadPl .. | .sstore .. | .scopy .. | .sgather .. | .sreduce .. | .sscatter .. =>
    match s.streamOf i with
    | none => false
    | some (e, q) => (x.tick.isSome && q.isDrain) || decide (8 ≤ (k.engines[e.val]'e.isLt).queue.length)
  | .launch .. => decide (2 ≤ x.posting.length)
  | .waitCl .. => s.waitBlocked .cl
  | .waitDie .. => s.waitBlocked .die
  | .waitDev .. => s.waitBlocked .dev
  | .sync .. => !(x.syncAt.any fun t => decide (t ≤ s.cycle))
  | _ => false

/-- Whether a slot waits on a consumed token (R41, R151). -/
def tokensWait (i : Instr) (x : Ctx) : Bool := (consumed i).any fun k => !x.rk k

/-- Whether a slot keeps its bundle from issuing (R41). -/
def slotWaits (i : Instr) (s : State) : Bool := tokensWait i s.me || slotBlocked i s

/-- What a blocked slot leaves behind: its implicit checkpoint once its waits are over (R342), in a rerun its boundary reached
(R346), the time since which a `gacq` blocks (R49), a `sync` reached (R167), a `wait` begun (R166). -/
def slotNote (i : Instr) (s : State) : State :=
  let x := s.me
  if tokensWait i x then s
  else if x.implicit i then
    if s.boundaryReady s.cur (match i with
      | .halt .. => true
      | _ => false) then s.implicitBoundary s.cur else s
  else match i with
  | .ckpt .. => if x.rerunning && s.boundaryReady s.cur false then s.reach s.cur (s.signature s.cur) else s
  | .commit _ _ d n _ =>
    if x.rerunning && x.commitBounds d n && !s.tickBusy s.cur && s.boundaryReady s.cur false then
      -- the stores that the `commit` keeps are among those of the interval
      s.reach s.cur ((s.commitStores s.cur x.nowc ((x.commitAmount d n).setWidth 48)).signature s.cur)
    else s
  | .gacq .. => s.setMe { x with gacqAt := some (x.gacqAt.getD s.cycle) }
  | .sync .. => if x.syncSeen.isNone then s.setMe { x with sync := x.sync + 1, syncSeen := some s.cycle } else s
  | .waitCl .. | .waitDie .. | .waitDev .. =>
    match waitScope i with
    | some sc => if x.wait.isNone then s.setMe { x with wait := some { scope := sc, release := none } } else s
    | none => s
  | _ => s

/-! ### Deferred faults at a slot -/

/-- Whether a sample lies in one of a list of ranges. -/
def inRanges (l : List (SigNum × Nat × Nat)) (p : SigNum × Nat) : Bool :=
  l.any fun r => r.1 == p.1 && decide (r.2.1 ≤ p.2 ∧ p.2 ≤ r.2.2)

/-- Whether a pending fault is delivered at a bundle with this guarded-true slot (R298, R306, R338). -/
def State.qualifies (s : State) (i : Instr) (f : PendFault) : Bool :=
  let x := s.me
  let idle := x.tick.isNone
  (f.kp != 0 && (consumed i).contains f.kp)
    || (idle && ((x.awaits i).any (inRanges f.fills) || (x.awaitsFree i).any (inRanges f.frees)))
    || (f.susp && x.implicit i)
    || match i with
      | .sclr _ _ n _ => f.susp && (s.myCore.streamsOf s.cur.ctx).any fun q => q.id == f.id && q.names n
      | .ckpt .. => f.susp
      | .halt .. => true
      | .drainSys .. => f.writes
      | .drainCl .. | .drainDie .. | .drainDev .. => f.writes && !f.atSys
      | .arriveCl .. | .arriveDie .. | .arriveDev .. => f.writes
      | .waitCl .. | .waitDie .. | .waitDev .. => f.atSys
      | _ => false

/-- The earliest-issued of pending faults (R298). -/
def earliest : List PendFault → Option PendFault
  | [] => none
  | f :: r =>
    match earliest r with
    | none => some f
    | some g => if f.id ≤ g.id then some f else some g

/-- The numbers of the commands of a context that have neither performed nor faulted nor been suspended, those of its E slots and
its `rst`s (R39, R298). -/
def Core.cmdIds (k : Core) (c : Fin 4) : List Nat :=
  let x := k.ctxs[c.val]'c.isLt
  let g := k.grid
  x.tick.toList.map (·.id) ++ x.posting.map (·.id)
    ++ (g.queue.filter fun q => q.ctx == c && !q.isMark).map (·.id) ++ (g.loading.toList.filter (·.1.ctx == c)).map (·.1.id)
    ++ (g.run.toList.filter (·.ctx == c)).map (·.id)
    ++ (k.mx.queue.filter (·.ctx == c)).map (·.id) ++ (k.mx.loading.toList.filter (·.1.ctx == c)).map (·.1.id)
    ++ ((k.mx.run.toList ++ k.mx.resumed ++ k.mx.away).filter (·.item.ctx == c)).map (·.item.id)
    ++ ((k.streamsOf c).filter (!·.resting)).map (·.id) ++ (k.remote.filter (·.ctx == c)).map (·.id)

/-- The numbers of the unfinished commands and writes of a context for which a slot waits and whose faults it would deliver
(R298, R306). -/
def State.waitIds (s : State) (i : Instr) : List Nat :=
  let x := s.me
  let k := s.myCore
  let qs := (k.streamsOf s.cur.ctx).filter fun q => !q.resting
  ((consumed i).filter (!x.rk ·)).map (fun t => x.kOwner[t.toNat]'(t.isLt))
    ++ (qs.filter fun q => (x.awaits i).any (fun p => q.makes p.1 p.2) || (x.awaitsFree i).any fun p => q.pins p.1 p.2).map (·.id)
    ++ match i with
      | .halt .. => k.cmdIds s.cur.ctx
      | .ckpt .. => (qs.filter (!·.later x)).map (·.id)
      | .sclr _ _ n _ => (qs.filter (·.names n)).map (·.id)
      | .drainCl .. | .drainDie .. | .drainDev .. | .drainSys .. | .arriveCl .. | .arriveDie .. | .arriveDev .. =>
        (s.posted.filter fun p => p.src == s.cur && p.kid == x.kid).map (·.cmd)
          ++ (k.remote.filter fun r => r.ctx == s.cur.ctx && !r.held).map (·.id)
          ++ (qs.filter fun q => q.kind.writesMemory && !q.held).map (·.id)
      | _ => []

/-- Whether a slot still waits for something issued before the command of a fault: the faults of one bundle are delivered in the
order of their commands, whatever the time of their detection (R298). -/
def State.tooSoon (s : State) (i : Instr) (f : PendFault) : Bool := (s.waitIds i).any fun id => decide (id < f.id)

/-- The fault that a slot delivers: the earliest-issued of those that qualify, once the slot waits for nothing issued before it
(R298, R306). -/
def State.slotDue (s : State) (i : Instr) : Option PendFault :=
  (earliest (s.me.faults.filter (s.qualifies i))).filter fun f => !s.tooSoon i f

/-- The trap that the delivery of a deferred fault takes. -/
def PendFault.info (f : PendFault) (epc btarg : Word) : TrapInfo :=
  { cause := f.cause, source := f.source, unit := f.unit, faddr := f.detail, epc := epc, btarg := btarg }

/-- A deferred fault delivered: it is no longer pending, and the context takes the trap (R306). -/
def State.deliver (s : State) (c : CtxId) (f : PendFault) (epc btarg : Word) : State :=
  let x := s.ctx c
  (s.setCtx c { x with faults := x.faults.erase f }).takeTrap c (f.info epc btarg)

/-- Whether the end of a pass still waits: for a command of the context, or for the value of an access (R39). -/
def State.passBusy (s : State) (c : CtxId) : Bool :=
  (s.core c.core).cmdsBusy c.ctx || (s.ctx c).read.isSome || (s.ctx c).readFault.isSome

/-! ### Issue -/

/-- A slot issues: under a false guard it has no effect (R106); a bundle whose slots have been admitted has its effects;
otherwise the slot is checked (R293), a deferred fault that it meets is delivered (R306), it blocks (R41), its access is
translated (R331), or it has its effect. -/
def issue (i : Instr) (g : Pred) (eff : State → State) (s : State) : Out :=
  if s.me.rp g = false then .next s
  else if s.me.admitted then .next (eff s)
  else match slotCheck i s with
  | some t => .next (s.takeTrap s.cur t)
  | none =>
    match s.slotDue i with
    | some f => .next (s.deliver s.cur f s.me.here s.me.pendingTarget)
    | none =>
      if slotWaits i s then .next (slotNote i s)
      else match slotXlat i s with
        | some t => .next (s.takeTrap s.cur t)
        | none => .next (eff s)

/-- A command's produced token cleared at its issue, and the command numbered (R151). -/
def State.issued (s : State) (kp : BitVec 4) : State :=
  (s.setMe (s.me.clearToken kp s.cmdSeq)).bump

/-- A command that performs at its issue: its token is set again (R151, R152). -/
def State.performedNow (s : State) (kp : BitVec 4) : State :=
  let s' := s.issued kp
  s'.setMe (s'.me.setToken kp s.cmdSeq)

end Sys2Proof.Machine
end

