-- ==== Sys2Proof/Machine/Bundle.lean ====
section
/-! DEFINITION. Bundles: the slots that a bundle's words give, its checks in order, what keeps it from issuing, and the choice of
the context that issues (R41 to R44, R101 to R106, R293 to R296, R356). -/

namespace Sys2Proof.Machine

/-! ### Slots -/

/-- A slot of a bundle: its number, its word after rebuilding, slot 3's extension word, its instruction. -/
structure Slot where
  n : Fin 4
  word : Lane
  ext : Option Lane
  ins : Instr
  deriving DecidableEq, Repr

/-- The class of a slot (R101). -/
def slotClass (n : Fin 4) : SlotClass :=
  match n with
  | 0 => .a
  | 1 => .b
  | 2 => .m
  | 3 => .e

/-- Where a format keeps its immediate field: its width, at bit 0 (R103, R104). F3 has none. -/
inductive ImmField where
  | none | i10 | i15 | i20 | lag
  deriving DecidableEq, Repr

/-- The immediate field of a slot word, by its class and opcode (R103, R107 to R109). -/
def immField (c : SlotClass) (op : Nat) : ImmField :=
  let scalar (op : Nat) : ImmField :=
    if op = 0x03 ∨ (0x16 ≤ op ∧ op ≤ 0x18) ∨ (0x2B ≤ op ∧ op ≤ 0x30) then .i10
    else if op = 0x00 ∨ op = 0x19 ∨ op = 0x1A then .i15 else .none
  match c with
  | .a => if op = 0x40 ∨ op = 0x43 then .i20 else if 0x45 ≤ op ∧ op ≤ 0x49 then .i15 else scalar op
  | .b => if op = 0x44 ∨ op = 0x45 then .i15 else scalar op
  | .m =>
    if (0x01 ≤ op ∧ op ≤ 0x0B) ∨ op = 0x18 ∨ op = 0x19 then .i10
    else if 0x10 ≤ op ∧ op ≤ 0x12 then .lag
    else if op = 0x00 ∨ (0x30 ≤ op ∧ op ≤ 0x33) then .i15 else .none
  | .e =>
    if op = 0x04 ∨ op = 0x05 then .lag
    else if op ≤ 0x03 ∨ op = 0x06 ∨ (0x10 ≤ op ∧ op ≤ 0x12) ∨ op = 0x18 ∨ op = 0x1A ∨ op = 0x2A ∨ op = 0x30
        ∨ op = 0x31 ∨ op = 0x38 ∨ (0x40 ≤ op ∧ op ≤ 0x46) then .i15
    else .none

/-- A field of `w` bits at bit 0 with INC added modulo its width. -/
def addField (b : Lane) (w : Nat) (inc : BitVec 16) : Lane :=
  insertBits b 0 (b.extractLsb' 0 w + BitVec.ofInt w inc.toInt)

/-- A repeated slot rebuilt from its base (R103). -/
def rebuild (c : SlotClass) (b : Lane) (inc : BitVec 16) : Lane :=
  match immField c (opOf b).toNat with
  | .none => b
  | .i10 => addField b 10 inc
  | .i15 => addField b 15 inc
  | .i20 => addField b 20 inc
  | .lag => addField b 9 inc

/-- Why a bundle is illegal before its addresses are looked at: cause, slot that SOURCE names, FADDR (R291). -/
structure BundleError where
  cause : BitVec 8
  source : BitVec 3
  detail : Word
  deriving DecidableEq, Repr

/-- The words of the four slots, present or rebuilt: slot `n` and those above it (R101, R103). `ws` are the words that
follow. -/
def slotWords (h : Header) (base : Vector Lane 4) (baseExt : Option Lane) (ws : List Lane) :
    List (Fin 4 × Lane × Option Lane) :=
  let one (n : Fin 4) (acc : List (Fin 4 × Lane × Option Lane) × List Lane) :
      List (Fin 4 × Lane × Option Lane) × List Lane :=
    let (out, ws) := acc
    if h.pres.getLsbD n.val then
      if n = 3 ∧ h.ex then (out ++ [(n, ws.headD 0, ws[1]?)], ws.drop 2)
      else (out ++ [(n, ws.headD 0, none)], ws.drop 1)
    else if h.rep.getLsbD n.val then
      (out ++ [(n, rebuild (slotClass n) (base[n.val]'n.isLt) h.inc, if n = 3 then baseExt else none)], ws)
    else (out, ws)
  (one 3 (one 2 (one 1 (one 0 ([], ws))))).1

/-- The slots decoded in order; the first that does not decode decides the fault (R293, check 3). -/
def decodeSlots : List (Fin 4 × Lane × Option Lane) → Except BundleError (List Slot)
  | [] => .ok []
  | (n, w, x) :: r =>
    let err (c : BitVec 8) : BundleError :=
      { cause := c, source := BitVec.ofNat 3 n.val, detail := slotDetail (BitVec.ofNat 2 n.val) w }
    match decodeSlot (slotClass n) w x with
    | .error .unassigned => .error (err 0x01)
    | .error .reserved => .error (err 0x02)
    | .error .needsExt => .error (err 0x04)
    | .ok i =>
      match decodeSlots r with
      | .error e => .error e
      | .ok l => .ok ({ n := n, word := w, ext := x, ins := i } :: l)

/-- Checks 1 to 3: the header, the slot masks, the slots (R293). The words start with the header. -/
def parseBundle (base : Vector Lane 4) (baseExt : Option Lane) (ws : List Lane) : Except BundleError (List Slot) :=
  let w := ws.headD 0
  let h := headerOf w
  let hdr (c : BitVec 8) : BundleError := { cause := c, source := 0, detail := w.setWidth 64 }
  let has3 (m : BitVec 4) : Bool := m.getLsbD 3
  if h.hint = 3 ∨ h.rsvd ≠ 0 then .error (hdr 0x03)
  else if h.pres &&& h.rep ≠ 0 ∨ (h.ex ∧ has3 h.pres = false ∧ has3 h.rep = false)
      ∨ (has3 h.rep ∧ h.ex ≠ baseExt.isSome) then .error (hdr 0x04)
  else
    let l := slotWords h base baseExt (ws.drop 1)
    if has3 h.pres && !h.ex && l.any (fun s => s.1 == 3 && isStreamOp s.2.1) then .error (hdr 0x04)
    else decodeSlots l

/-- Check 4: the bundle rules, on a context at step 2 of the bundle (R110, R113, R293, R294). -/
def bundleRules (x : Ctx) (w : Lane) (slots : List Slot) : Option BundleError :=
  let hdr (c : BitVec 8) : Option BundleError := some { cause := c, source := 0, detail := w.setWidth 64 }
  let live (s : Slot) : Bool := x.rp (fG s.word)
  let enters : Nat := (slots.filter fun s => live s && !(destsOf s.ins).isEmpty && (destsOf s.ins).any (!·.discarded)).length
  let endsLoop : Bool := (x.outer.active && x.outer.last == x.here) || (x.inner.active && x.inner.last == x.here)
  if hasRepeat (slots.flatMap fun s => (destsOf s.ins).flatMap Dest.regs) then hdr 0x05
  else if (x.delay ≠ .none ∧ slots.any fun s => isTransfer s.ins || isLoopOrHalt s.ins)
      ∨ (endsLoop ∧ slots.any fun s => isTransfer s.ins) then hdr 0x06
  else if 16 < x.land.length + enters then hdr 0x07
  else none

/-! ### The verdict on a context's next bundle -/

/-- The context's next bundle begun: results landed, offsets noted (R110, steps 1 and 2). -/
def State.beginBundle (s : State) (c : CtxId) (len : Nat) : State :=
  ({ s with cur := c }).setCtx c ((s.ctx c).begin len)

/-- What becomes of a context's next bundle. -/
inductive Verdict where
  /-- a precise fault -/
  | trap (t : TrapInfo)
  /-- the delivery of a deferred fault -/
  | deliver (f : PendFault) (epc btarg : Word)
  /-- blocked, with its slots -/
  | blocked (len : Nat) (slots : List Slot)
  /-- it would issue -/
  | ready (len : Nat) (slots : List Slot)
  deriving DecidableEq, Repr

/-- The guarded-true slots of a bundle. -/
def liveSlots (x : Ctx) (slots : List Slot) : List Slot := slots.filter fun s => x.rp (fG s.word)

/-- The fault that a bundle with these guarded-true slots delivers: the earliest-issued of those that qualify, once the bundle waits
for nothing issued before it (R298, R306). -/
def State.bundleDue (s : State) (is : List Instr) : Option PendFault :=
  (earliest (s.me.faults.filter fun f => is.any fun i => s.qualifies i f)).filter fun f => !is.any fun i => s.tooSoon i f

/-- The checks, deferred faults and waits of a context's next bundle, in the order of R293, R306 and R41. -/
def State.verdict (s : State) (c : CtxId) : Verdict :=
  let x := s.ctx c
  let bt := x.pendingTarget
  let info (e : BundleError) : TrapInfo :=
    { cause := e.cause, source := e.source, faddr := e.detail, epc := x.pc, btarg := bt }
  match x.readFault with
  | some (cause, d) => .trap { cause := cause, source := 2, faddr := d, epc := x.pc, btarg := bt }
  | none =>
    match bundleAt (s.codeOf x) x.pc with
    | none => .trap { cause := 0x08, source := 0, faddr := x.pc, epc := x.pc, btarg := bt }
    | some ws =>
      match parseBundle x.base x.baseExt ws with
      | .error e => .trap (info e)
      | .ok slots =>
        let b := s.beginBundle c ws.length
        match bundleRules b.me (ws.headD 0) slots with
        | some e => .trap (info e)
        | none =>
          let live := liveSlots b.me slots
          match live.findSome? fun sl => slotCheck sl.ins b with
          | some t => .trap t
          | none =>
            match b.bundleDue (live.map (·.ins)) with
            | some f => .deliver f x.pc bt
            | none =>
              if live.any fun sl => slotWaits sl.ins b then .blocked ws.length slots else .ready ws.length slots

/-! ### Between bundles -/

/-- Whether a context may issue bundles: it exists, has not ended or stopped, is not to be moved, is not being pre-empted
outside a rollback, and waits for no value, no extra cycle of its return stack and no end of its bundle or pass (R41, R111, R131,
R322, R326, R347, R350). -/
def Ctx.running (x : Ctx) : Bool :=
  x.live && !x.ended && !x.stopped && !x.halting && !(x.leaving && !x.rerunning) && x.trapWait.isNone && !x.closing
    && x.read.isNone && !x.stall && x.retiring.isNone

/-- The suspended commands of a context whose fault has been delivered and whose program goes on: they retry (R315). -/
def State.allowRetry (s : State) (c : CtxId) : State :=
  let x := s.ctx c
  let k := s.core c.core
  let mark (q : StreamCmd) : StreamCmd :=
    if q.ctx = c.ctx ∧ q.susp.isSome ∧ x.faults.all (fun f => f.id != q.id) then { q with retry := true } else q
  if x.live && !x.stopped && !x.trapped && !x.ended then
    s.setCore c.core { k with engines := k.engines.map fun e => e.onCmds mark }
  else s

/-- What a blocked bundle leaves behind, slot by slot, on the context as it stands before the bundle. -/
def State.noteAll (s : State) (c : CtxId) (len : Nat) (slots : List Slot) : State :=
  let b := s.beginBundle c len
  let live := liveSlots b.me slots
  -- a `gacq` waits for the grid only when nothing else keeps its bundle from issuing (R49)
  let notes (sl : Slot) : Bool := match sl.ins with
    | .gacq .. => live.all fun o => o.n == sl.n || !slotWaits o.ins b
    | _ => true
  (live.filter notes).foldl (fun s' sl => slotNote sl.ins s') { s with cur := c }

/-- A context between two bundles: the end of a pass, a software trap that has waited, a fault, a deferred fault, or what
its blocked bundle leaves behind (R39, R293, R306, R317). At the end of a pass a deferred fault waits for the commands issued before
its own (R298). -/
def State.prepare (s0 : State) (c : CtxId) : State :=
  let s := s0.allowRetry c
  let x := s.ctx c
  if !x.live || x.ended || x.stopped then s
  else if x.halting then
    match x.readFault with
    | some (cause, d) =>
      (s.setCtx c { x with halting := false, readFault := none }).takeTrap c
        { cause := cause, source := 2, faddr := d, epc := x.here, btarg := 0 }
    | none =>
      match earliest x.faults with
      | some f =>
        if ((s.core c.core).cmdIds c.ctx).any fun id => decide (id < f.id) then s
        else (s.setCtx c { x with halting := false }).deliver c f x.here 0
      | none => if s.passBusy c then s else s.endPass c
  else if x.closing then (if x.read.isNone then s.endBundle c else s)
  else match x.trapWait with
  | some n => if x.read.isNone then s.trapBundle c (n.setWidth 64) else s
  | none =>
    if x.running then
      match s.verdict c with
      | .trap t => (s.setCtx c { x with readFault := none }).takeTrap c t
      | .deliver f epc bt => s.deliver c f epc bt
      | .blocked len slots => s.noteAll c len slots
      | .ready _ _ => s
    else if x.leaving && x.readFault.isSome then
      match s.verdict c with
      | .trap t => (s.setCtx c { x with readFault := none }).takeTrap c t
      | _ => s
    else s

/-! ### The choice of a context (R43, R167) -/

/-- The ready context of highest PRIO; a tie goes round-robin, starting after the context that last won one. The second
component is the new winner of a tie (R43). -/
def Core.highest (k : Core) (ready : List (Fin 4)) : Option (Fin 4 × Option (Fin 4)) :=
  let prio (c : Fin 4) : Nat := (k.ctxs[c.val]'c.isLt).prio.toNat
  let top := ready.foldl (fun m c => max m (prio c)) 0
  let best := ready.filter fun c => prio c == top
  match best with
  | [] => none
  | [c] => some (c, none)
  | _ =>
    let order : List (Fin 4) := [k.lastTie + 1, k.lastTie + 2, k.lastTie + 3, k.lastTie]
    (order.find? fun c => best.contains c).map fun c => (c, some c)

/-- The context that the slot table gives this cycle (R43, R44). -/
def Core.pick (k : Core) (cycle : Nat) (ready : List (Fin 4)) : Option (Fin 4 × Option (Fin 4)) :=
  let e := (k.table[cycle % 32]'(by omega)).toNat
  if h : e < 4 then
    let c : Fin 4 := ⟨e, h⟩
    if ready.contains c then some (c, none)
    else if k.strict then none
    else k.highest ready
  else k.highest ready

/-- Whether a ready bundle is a `sync` whose cycle has come (R167). -/
def isSyncBundle (x : Ctx) (slots : List Slot) : Bool :=
  x.syncAt.isSome && (liveSlots x slots).any fun s => match s.ins with
    | .sync .. => true
    | _ => false

/-- The ready bundles of a core's contexts. -/
def State.readies (s : State) (n : CoreId) : List (Fin 4 × Nat × List Slot) :=
  (List.finRange 4).filterMap fun c =>
    if (s.ctx { core := n, ctx := c }).running then
      match s.verdict { core := n, ctx := c } with
      | .ready len slots => some (c, len, slots)
      | _ => none
    else none

/-- The context that issues a bundle in this cycle, with the winner of a tie: a `sync` whose cycle has come goes before
the slot table (R43, R167). -/
def State.choose (s : State) (n : CoreId) : Option ((Fin 4 × Nat × List Slot) × Option (Fin 4)) :=
  let rs := s.readies n
  match rs.find? fun r => isSyncBundle ((s.ctx { core := n, ctx := r.1 }).begin r.2.1) r.2.2 with
  | some r => some (r, none)
  | none =>
    match (s.core n).pick s.cycle (rs.map (·.1)) with
    | none => none
    | some (c, tie) => (rs.find? fun r => r.1 == c).map fun r => (r, tie)

/-- A slot's base updated as it issues, whatever its guard (R103). -/
def Block.rebase (b : Block) (sl : Slot) : Block :=
  { b with base := b.base.set sl.n.val sl.word sl.n.isLt, baseExt := if sl.n = 3 then sl.ext else b.baseExt }

/-- Whether a slot only reads state that another slot of its bundle may write: CP data memory, the special registers, a signal's
status (R27, R110). -/
def readsState : Instr → Bool
  | .ldI8 .. | .ldN8 .. | .ldI16 .. | .ldN16 .. | .ldI32 .. | .ldN32 .. | .ld64 .. | .mfs .. | .sstat .. => true
  | _ => false

/-- Whether a slot takes effect after every other of its bundle (R135, R136). -/
def endsBundle : Instr → Bool
  | .halt .. | .trap .. => true
  | _ => false

/-- The slots in the order in which they take effect: first those that only read, so that every read of a bundle comes before its
writes; then A, B, M, E; and last a `halt` or `trap` of slot A (R27, R110, R135, R136). -/
def effectOrder (slots : List Slot) : List Slot :=
  slots.filter (fun s => readsState s.ins) ++ slots.filter (fun s => !readsState s.ins && !endsBundle s.ins)
    ++ slots.filter fun s => endsBundle s.ins

/-- `EMPTY_BUNDLE`: a bundle with no slots issues for the context whose turn it is, counts as one of its bundles, and has no
other effect (R101). -/
def execEmptyBundle (s : State) : Out := .next ((s.beginBundle s.cur 1).endBundle s.cur)

end Sys2Proof.Machine
end

