-- ==== Sys2Proof/Machine/Control.lean ====
section
/-! DEFINITION. The meanings of the control transfers, hardware loops, `halt`, `trap`, and the special-register moves (R125 to
R136). -/

namespace Sys2Proof.Machine

/-! ### Transfers (R127 to R132) -/

/-- The bundle being issued holds a transfer: the next bundle is its delay bundle (R112). -/
def State.setXfer (s : State) (d : Delay) : State := s.setMe { s.me with xfer := d }

/-- A transfer that always issues: taken to `t` under a true guard, untaken under a false one (R106, R127). -/
def transfer (g : Pred) (t : Ctx → Transfer) (s : State) : Out :=
  if s.me.rp g then .next (s.setXfer (.taken (t s.me))) else .next (s.setXfer .untaken)

/-- A transfer with checks: `eff` sets its target and its other effects. -/
def checkedTransfer (i : Instr) (g : Pred) (eff : State → State) (s : State) : Out :=
  if s.me.rp g then issue i g eff s else .next (s.setXfer .untaken)

/-- The physical byte of entry `i` of a context's spill area (R99, R131). -/
def spillAddr (c : Fin 4) (i : Nat) : Nat := 0x3C000 + 0x1000 * c.val + 8 * i

/-- `push` onto the return stack: the oldest of eight resident entries spills, which costs a cycle (R131). -/
def State.pushReturn (s : State) (a : Word) : State :=
  let x := s.me
  match x.rstk with
  | old :: rest =>
    if 8 ≤ x.rstk.length then
      (s.setMe { x with rstk := rest ++ [a], spilled := x.spilled + 1, stall := true }).cpWrite s.cur.core (s.keyOf x)
        (spillAddr s.cur.ctx x.spilled) (leBytes 8 old.toNat)
    else s.setMe { x with rstk := x.rstk ++ [a] }
  | [] => s.setMe { x with rstk := [a] }

/-- `pop` from the return stack: the popped value, and the state, a spilled entry having returned (R131). -/
def State.popReturn (s : State) : Word × State :=
  let x := s.me
  let v := (x.rstk.getLast?).getD 0
  let rest := x.rstk.dropLast
  if x.spilled = 0 then (v, s.setMe { x with rstk := rest })
  else
    let w := BitVec.ofNat 64 (leNat (s.cpRead s.cur.core (s.keyOf x) (spillAddr s.cur.ctx (x.spilled - 1)) 8))
    (v, s.setMe { x with rstk := w :: rest, spilled := x.spilled - 1, stall := true })

/-- The target that `jt` reads from its table (R130). -/
def State.tableTarget (s : State) (a b : Reg) (n : BitVec 5) : Word :=
  match cpPhys s.myCore s.me (s.me.tableAddr a b n).toNat 4 with
  | some p => BitVec.ofNat 64 (leNat (s.cpRead s.cur.core (s.keyOf s.me) p 4))
  | none => 0

/-- `b`, `b.t`, `b.n` (R128). -/
def execB (g : Pred) (_q : Bool) (i : BitVec 20) (s : State) : Out := transfer g (fun x => .goto (x.relTarget i)) s

/-- `bi` (R129). -/
def execBi (g : Pred) (_q : Bool) (a : Reg) (s : State) : Out := transfer g (fun x => .goto (x.rx a)) s

/-- `jt` (R130). -/
def execJt (g : Pred) (q : Bool) (a b : Reg) (n : BitVec 5) (s : State) : Out :=
  checkedTransfer (.jt g q a b n) g (fun s => s.setXfer (.taken (.goto (s.tableTarget a b n)))) s

/-- `call` (R131). -/
def execCall (g : Pred) (q : Bool) (i : BitVec 20) (s : State) : Out :=
  checkedTransfer (.call g q i) g
    (fun s => (s.pushReturn s.returnAddress).setXfer (.taken (.goto (s.me.relTarget i)))) s

/-- `calli` (R131). -/
def execCalli (g : Pred) (q : Bool) (a : Reg) (s : State) : Out :=
  checkedTransfer (.calli g q a) g
    (fun s => (s.pushReturn s.returnAddress).setXfer (.taken (.goto (s.me.rx a)))) s

/-- `ret` (R131). -/
def execRet (g : Pred) (q : Bool) (s : State) : Out :=
  checkedTransfer (.ret g q) g (fun s => s.popReturn.2.setXfer (.taken (.goto s.popReturn.1))) s

/-- `rett` (R132, R319). -/
def execRett (g : Pred) (_q : Bool) (s : State) : Out := transfer g (fun x => .trapReturn x.epc) s

/-! ### Loops (R133) -/

/-- The offset that follows the bundle at an offset, or that offset itself where no whole bundle of the code image stands
there, so that fault 0x08 is found at it (R133, R356). -/
def State.afterBundle (s : State) (off : Word) : Word :=
  match bundleAt (s.codeOf s.me) off with
  | some ws => off + BitVec.ofNat 64 (4 * ws.length)
  | none => off

/-- `loop` (R133): with a count of 0 the context goes past the end bundle; otherwise the outer loop starts, or the inner
one while the outer is active. While only the inner loop is active, its outer one being over, the outer starts: the spec does not
say which (DESIGN CHOICE, log entry 49). -/
def execLoop (g : Pred) (d : Reg) (i : BitVec 15) (s : State) : Out :=
  issue (.loop g d i) g (fun s =>
    let x := s.me
    let c := (x.rx d).extractLsb' 0 32
    let l : HwLoop := { active := true, count := c, first := x.next, last := x.loopEnd i }
    if c = 0 then s.setMe { x with jump := some (s.afterBundle (x.loopEnd i)) }
    else if x.outer.active then s.setMe { x with inner := l }
    else s.setMe { x with outer := l }) s

/-! ### `halt` and `trap` (R135, R136) -/

/-- `halt`, after the other slots of its bundle: the pass ends, or waits for what its own bundle issued (R39, R135). -/
def execHalt (g : Pred) (q : Bool) (s : State) : Out :=
  issue (.halt g q) g (fun s =>
    if s.passBusy s.cur then s.setMe { s.me with halting := true, admitted := false }
    else s.endPass s.cur) s

/-- `trap`, after the other slots of its bundle; a value-returning access of that bundle is waited for (R136, R317). -/
def execTrap (g : Pred) (_q : Bool) (n : BitVec 15) (s : State) : Out :=
  issuePlain g (fun s =>
    if s.me.read.isSome then s.setMe { s.me with trapWait := some n, admitted := false }
    else s.trapBundle s.cur (n.setWidth 64)) s

/-! ### Special registers (R96 to R98, R125, R126) -/

/-- SLOTTAB as read: the half of the table in effect that the last write selected (R98). -/
def Core.slotTab (k : Core) : Word :=
  let lo := if k.half then 16 else 0
  let entries := (List.range 16).foldr (fun i (v : BitVec 48) => (v <<< 3) ||| (k.table.toList.getD (lo + i) 0).setWidth 48) 0
  BitVec.ofBool k.strict ++ BitVec.ofBool k.half ++ 0#14 ++ entries

/-- A special register as `mfs` reads it, zero-extended (R96, R125). -/
def State.special (s : State) (n : BitVec 5) : Word :=
  let x := s.me
  match n.toNat with
  | 0 => x.now.setWidth 64
  | 1 => x.nowc.setWidth 64
  | 2 => x.specd.setWidth 64
  | 3 => BitVec.ofNat 64 s.cur.ctx.val
  | 4 => BitVec.ofNat 64 s.cur.core.val
  | 5 => BitVec.ofNat 64 (s.cur.core.val % 80 / 4)
  | 6 => BitVec.ofNat 64 (s.cur.core.val / 80)
  | 7 => x.dom.setWidth 64
  | 8 => x.prio.setWidth 64
  | 9 => x.flags.setWidth 64
  | 10 => x.tvec
  | 11 => x.epc
  | 12 => x.btarg
  | 13 => x.cause.setWidth 64
  | 14 => x.faddr
  | 15 => BitVec.ofNat 64 s.cycle
  | 31 => s.myCore.slotTab
  | m =>
    if h : 16 ≤ m ∧ m < 22 then (x.coord[m - 16]'(by omega)).setWidth 64
    else if h : 24 ≤ m ∧ m < 30 then (x.ncoord[m - 24]'(by omega)).setWidth 64
    else 0

/-- A special register written by `mts`: the RO registers and SLOTTAB keep their values; the bits of FLAGS that events of
this cycle have set stay set (R97, R98, R125). -/
def Ctx.setSpecial (x : Ctx) (cycle : Nat) (n : BitVec 5) (v : Word) : Ctx :=
  match n.toNat with
  | 9 => { x with flags := v.extractLsb' 0 7 ||| (if x.flagAt = cycle then x.flagNew else 0) }
  | 10 => { x with tvec := v }
  | 11 => { x with epc := v }
  | 12 => { x with btarg := v }
  | 13 => { x with cause := v.extractLsb' 0 8 }
  | 14 => { x with faddr := v }
  | _ => x

/-- `mfs`, latency 1 (R125, R126). -/
def execMfs (g : Pred) (q : Bool) (d : Reg) (n : BitVec 5) (s : State) : Out :=
  issue (.mfs g q d n) g (fun s => result (.x d) (s.special n) 1 q s) s

/-- `mts` (R125). -/
def execMts (g : Pred) (_q : Bool) (d : Reg) (n : BitVec 5) (s : State) : Out :=
  issuePlain g (fun s => s.setMe (s.me.setSpecial s.cycle n (s.me.rx d))) s

end Sys2Proof.Machine
end

