-- ==== Sys2Proof/Machine/CpMem.lean ====
section
/-! DEFINITION. The meanings of the loads and stores of CP data memory (R139 to R141). -/

namespace Sys2Proof.Machine

/-- The number that `w` bytes of CP data memory at the address of a load give (R140). -/
def State.cpLoad (s : State) (a : Word) (w : Nat) : Nat :=
  match cpPhys s.myCore s.me a.toNat w with
  | some p => leNat (s.cpRead s.cur.core (s.keyOf s.me) p w)
  | none => 0

/-- A load: its value enters flight with latency 3 (R111, R140). -/
def loadEffect (q : Bool) (d a : Reg) (n : BitVec 10) (w : Nat) (ext : Nat → Word) (s : State) : State :=
  result (.x d) (ext (s.cpLoad (s.me.addr a n) w)) 3 q s

/-- A store: the low `w` bytes of xD are written when the bundle issues (R140). -/
def storeEffect (d a : Reg) (n : BitVec 10) (w : Nat) (s : State) : State :=
  match cpPhys s.myCore s.me (s.me.addr a n).toNat w with
  | some p => s.cpWrite s.cur.core (s.keyOf s.me) p (leBytes w (s.me.rx d).toNat)
  | none => s

/-- `ld.i8` (R140). -/
def execLdI8 (g : Pred) (q : Bool) (d a : Reg) (i : BitVec 10) (s : State) : Out :=
  issue (.ldI8 g q d a i) g (loadEffect q d a i 1 (sextBytes 1)) s

/-- `ld.n8` (R140). -/
def execLdN8 (g : Pred) (q : Bool) (d a : Reg) (i : BitVec 10) (s : State) : Out :=
  issue (.ldN8 g q d a i) g (loadEffect q d a i 1 zextBytes) s

/-- `ld.i16` (R140). -/
def execLdI16 (g : Pred) (q : Bool) (d a : Reg) (i : BitVec 10) (s : State) : Out :=
  issue (.ldI16 g q d a i) g (loadEffect q d a i 2 (sextBytes 2)) s

/-- `ld.n16` (R140). -/
def execLdN16 (g : Pred) (q : Bool) (d a : Reg) (i : BitVec 10) (s : State) : Out :=
  issue (.ldN16 g q d a i) g (loadEffect q d a i 2 zextBytes) s

/-- `ld.i32` (R140). -/
def execLdI32 (g : Pred) (q : Bool) (d a : Reg) (i : BitVec 10) (s : State) : Out :=
  issue (.ldI32 g q d a i) g (loadEffect q d a i 4 (sextBytes 4)) s

/-- `ld.n32` (R140). -/
def execLdN32 (g : Pred) (q : Bool) (d a : Reg) (i : BitVec 10) (s : State) : Out :=
  issue (.ldN32 g q d a i) g (loadEffect q d a i 4 zextBytes) s

/-- `ld.64` (R140). -/
def execLd64 (g : Pred) (q : Bool) (d a : Reg) (i : BitVec 10) (s : State) : Out :=
  issue (.ld64 g q d a i) g (loadEffect q d a i 8 zextBytes) s

/-- `st.8` (R140). -/
def execSt8 (g : Pred) (q : Bool) (d a : Reg) (i : BitVec 10) (s : State) : Out :=
  issue (.st8 g q d a i) g (storeEffect d a i 1) s

/-- `st.16` (R140). -/
def execSt16 (g : Pred) (q : Bool) (d a : Reg) (i : BitVec 10) (s : State) : Out :=
  issue (.st16 g q d a i) g (storeEffect d a i 2) s

/-- `st.32` (R140). -/
def execSt32 (g : Pred) (q : Bool) (d a : Reg) (i : BitVec 10) (s : State) : Out :=
  issue (.st32 g q d a i) g (storeEffect d a i 4) s

/-- `st.64` (R140). -/
def execSt64 (g : Pred) (q : Bool) (d a : Reg) (i : BitVec 10) (s : State) : Out :=
  issue (.st64 g q d a i) g (storeEffect d a i 8) s

end Sys2Proof.Machine
end

