-- ==== Sys2Proof/Machine/Flags.lean ====
section
/-! DEFINITION. The sticky flags and the rounding field (R77, R78, R79, R97). -/

namespace Sys2Proof.Machine

/-- The sticky flags as FLAGS holds them (R97). -/
abbrev FlagSet := BitVec 7

/-- Invalid (R79). -/
def fNV : FlagSet := 1
/-- IEEE overflow (R79). -/
def fOF : FlagSet := 2
/-- IEEE underflow (R79). -/
def fUF : FlagSet := 4
/-- Inexact (R79). -/
def fNX : FlagSet := 8
/-- Saturation (R79). -/
def fSAT : FlagSet := 16
/-- Level saturation (R79). -/
def fLS : FlagSet := 32
/-- Level crossing (R79). -/
def fLX : FlagSet := 64

/-- A flag under a condition. -/
def when (c : Bool) (f : FlagSet) : FlagSet := if c then f else 0

/-- A rounding field with the random value that code 101 compares (R77, R78). -/
structure Rounding where
  mode : BitVec 3
  u : Lane := 0
  deriving DecidableEq, Repr

/-- Nearest, ties to even. -/
def Rounding.nearest : Rounding := { mode := 0 }

/-- Whether the neighbour of larger magnitude is chosen: the exact magnitude lies `r / den` of the way from `lo` to `hi`,
0 < r < den; `odd` is the last bit of `lo`'s code; `neg` is the sign (R77). The reserved code 111 reaches no operation
(R302). -/
def Rounding.up (m : Rounding) (neg odd : Bool) (r den : Nat) : Bool :=
  match m.mode.toNat with
  | 0 => decide (2 * r > den) || (decide (2 * r = den) && odd)
  | 1 => false
  | 2 => !neg
  | 3 => neg
  | 4 => decide (2 * r ≥ den)
  | 5 => decide (m.u.toNat * den < r * 2 ^ 32)
  | 6 => !odd
  | _ => false

/-- A magnitude `num / den` rounded to an integer, and whether that changed it (R77, R90). -/
def roundNat (m : Rounding) (neg : Bool) (num den : Nat) : Nat × Bool :=
  let q := num / den
  let r := num % den
  if r = 0 then (q, false) else ((if m.up neg (q % 2 == 1) r den then q + 1 else q), true)

end Sys2Proof.Machine
end

