-- ==== Sys2Proof/Machine/Fp.lean ====
section
/-! DEFINITION. Exact numbers, and the conversions between them and the integer, BF16, FP32 and MX formats (R75 to R77, R80, R81,
R90). -/

namespace Sys2Proof.Machine

/-- An exact value: NaN or NaR, an infinity, or a magnitude `num / den` with a sign (of a zero too). -/
inductive Num where
  | nan
  | inf (neg : Bool)
  | fin (neg : Bool) (num den : Nat)
  deriving DecidableEq, Repr

namespace Num

/-- An integer. -/
def ofInt (i : Int) : Num := .fin (decide (i < 0)) i.natAbs 1

/-- An integer times a power of two. -/
def dyadic (i : Int) (e : Int) : Num :=
  if 0 ≤ e then .fin (decide (i < 0)) (i.natAbs * 2 ^ e.toNat) 1 else .fin (decide (i < 0)) i.natAbs (2 ^ (-e).toNat)

/-- Whether it is NaN. -/
def isNan : Num → Bool
  | .nan => true
  | _ => false

/-- Whether it is an infinity. -/
def isInf : Num → Bool
  | .inf _ => true
  | _ => false

/-- Whether it is zero. -/
def isZero : Num → Bool
  | .fin _ n _ => n == 0
  | _ => false

/-- The sign bit. -/
def isNeg : Num → Bool
  | .fin s _ _ => s
  | .inf s => s
  | .nan => false

/-- The negated value. -/
def neg : Num → Num
  | .fin s n d => .fin (!s) n d
  | .inf s => .inf (!s)
  | .nan => .nan

/-- The magnitude. -/
def abs : Num → Num
  | .fin _ n d => .fin false n d
  | .inf _ => .inf false
  | .nan => .nan

/-- The signed numerator of a finite value. -/
def signed : Num → Int
  | .fin s n _ => if s then -(n : Int) else n
  | _ => 0

/-- The denominator of a finite value. -/
def den : Num → Nat
  | .fin _ _ d => d
  | _ => 1

/-- Whether a value lies below another; −∞ below and +∞ above every finite value; zeros of both signs are equal. -/
def lt : Num → Num → Bool
  | .fin s n d, .fin s' n' d' => decide ((Num.fin s n d).signed * d' < (Num.fin s' n' d').signed * d)
  | .inf s, .fin _ _ _ => s
  | .fin _ _ _, .inf s => !s
  | .inf s, .inf s' => s && !s'
  | _, _ => false

/-- Whether two values compare equal. -/
def eq : Num → Num → Bool
  | .fin s n d, .fin s' n' d' => decide ((Num.fin s n d).signed * d' = (Num.fin s' n' d').signed * d)
  | .inf s, .inf s' => s == s'
  | _, _ => false

end Num

/-! ### IEEE formats -/

/-- BF16 or FP32: the significand's precision in bits; both have eight exponent bits (R76). -/
inductive FpFmt where
  | bf16 | fp32
  deriving DecidableEq, Repr

/-- The precision of the significand. -/
def FpFmt.prec : FpFmt → Nat
  | .bf16 => 8
  | .fp32 => 24

/-- The code of the positive infinity; its sign bit is the bit above the exponent. -/
def FpFmt.infCode (f : FpFmt) : Nat := 255 * 2 ^ (f.prec - 1)

/-- The weight of the sign bit. -/
def FpFmt.signBit (f : FpFmt) : Nat := 256 * 2 ^ (f.prec - 1)

/-- The canonical quiet NaN (R76). -/
def FpFmt.nanCode (f : FpFmt) : Nat := f.infCode + 2 ^ (f.prec - 2)

/-- The exact value of a code (R76). -/
def FpFmt.decode (f : FpFmt) (c : Nat) : Num :=
  let s := decide (c / f.signBit % 2 = 1)
  let e := c / 2 ^ (f.prec - 1) % 256
  let m := c % 2 ^ (f.prec - 1)
  if e = 255 then (if m = 0 then .inf s else .nan)
  else
    let sig := if e = 0 then m else m + 2 ^ (f.prec - 1)
    let ex : Int := (if e = 0 then 1 else e) - 126 - f.prec
    if 0 ≤ ex then .fin s (sig * 2 ^ ex.toNat) 1 else .fin s sig (2 ^ (-ex).toNat)

/-- The exponent of the leading bit of a positive magnitude `n / d`. -/
def floorLog2 (n d : Nat) : Int :=
  let g : Int := (Nat.log2 n : Int) - (Nat.log2 d : Int)
  let below : Bool := if 0 ≤ g then decide (n < d * 2 ^ g.toNat) else decide (n * 2 ^ (-g).toNat < d)
  if below then g - 1 else g

/-- A magnitude `n / d` divided by a power of two, as a fraction. -/
def scaleDown (n d : Nat) (k : Int) : Nat × Nat :=
  if 0 ≤ k then (n, d * 2 ^ k.toNat) else (n * 2 ^ (-k).toNat, d)

/-- A finite value rounded once to an IEEE format, with its flags (R76, R77, R79). `sat` is the `.sat` form: a result
beyond the largest finite magnitude gives that magnitude and SAT (R89). -/
def FpFmt.round (f : FpFmt) (m : Rounding) (sat : Bool) : Num → Nat × FlagSet
  | .nan => (f.nanCode, 0)
  | .inf s => ((if s then f.signBit else 0) + f.infCode, 0)
  | .fin s n d =>
    let sg := if s then f.signBit else 0
    if n = 0 then (sg, 0)
    else
      let e := floorLog2 n d
      let ulp : Int := max e (-126) - (f.prec - 1)
      let (n1, d1) := scaleDown n d ulp
      let (q, nx) := roundNat m s n1 d1
      let code := (max e (-126) + 126).toNat * 2 ^ (f.prec - 1) + q
      if code ≥ f.infCode then
        if sat then (sg + f.infCode - 1, fSAT ||| fNX)
        else
          let toInf := m.mode = 0 ∨ m.mode = 4 ∨ (m.mode = 2 ∧ s = false) ∨ (m.mode = 3 ∧ s = true)
          ((if toInf then sg + f.infCode else sg + f.infCode - 1), fOF ||| fNX)
      else
        let tiny :=
          if e < -126 then
            let (n2, d2) := scaleDown n d (e - (f.prec - 1))
            !(decide (e = -127) && decide ((roundNat m s n2 d2).1 = 2 ^ f.prec))
          else false
        (sg + code, when nx fNX ||| when (tiny && nx) fUF)

/-! ### Integers -/

/-- The value of a `w`-bit integer code, signed or unsigned. -/
def intOf (signed : Bool) (w c : Nat) : Int :=
  if signed ∧ 2 ^ (w - 1) ≤ c then (c : Int) - 2 ^ w else c

/-- The `w`-bit code of an integer, modulo 2^w. -/
def codeOf (w : Nat) (i : Int) : Nat := (i % (2 ^ w : Nat)).toNat

/-- An integer clamped to a format's range, as a code, and whether it was clamped (R75). -/
def clampInt (signed : Bool) (w : Nat) (i : Int) : Nat × Bool :=
  let lo : Int := if signed then -(2 ^ (w - 1) : Nat) else 0
  let hi : Int := if signed then (2 ^ (w - 1) : Nat) - 1 else (2 ^ w : Nat) - 1
  if i < lo then (codeOf w lo, true) else if i > hi then (codeOf w hi, true) else (codeOf w i, false)

/-- A value converted to an integer format: rounded, then clamped (R90). -/
def toIntFmt (m : Rounding) (signed : Bool) (w : Nat) : Num → Nat × FlagSet
  | .nan => (0, fNV)
  | .inf s => ((clampInt signed w (if s then -(2 ^ 200 : Nat) else (2 ^ 200 : Nat))).1, fSAT)
  | .fin s n d =>
    let (q, nx) := roundNat m s n d
    let (c, cl) := clampInt signed w (if s then -(q : Int) else q)
    (c, when nx fNX ||| when cl fSAT)

/-! ### MX blocks -/

/-- The value of an MX element of width `n` with scale code `e`; NaN in a NaR block (R80). -/
def mxValue (n q e : Nat) : Num :=
  if e = 255 then .nan else .dyadic (intOf true n q) ((e : Int) - 127 - (n - 2))

/-- The larger magnitude of a list of finite values, as a fraction. -/
def maxMag : List Num → Nat × Nat
  | [] => (0, 1)
  | .fin _ n d :: r => let (n', d') := maxMag r; if n * d' > n' * d then (n, d) else (n', d')
  | _ :: r => maxMag r

/-- One element of a block conversion: rounded to an integer and clamped (R81, steps 4 and 5). -/
def mxElement (n : Nat) (e : Nat) (m : Rounding) : Num → Nat × FlagSet
  | .fin s a d =>
    let (a', d') := scaleDown a d ((e : Int) - 127 - (n - 2))
    let (q, nx) := roundNat m s a' d'
    let (c, cl) := clampInt true n (if s then -(q : Int) else q)
    (c, when nx fNX ||| when cl fSAT)
  | _ => (0, 0)

/-- A block of values converted to an MX block: the scale code, the element codes, and the flags (R81). Each element
has its own rounding. -/
def mxBlock (n : Nat) (vs : List Num) (ms : List Rounding) : Nat × List Nat × FlagSet :=
  if vs.any (fun v => v.isNan || v.isInf) then (255, vs.map (fun _ => 0), fNV)
  else
    let (a, d) := maxMag vs
    if a = 0 then (0, vs.map (fun _ => 0), 0)
    else
      let e := (min (max (floorLog2 a d + 127) 0) 254).toNat
      let rs := List.zipWith (fun v m => mxElement n e m v) vs ms
      (e, rs.map (·.1), rs.foldl (fun f r => f ||| r.2) 0)

end Sys2Proof.Machine
end

