-- ==== Sys2Proof/Machine/Lanes.lean ====
section
/-! DEFINITION. The ALU and MUL units of a tile: elements of a row, the operations of each port, and conversions between integer
and IEEE formats (R185 to R196). -/

namespace Sys2Proof.Machine

/-! ### Elements of a row -/

/-- Element `e` of width `w` (R74). -/
def elemAt (w : Nat) (r : Row) (e : Nat) : Nat := (r.extractLsb' (w * e) w).toNat

/-- A row from its elements of width `w`, element 0 first (R74). -/
def rowOfElems (w : Nat) : List Nat → Row
  | [] => 0
  | x :: r => (rowOfElems w r <<< w) ||| BitVec.ofNat 2048 (x % 2 ^ w)

/-- The random value against which result element `e` of width `w` compares (R188). -/
def drawU (draw : Row) (w e : Nat) : Lane := (laneOf draw (w * e / 32)).rotateLeft (w * (e % (32 / w)) % 32)

/-- The rounding of result element `e` of width `w` (R77, R188). -/
def roundingAt (mode : BitVec 3) (draw : Row) (w e : Nat) : Rounding := { mode := mode, u := drawU draw w e }

/-- A result element's code and flags. -/
abbrev Elem := Nat × FlagSet

/-- A row from result elements, with the flags of those in lanes that the mask lets through (R187). -/
def packElems (w : Nat) (mask : BitVec 64) (es : List Elem) : Row × FlagSet :=
  (rowOfElems w (es.map (·.1)),
   ((List.range es.length).zip es).foldl (fun f (e, x) => if mask.getLsbD (w * e / 32) then f ||| x.2 else f) 0)

/-- A row with the lanes of a mask taken from a new row (R172). -/
def mergeLanes (old new : Row) (mask : BitVec 64) : Row :=
  rowOfLanes ((List.range 64).map fun l => if mask.getLsbD l then laneOf new l else laneOf old l)

/-! ### Type classes and operation tables -/

/-- The type class of an ALU or MUL port, in port order (R186). -/
inductive LaneClass where
  | i8 | i16 | i32 | bf16 | fp32
  deriving DecidableEq, Repr

namespace LaneClass

/-- The type class of port `p` counted from the unit's first port (R174). -/
def ofPort : Nat → LaneClass
  | 0 => i8
  | 1 => i16
  | 2 => i32
  | 3 => bf16
  | _ => fp32

/-- The element width (R186). -/
def width : LaneClass → Nat
  | i8 => 8
  | i16 | bf16 => 16
  | i32 | fp32 => 32

/-- Whether the class is an integer class. -/
def isInt : LaneClass → Bool
  | i8 | i16 | i32 => true
  | bf16 | fp32 => false

/-- The format of a floating-point class. -/
def fmt : LaneClass → FpFmt
  | fp32 => .fp32
  | _ => .bf16

/-- Whether the ALU port defines an OP (R190, R192). -/
def aluOp (c : LaneClass) (op : Nat) : Bool := if c.isInt then decide (op ≤ 29) else decide (op ≤ 17)

/-- Whether the ALU operation rounds (R190, R192). -/
def aluRounds (c : LaneClass) (op : Nat) : Bool := !c.isInt && (op == 0 || op == 1 || op == 7)

/-- Whether the MUL port defines an OP (R194 to R196). -/
def mulOp (c : LaneClass) (op : Nat) : Bool :=
  (if c.isInt then decide (op ≤ 7) else decide (op ≤ 3)) ||
    (decide (16 ≤ op ∧ op ≤ 19) && !(op == 19 && (c == i32 || c == fp32)))

/-- Whether the MUL operation rounds (R194 to R196). -/
def mulRounds (c : LaneClass) (op : Nat) : Bool :=
  match c with
  | i8 => op == 7
  | i16 => op == 7 || op == 19
  | i32 => op == 7 || op == 16 || op == 17
  | bf16 => decide (op ≤ 3) || op == 18 || op == 19
  | fp32 => decide (op ≤ 3) || (decide (16 ≤ op ∧ op ≤ 18))

end LaneClass

/-! ### Integer ALU (R190) -/

/-- An integer clamped by `sat_s` or `sat_n`, with SAT when that changes it (R190). -/
def satElem (signed : Bool) (w : Nat) (i : Int) : Elem :=
  let (c, cl) := clampInt signed w i
  (c, when cl fSAT)

/-- All ones or 0 (R191). -/
def boolElem (w : Nat) (b : Bool) : Elem := (if b then 2 ^ w - 1 else 0, 0)

/-- The number of 0 bits above the highest 1 bit of a `w`-bit element (R190). -/
def clzNat (w a : Nat) : Nat := if a = 0 then w else w - 1 - Nat.log2 a

/-- The number of 1 bits of a `w`-bit element. -/
def popNat (w a : Nat) : Nat := ((List.range w).filter fun i => a.testBit i).length

/-- An operation of an integer ALU port on one element; `g` are the lane's bits of g0 and g1 (R190). -/
def aluInt (w op a b : Nat) (g : Bool × Bool) : Elem :=
  let sa := intOf true w a
  let sb := intOf true w b
  let k := b % w
  match op with
  | 0 => ((a + b) % 2 ^ w, 0)
  | 1 => (codeOf w ((a : Int) - b), 0)
  | 2 => satElem true w (sa + sb)
  | 3 => satElem true w (sa - sb)
  | 4 => satElem false w ((a : Int) + b)
  | 5 => satElem false w ((a : Int) - b)
  | 6 => (if sa < sb then a else b, 0)
  | 7 => (if sa < sb then b else a, 0)
  | 8 => (min a b, 0)
  | 9 => (max a b, 0)
  | 10 => (a &&& b, 0)
  | 11 => (a ||| b, 0)
  | 12 => (a ^^^ b, 0)
  | 13 => (a &&& (2 ^ w - 1 - b), 0)
  | 14 => (a * 2 ^ k % 2 ^ w, 0)
  | 15 => (a / 2 ^ k, 0)
  | 16 => (codeOf w (sa / (2 ^ k : Nat)), 0)
  | 17 => (a * 2 ^ k % 2 ^ w + a / 2 ^ (w - k), 0)
  | 18 => satElem true w sa.natAbs
  | 19 => satElem true w (-sa)
  | 20 => (clzNat w a, 0)
  | 21 => (popNat w a, 0)
  | 22 => boolElem w (a == b)
  | 23 => boolElem w (a != b)
  | 24 => boolElem w (decide (sa < sb))
  | 25 => boolElem w (decide (sa ≤ sb))
  | 26 => boolElem w (decide (a < b))
  | 27 => boolElem w (decide (a ≤ b))
  | 28 => (if g.1 then a else b, 0)
  | _ => (if g.2 then a else b, 0)

/-! ### Exact IEEE arithmetic (R192, R193, R195) -/

/-- The exact sum, with the sign of an exact zero: +0, or −0 toward −∞, or the common sign of two zeros; ∞ − ∞ is invalid
(R193). -/
def addNum (mode : BitVec 3) (x y : Num) : Num × FlagSet :=
  match x, y with
  | .nan, _ | _, .nan => (.nan, 0)
  | .inf s, .inf t => if s = t then (.inf s, 0) else (.nan, fNV)
  | .inf s, _ => (.inf s, 0)
  | _, .inf t => (.inf t, 0)
  | .fin s n d, .fin t m e =>
    let v := (Num.fin s n d).signed * e + (Num.fin t m e).signed * d
    if v = 0 then (.fin (if n = 0 ∧ m = 0 ∧ s = t then s else mode == 3) 0 1, 0)
    else (.fin (decide (v < 0)) v.natAbs (d * e), 0)

/-- The exact product; 0 × ∞ is invalid (R195). -/
def mulNum (x y : Num) : Num × FlagSet :=
  match x, y with
  | .nan, _ | _, .nan => (.nan, 0)
  | .inf s, .inf t => (.inf (s != t), 0)
  | .inf s, .fin t m _ => if m = 0 then (.nan, fNV) else (.inf (s != t), 0)
  | .fin s n _, .inf t => if n = 0 then (.nan, fNV) else (.inf (s != t), 0)
  | .fin s n d, .fin t m e => (.fin (s != t) (n * m) (d * e), 0)

/-- The exact fused multiply-add; a NaN operand gives NaN without NV (R195). -/
def fmaNum (mode : BitVec 3) (x y z : Num) : Num × FlagSet :=
  if x.isNan || y.isNan || z.isNan then (.nan, 0)
  else
    let (p, f) := mulNum x y
    if f = fNV then (.nan, fNV) else addNum mode p z

/-- A result rounded once, its flags joined to those of the exact operation. -/
def FpFmt.finish (f : FpFmt) (m : Rounding) (x : Num × FlagSet) : Elem :=
  let (c, fl) := f.round m false x.1
  (c, fl ||| x.2)

/-- A value rounded to an integral value in the same format; ±0 and ±∞ are unchanged (R192, R193). -/
def FpFmt.rint (f : FpFmt) (m : Rounding) (a : Nat) : Elem :=
  match f.decode a with
  | .fin s n d =>
    let (q, nx) := roundNat m s n d
    ((f.round m false (.fin s q 1)).1, when nx fNX)
  | .nan => (f.nanCode, 0)
  | .inf _ => (a, 0)

/-- The place of a code in the order of `min` and `max`: −0 below +0 (R193). -/
def FpFmt.order (f : FpFmt) (a : Nat) : Int :=
  if a / f.signBit % 2 = 1 then -((a % f.signBit : Nat) : Int) - 1 else (a % f.signBit : Nat)

/-- An operation of a floating-point ALU port on one element (R192, R193). -/
def aluFp (f : FpFmt) (op : Nat) (m : Rounding) (a b : Nat) (g : Bool × Bool) : Elem :=
  let w := if f = .fp32 then 32 else 16
  let x := f.decode a
  let y := f.decode b
  let un := x.isNan || y.isNan
  let mag := a % f.signBit
  match op with
  | 0 => f.finish m (addNum m.mode x y)
  | 1 => f.finish m (addNum m.mode x y.neg)
  | 2 => (if un then f.nanCode else if f.order b < f.order a then b else a, 0)
  | 3 => (if un then f.nanCode else if f.order a < f.order b then b else a, 0)
  | 4 => (if x.isNan then f.nanCode else mag, 0)
  | 5 => (if x.isNan then f.nanCode else if mag = a then a + f.signBit else mag, 0)
  | 6 => (if un then f.nanCode else mag + b / f.signBit % 2 * f.signBit, 0)
  | 7 => f.rint m a
  | 8 => boolElem w (!un && x.eq y)
  | 9 => boolElem w (un || !x.eq y)
  | 10 => boolElem w (!un && x.lt y)
  | 11 => boolElem w (!un && (x.lt y || x.eq y))
  | 12 => boolElem w un
  | 13 => (if g.1 then a else b, 0)
  | 14 => (if g.2 then a else b, 0)
  | 15 => (a &&& b, 0)
  | 16 => (a ||| b, 0)
  | _ => (a ^^^ b, 0)

/-! ### MUL (R194 to R196) -/

/-- An operation of an integer MUL port on one element (R194). -/
def mulInt (w op : Nat) (m : Rounding) (a b c : Nat) : Elem :=
  let sa := intOf true w a
  let sb := intOf true w b
  let sc := intOf true w c
  match op with
  | 0 => (a * b % 2 ^ w, 0)
  | 1 => (codeOf w (sa * sb / (2 ^ w : Nat)), 0)
  | 2 => (a * b / 2 ^ w, 0)
  | 3 => satElem true w (sa * sb)
  | 4 => ((a * b + c) % 2 ^ w, 0)
  | 5 => satElem true w (sa * sb + sc)
  | 6 => (codeOf w (sc - sa * sb), 0)
  | _ =>
    let p := sa * sb
    let (q, nx) := roundNat m (decide (p < 0)) p.natAbs (2 ^ (w - 1))
    let (r, f) := satElem true w (if p < 0 then -(q : Int) else q)
    (r, f ||| when nx fNX)

/-- An operation of a floating-point MUL port on one element (R195). -/
def mulFp (f : FpFmt) (op : Nat) (m : Rounding) (a b c : Nat) : Elem :=
  let x := f.decode a
  let y := f.decode b
  let z := f.decode c
  match op with
  | 0 => f.finish m (mulNum x y)
  | 1 => f.finish m (fmaNum m.mode x y z)
  | 2 => f.finish m (fmaNum m.mode x y z.neg)
  | _ => f.finish m (fmaNum m.mode x.neg y z)

/-- The shape of a conversion (R196). -/
inductive CvtShape where
  | lo | hi | pair | each
  deriving DecidableEq, Repr

/-- The source element of result element `e` of `n`, of source width `w` (R196). -/
def cvtSource (sh : CvtShape) (w n : Nat) (a b : Row) (e : Nat) : Nat :=
  match sh with
  | .lo | .each => elemAt w a e
  | .hi => elemAt w a (n + e)
  | .pair => if e < n / 2 then elemAt w a e else elemAt w b (e - n / 2)

/-- A conversion's shape, result class, by port class and OP (R196). -/
def cvtOf (c : LaneClass) (op : Nat) : CvtShape × LaneClass :=
  match c, op with
  | .i8, 16 => (.lo, .i16)
  | .i8, 17 => (.hi, .i16)
  | .i8, 18 => (.lo, .bf16)
  | .i8, _ => (.hi, .bf16)
  | .i16, 16 => (.lo, .i32)
  | .i16, 17 => (.hi, .i32)
  | .i16, 18 => (.pair, .i8)
  | .i16, _ => (.each, .bf16)
  | .i32, 16 => (.each, .fp32)
  | .i32, 17 => (.pair, .bf16)
  | .i32, _ => (.pair, .i16)
  | .bf16, 16 => (.lo, .fp32)
  | .bf16, 17 => (.hi, .fp32)
  | .bf16, 18 => (.each, .i16)
  | .bf16, _ => (.pair, .i8)
  | .fp32, 16 => (.pair, .bf16)
  | .fp32, 17 => (.each, .i32)
  | .fp32, _ => (.pair, .i16)

/-- One element converted between classes (R90, R196). -/
def cvtElem (src dst : LaneClass) (m : Rounding) (a : Nat) : Elem :=
  if src.isInt then
    let v := intOf true src.width a
    if dst.isInt then satElem true dst.width v else dst.fmt.round m false (.ofInt v)
  else
    let v := src.fmt.decode a
    if dst.isInt then toIntFmt m true dst.width v else dst.fmt.round m false v

/-! ### Rows -/

/-- The bits of g0 and g1 for element `e` of width `w`. -/
def laneSel (g0 g1 : BitVec 64) (w e : Nat) : Bool × Bool := (g0.getLsbD (w * e / 32), g1.getLsbD (w * e / 32))

/-- The result of an ALU operation on rows (R185, R186, R190, R192). -/
def aluRow (c : LaneClass) (op : Nat) (rnd : BitVec 3) (draw a b : Row) (g0 g1 : BitVec 64) : List Elem :=
  let w := c.width
  (List.range (2048 / w)).map fun e =>
    let x := elemAt w a e
    let y := elemAt w b e
    if c.isInt then aluInt w op x y (laneSel g0 g1 w e)
    else aluFp c.fmt op (roundingAt rnd draw w e) x y (laneSel g0 g1 w e)

/-- The width of the result elements of a MUL operation (R186, R196). -/
def mulWidth (c : LaneClass) (op : Nat) : Nat := if 16 ≤ op then (cvtOf c op).2.width else c.width

/-- The result of a MUL operation on rows (R185, R186, R194 to R196). -/
def mulRow (c : LaneClass) (op : Nat) (rnd : BitVec 3) (draw a b d : Row) : List Elem :=
  let w := mulWidth c op
  let n := 2048 / w
  (List.range n).map fun e =>
    let m := roundingAt rnd draw w e
    if 16 ≤ op then
      let (sh, dst) := cvtOf c op
      cvtElem c dst m (cvtSource sh c.width n a b e)
    else
      let x := elemAt w a e
      let y := elemAt w b e
      let z := elemAt w d e
      if c.isInt then mulInt w op m x y z else mulFp c.fmt op m x y z

end Sys2Proof.Machine
end

