-- ==== Sys2Proof/Machine/SignalOps.lean ====
section
/-! DEFINITION. The meanings of `tld`, `tst` and `rst` (R142 to R145). -/

namespace Sys2Proof.Machine

/-- The 64-bit unit that `tld` reads: the start value in both lanes past the written history, else the unit of row 0 of
sample ADV − lag (R60, R143). -/
def Signal.tap (g : Signal) (lag u : Nat) : Word :=
  if g.adv < lag then g.plan.start ++ g.plan.start else unitOf (g.rowAt (g.adv - lag) 0) u

/-- A signal with unit `u` of row 0 of sample ADV + `a` written (R63, R144). -/
def Signal.writeUnit (g : Signal) (a u : Nat) (now : BitVec 48) (v : Word) : Signal :=
  g.writeRow (g.adv + a) now 0 fun r => insertBits r (64 * u) v

/-- An unbound signal is bound to its first producer (R56). -/
def Signal.bindTo (g : Signal) (b : Binding) : Signal := if g.bind = .unbound then { g with bind := b } else g

/-- `tld`, latency 4 (R143). -/
def execTld (g : Pred) (q : Bool) (d : Reg) (n : SigNum) (lag : BitVec 4) (u : BitVec 5) (s : State) : Out :=
  issue (.tld g q d n lag u) g (fun s =>
    match s.me.sig n with
    | some sg => result (.x d) (sg.tap lag.toNat u.toNat) 4 q s
    | none => s) s

/-- `tst` (R144). -/
def execTst (g : Pred) (q : Bool) (d : Reg) (n : SigNum) (a : BitVec 4) (u : BitVec 5) (s : State) : Out :=
  issue (.tst g q d n a u) g (fun s =>
    let x := s.me
    match x.sig n with
    | some sg => s.setMe (x.setSig n (some ((sg.bindTo .cp).writeUnit a.toNat u.toNat x.now (x.rx d))))
    | none => s) s

/-- `rst` (R145): the write enters the core's remote-store queue; in a checkpointed interval it is held there (R345). -/
def execRst (g : Pred) (q : Bool) (d : Reg) (n : SigNum) (pos a : BitVec 2) (u : BitVec 5) (s : State) : Out :=
  issue (.rst g q d n pos a u) g (fun s =>
    let x := s.me
    let k := s.myCore
    let r : Remote :=
      { id := s.cmdSeq, ctx := s.cur.ctx, kid := x.kid, die := x.die, point := x.point - x.point % 4 + pos.toNat,
        sig := n, pos := a.toNat, unit := u, value := x.rx d, kp := 0, held := x.ckpting,
        word := slotWord (.rst g q d n pos a u) }
    (s.setMyCore { k with remote := k.remote ++ [r] }).bump) s

end Sys2Proof.Machine
end

