-- ==== Sys2Proof/Machine/EngineOps.lean ====
section
/-! DEFINITION. The meanings of the instructions of slot E: ticks and speculation, the commands of the grid, the matrix array and
the engines, sequence tables, descriptors, tokens, dependent launch, barriers (R153 to R167, R343). -/

namespace Sys2Proof.Machine

/-- The produced token of an optional extension word. -/
def kpOf : Option Ext → BitVec 4
  | some x => x.kp
  | none => 0

/-! ### Ticks, speculation, signal state (R153 to R155) -/

/-- `tick`: the step of R65 starts (R153). -/
def execTick (g : Pred) (q : Bool) (x : Option Ext) (s : State) : Out :=
  issue (.tick g q x) g (fun s =>
    let s' := s.issued (kpOf x)
    s'.setMe { s'.me with tick := some { id := s.cmdSeq, kp := kpOf x } }) s

/-- `spec`: speculation is open with limit n (R70). -/
def execSpec (g : Pred) (q : Bool) (n : BitVec 6) (x : Option Ext) (s : State) : Out :=
  issue (.spec g q n x) g (fun s => (s.setMe { s.me with specd := n }).performedNow (kpOf x)) s

/-- The `trig`s of the ticks that a `commit` keeps: the context triggers, in a checkpointing context at a boundary, and
their tokens are set; the others are discarded (R52, R342). -/
def State.commitTrigs (s : State) (c : CtxId) (base : BitVec 48) (k : Nat) : State :=
  let x := s.ctx c
  let kept := x.trigs.filter fun t => decide ((t.1 - base).toNat < k)
  let s1 := s.setCtx c { x with
    trigs := []
    triggered := x.triggered || !kept.isEmpty
    trigAt := if x.triggered || kept.isEmpty then x.trigAt else s.cmdSeq }
  let s2 := kept.foldl (fun s t => s.performed c t.2.1 t.2.2) s1
  if x.ckpting && !kept.isEmpty then s2.boundary c x.ckmask fun s => ((s.endBundle c).ctx c).toBlock else s2

/-- `commit` (R70, R154). -/
def execCommit (g : Pred) (q : Bool) (d : Reg) (n : BitVec 15) (x : Option Ext) (s : State) : Out :=
  issue (.commit g q d n x) g (fun s =>
    let y := s.me
    if y.specd = 0 then s.performedNow (kpOf x)
    else
      let k := y.commitAmount d n
      let s1 := s.setMe (s.myCore.commit s.cur.ctx (k.setWidth 48))
      let s2 := (s1.commitStores s.cur y.nowc (k.setWidth 48)).performedNow (kpOf x)
      s2.commitTrigs s.cur y.nowc k.toNat) s

/-- `sclr`: its waits are over (R69, R155). -/
def execSclr (g : Pred) (q : Bool) (n : SigNum) (x : Option Ext) (s : State) : Out :=
  issue (.sclr g q n x) g (fun s =>
    (s.setMe (s.me.setSig n ((s.me.sig n).map Signal.clear))).performedNow (kpOf x)) s

/-- `sstat`, latency 2; 0 for an unplanned signal (R69, R155). -/
def execSstat (g : Pred) (q : Bool) (d : Reg) (n : SigNum) (x : Option Ext) (s : State) : Out :=
  issue (.sstat g q d n x) g (fun s =>
    (result (.x d) (match s.me.sig n with
      | some sg => sg.status
      | none => 0) 2 q s).performedNow (kpOf x)) s

/-- `ckpt`: the shadow copy holds the context as it stands after this bundle (R343). -/
def execCkpt (g : Pred) (d : CkptFields) (x : Option Ext) (s : State) : Out :=
  issue (.ckpt g d x) g (fun s =>
    (s.performedNow (kpOf x)).boundary s.cur (s.me.rx d.d) fun s' => ((s'.endBundle s.cur).ctx s.cur).toBlock) s

/-! ### Grid commands (R49, R156, R157) -/

/-- Whether a context is being pre-empted: its engines issue no further unit, but read and write those they have issued
(R327). A context in a rerun goes on to its boundary first (R350). -/
def State.quiescing (s : State) (c : CtxId) : Bool :=
  ((s.ctx c).leaving && !(s.ctx c).inRerun) || (s.ctx c).retiring.isSome

/-- The domain to which the grid's state belongs once every queued change of domain has been made. -/
def Grid.lastDom (g : Grid) : Option DomNum :=
  g.queue.foldl (fun d q => match q.op with
    | .clear e => some e
    | _ => d) g.dom

/-- A context of a domain becomes the grid's owner; the state of another domain is cleared behind the commands that are queued
(R49, R169). -/
def Grid.acquire (g : Grid) (c : Fin 4) (d : DomNum) : Grid :=
  { g with
    owner := some c, grant := none
    queue := if g.lastDom = some d then g.queue else g.queue ++ [{ id := 0, ctx := c, kp := 0, op := .clear d }] }

/-- `gacq`: the context owns the grid (R49, R169). -/
def execGacq (g : Pred) (q : Bool) (x : Option Ext) (s : State) : Out :=
  issue (.gacq g q x) g (fun s =>
    let k := s.myCore
    let k' := if k.grid.owner = some s.cur.ctx then k else { k with grid := k.grid.acquire s.cur.ctx s.me.dom }
    let s' := s.setMyCore k'
    (s'.setMe { s'.me with gacqAt := none }).performedNow (kpOf x)) s

/-- A command on the core's grid queue (R156). -/
def Grid.push (g : Grid) (q : GridCmd) : Grid := { g with queue := g.queue ++ [q] }

/-- `grel`: ownership ends at once, and the command takes its place in the grid queue (R49, R152, R156). -/
def execGrel (g : Pred) (q : Bool) (x : Option Ext) (s : State) : Out :=
  issue (.grel g q x) g (fun s =>
    let r : GridCmd := { id := s.cmdSeq, ctx := s.cur.ctx, kp := kpOf x, op := .rel }
    (s.setMyCore { s.myCore with grid := { s.myCore.grid with owner := none }.push r }).performedNow (kpOf x)) s

/-- A command pushed onto the core's grid queue (R156). -/
def State.pushGrid (s : State) (x : Option Ext) (op : GridOp) : State :=
  let s' := s.issued (kpOf x)
  s'.setMyCore { s'.myCore with grid := s'.myCore.grid.push { id := s.cmdSeq, ctx := s.cur.ctx, kp := kpOf x, op := op } }

/-- OUTB entry `i` of a configuration image (R180). -/
def imageOut (b : List Byte) (i : Nat) : BitVec 16 := BitVec.ofNat 16 (leNat ((b.drop (72 + 2 * i)).take 2))

/-- The signals that the enabled OUTB entries of an image name, each once. -/
def imageOuts (b : List Byte) : List SigNum :=
  (((List.range 8).map (imageOut b)).filter fun e => e.getLsbD 15).map fun e => e.extractLsb' 0 6

/-- The unbound signals of an image's out ports bound to the grid (R56, R181). -/
def Ctx.bindOuts (x : Ctx) (outs : List SigNum) : Ctx :=
  outs.foldl (fun x n => match x.sig n with
    | some g => x.setSig n (some (g.bindTo .grid))
    | none => x) x

/-- The signals that `gcfg` binds, with the binding to which a refusal returns them (R181, R311). -/
def Ctx.outsBound (x : Ctx) (outs : List SigNum) : List (SigNum × Binding) :=
  (sigNums.filter outs.contains).filterMap fun n =>
    match x.sig n with
    | some g => if g.bind = .unbound then some (n, .unbound) else none
    | none => none

/-- `gcfg`: queued; its out-port signals are bound at its issue (R56, R156, R181). -/
def execGcfg (g : Pred) (q : Bool) (n : BitVec 15) (x : Option Ext) (s : State) : Out :=
  issue (.gcfg g q n x) g (fun s =>
    let y := s.me
    let outs := imageOuts (imageFrom n.toNat (s.gridBytes y))
    let op : GridOp := .cfg n.toNat (y.outsBound outs) (y.sigs.map fun g => g.map (·.bind))
    (s.setMe (y.bindOuts outs)).pushGrid x op) s

/-- `grun`: queued; a count of 0 performs at issue (R156, R182). -/
def execGrun (g : Pred) (q : Bool) (a : Reg) (x : Option Ext) (s : State) : Out :=
  issue (.grun g q a x) g (fun s =>
    let n := ((s.me.rx a).extractLsb' 0 32).toNat
    if n = 0 then s.performedNow (kpOf x) else s.pushGrid x (.run n)) s

/-- `gset` (R157). -/
def execGset (g : Pred) (q : Bool) (t : BitVec 5) (a : Reg) (f : BitVec 3) (x : Option Ext) (s : State) : Out :=
  issue (.gset g q t a f x) g (fun s => s.pushGrid x (.set (Fin.ofNat 32 t.toNat) f (s.me.rx a))) s

/-! ### Matrix commands (R158) -/

/-- An item pushed onto the matrix call queue (R50, R158). -/
def State.pushMx (s : State) (x : Option Ext) (load : Bool) (n : BitVec 5) : State :=
  let s' := s.issued (kpOf x)
  let k := s'.myCore
  let item : MxItem := { id := s.cmdSeq, ctx := s.cur.ctx, kid := s.me.kid, isLoad := load, entry := n,
                         params := s.me.mp, kp := kpOf x, fromGrid := false }
  s'.setMyCore { k with mx := { k.mx with queue := k.mx.queue ++ [item] } }

/-- `mxload` (R158). -/
def execMxload (g : Pred) (q : Bool) (n : BitVec 5) (x : Option Ext) (s : State) : Out :=
  issue (.mxload g q n x) g (fun s => s.pushMx x true n) s

/-- `mxp` (R158). -/
def execMxp (g : Pred) (q : Bool) (n : BitVec 3) (a : Reg) (x : Option Ext) (s : State) : Out :=
  issue (.mxp g q n a x) g (fun s =>
    (s.setMe { s.me with mp := s.me.mp.set n.toNat ((s.me.rx a).extractLsb' 0 32) n.isLt }).performedNow (kpOf x)) s

/-- `mxcall`: it carries a copy of the staged parameters (R158). -/
def execMxcall (g : Pred) (q : Bool) (n : BitVec 5) (x : Option Ext) (s : State) : Out :=
  issue (.mxcall g q n x) g (fun s => s.pushMx x false n) s

/-! ### Stream and Yarrow commands (R160 to R162) -/

/-- Whether a command performs at once, because it moves nothing (R236). An `sreduce` of an empty list writes its
sample (R245). -/
def StreamCmd.isEmpty (q : StreamCmd) : Bool :=
  match q.kind with
  | .sload | .sloadPl | .sstore | .scopy => (recOf q.rec1).windows == 0
  | .sgather | .sscatter => q.count == 0
  | .sreduce => false

/-- What a command notes at its issue: ADV of its signal for a fill, or for a drain that takes effect at once; the index
samples; whether a boundary is to release it (R162, R239, R345). -/
def StreamCmd.atIssue (q : StreamCmd) (x : Ctx) (now : Bool) : StreamCmd :=
  let adv (n : SigNum) : Nat := match x.sig n with
    | some g => g.adv
    | none => 0
  let take := q.isFill || (q.isDrain && now)
  { q with adv := if take then adv q.sig else 0, effective := q.isDrain && now,
           held := x.ckpting && q.kind.writesMemory,
           ixAdv := adv (recOf q.rec1).ixsig, ixAdv2 := adv (recOf q.rec2).ixsig }

/-- A stream or Yarrow command issued: a fill binds its signal; the command enters its engine's queue, or performs at once
when it moves nothing (R162, R236). -/
def State.pushStream (s : State) (e : Fin 6) (q : StreamCmd) : State :=
  let q := q.atIssue s.me (s.drainNow s.cur)
  let bindFill (x : Ctx) : Ctx :=
    if q.isFill then x.setSig q.sig ((x.sig q.sig).map (·.bindTo .stream)) else x
  let s := s.setMe (bindFill s.me)
  if q.isEmpty then s.performedNow q.kp
  else
    let s' := s.issued q.kp
    let k := s'.myCore
    let eng := k.engines[e.val]'e.isLt
    s'.setMyCore { k with engines := k.engines.set e.val { eng with queue := eng.queue ++ [q] } e.isLt }

/-- The effect of a stream or Yarrow command at its issue. -/
def streamEffect (i : Instr) (s : State) : State :=
  match s.streamOf i with
  | some (e, q) => s.pushStream e q
  | none => s

/-- `sload` (R160, R162). -/
def execSload (g : Pred) (q : Bool) (e : BitVec 2) (n : SigNum) (pos : BitVec 7) (k : DescNum) (a : Reg) (x : Tokens)
    (s : State) : Out :=
  issue (.sload g q e n pos k a x) g (streamEffect (.sload g q e n pos k a x)) s

/-- `sload.pl` (R160, R241). -/
def execSloadPl (g : Pred) (q : Bool) (e : BitVec 2) (k : DescNum) (a b : Reg) (x : Tokens) (s : State) : Out :=
  issue (.sloadPl g q e k a b x) g (streamEffect (.sloadPl g q e k a b x)) s

/-- `sstore` (R160, R162). -/
def execSstore (g : Pred) (q : Bool) (e : BitVec 1) (n : SigNum) (off : BitVec 7) (k : DescNum) (a : Reg) (x : Tokens)
    (s : State) : Out :=
  issue (.sstore g q e n off k a x) g (streamEffect (.sstore g q e n off k a x)) s

/-- `scopy` (R160, R240). -/
def execScopy (g : Pred) (q : Bool) (e : BitVec 3) (k j : DescNum) (a b : Reg) (x : Tokens) (s : State) : Out :=
  issue (.scopy g q e k j a b x) g (streamEffect (.scopy g q e k j a b x)) s

/-- `sgather` (R160, R244). -/
def execSgather (g : Pred) (q : Bool) (e : BitVec 2) (n : SigNum) (pos : BitVec 7) (k : DescNum) (a b : Reg)
    (oor : BitVec 2) (x : Tokens) (s : State) : Out :=
  issue (.sgather g q e n pos k a b oor x) g (streamEffect (.sgather g q e n pos k a b oor x)) s

/-- `sreduce` and `sreduce.w` (R160, R245). -/
def execSreduce (g : Pred) (q : Bool) (w : Bool) (e : BitVec 2) (n : SigNum) (pos : BitVec 7) (k : DescNum) (a b : Reg)
    (red : BitVec 2) (dis : Bool) (oor : BitVec 2) (x : Tokens) (s : State) : Out :=
  issue (.sreduce g q w e n pos k a b red dis oor x) g (streamEffect (.sreduce g q w e n pos k a b red dis oor x)) s

/-- `sscatter` (R160, R247). -/
def execSscatter (g : Pred) (q : Bool) (e : BitVec 1) (n : SigNum) (off : BitVec 7) (k : DescNum) (a b : Reg)
    (oor : BitVec 2) (x : Tokens) (s : State) : Out :=
  issue (.sscatter g q e n off k a b oor x) g (streamEffect (.sscatter g q e n off k a b oor x)) s

/-! ### Sequence tables, descriptors, tokens (R159, R163, R164) -/

/-- `spos` (R73, R163). -/
def execSpos (g : Pred) (q : Bool) (n : BitVec 5) (a : Reg) (x : Option Ext) (s : State) : Out :=
  issue (.spos g q n a x) g (fun s =>
    let e : SeqEntry := { ptr := (s.me.rx a).extractLsb' 0 32, owner := some s.cur.ctx }
    (s.setMyCore { s.myCore with seqs := s.myCore.seqs.set n.toNat e n.isLt }).performedNow (kpOf x)) s

/-- A descriptor register (R159). -/
def Ctx.desc (x : Ctx) (k : DescNum) : Vector Word 12 := x.d[k.toNat]'(k.isLt)

/-- A descriptor register replaced. -/
def Ctx.setDesc (x : Ctx) (k : DescNum) (v : Vector Word 12) : Ctx := { x with d := x.d.set k.toNat v k.isLt }

/-- `dset` (R159). -/
def execDset (g : Pred) (q : Bool) (k : DescNum) (w : BitVec 4) (a : Reg) (x : Option Ext) (s : State) : Out :=
  issue (.dset g q k w a x) g (fun s =>
    (s.setMe (s.me.setDesc k ((s.me.desc k).setIfInBounds w.toNat (s.me.rx a)))).performedNow (kpOf x)) s

/-- `dget`, latency 2 (R159). -/
def execDget (g : Pred) (q : Bool) (d : Reg) (k : DescNum) (w : BitVec 4) (x : Option Ext) (s : State) : Out :=
  issue (.dget g q d k w x) g (fun s =>
    (result (.x d) ((s.me.desc k).toList.getD w.toNat 0) 2 q s).performedNow (kpOf x)) s

/-- `dclr` (R159). -/
def execDclr (g : Pred) (q : Bool) (k : DescNum) (x : Option Ext) (s : State) : Out :=
  issue (.dclr g q k x) g (fun s =>
    (s.setMe (s.me.setDesc k (Vector.replicate 12 0))).performedNow (kpOf x)) s

/-- `kwait` (R164): it has waited, and does nothing else. -/
def execKwait (g : Pred) (q : Bool) (x : Option Ext) (s : State) : Out :=
  issue (.kwait g q x) g (fun s => s.performedNow (kpOf x)) s

/-- `kpoll`, latency 2: the tokens as read at issue (R164). -/
def execKpoll (g : Pred) (q : Bool) (d : Reg) (x : Option Ext) (s : State) : Out :=
  issue (.kpoll g q d x) g (fun s =>
    (result (.x d) ((s.me.k &&& 0xFFFE).setWidth 64) 2 q s).performedNow (kpOf x)) s

/-! ### Dependent launch (R52, R165) -/

/-- `trig`: the context triggers, or under speculation when `commit` keeps the tick (R52, R165). -/
def execTrig (g : Pred) (q : Bool) (x : Option Ext) (s : State) : Out :=
  issue (.trig g q x) g (fun s =>
    let y := s.me
    if y.specd = 0 then
      (s.setMe { y with triggered := true, trigAt := if y.triggered then y.trigAt else y.first }).performedNow (kpOf x)
    else
      let s' := s.issued (kpOf x)
      s'.setMe { s'.me with trigs := s'.me.trigs ++ [(y.now, kpOf x, s.cmdSeq)] }) s

/-- `launch`: it enters the context's posting queue (R165). -/
def execLaunch (g : Pred) (q : Bool) (a b : Reg) (x : Option Ext) (s : State) : Out :=
  issue (.launch g q a b x) g (fun s =>
    let s' := s.issued (kpOf x)
    s'.setMe { s'.me with posting := s'.me.posting ++
      [{ id := s.cmdSeq, addr := s.me.rx a, queue := (s.me.rx b).extractLsb' 0 7, kp := kpOf x }] }) s

/-! ### Barriers and `sync` (R166, R167) -/

/-- An arrival at scope number `i`, 0 to 2: the count rises (R166). -/
def State.arrive (s : State) (i : Fin 3) : State :=
  let x := s.me
  s.setMe { x with arrive := x.arrive.set i.val (x.arrive[i.val]'i.isLt + 1) i.isLt,
                   arrived := x.arrived.set i.val (s.cycle :: x.arrived[i.val]'i.isLt) i.isLt }

/-- `arrive.cl` (R166). -/
def execArriveCl (g : Pred) (q : Bool) (x : Option Ext) (s : State) : Out :=
  issue (.arriveCl g q x) g (fun s => (s.arrive 0).performedNow (kpOf x)) s

/-- `arrive.die` (R166). -/
def execArriveDie (g : Pred) (q : Bool) (x : Option Ext) (s : State) : Out :=
  issue (.arriveDie g q x) g (fun s => (s.arrive 1).performedNow (kpOf x)) s

/-- `arrive.dev` (R166). -/
def execArriveDev (g : Pred) (q : Bool) (x : Option Ext) (s : State) : Out :=
  issue (.arriveDev g q x) g (fun s => (s.arrive 2).performedNow (kpOf x)) s

/-- `wait.cl`: it has been released (R166). -/
def execWaitCl (g : Pred) (q : Bool) (x : Option Ext) (s : State) : Out :=
  issue (.waitCl g q x) g (fun s => (s.setMe { s.me with wait := none }).performedNow (kpOf x)) s

/-- `wait.die` (R166). -/
def execWaitDie (g : Pred) (q : Bool) (x : Option Ext) (s : State) : Out :=
  issue (.waitDie g q x) g (fun s => (s.setMe { s.me with wait := none }).performedNow (kpOf x)) s

/-- `wait.dev` (R166). -/
def execWaitDev (g : Pred) (q : Bool) (x : Option Ext) (s : State) : Out :=
  issue (.waitDev g q x) g (fun s => (s.setMe { s.me with wait := none }).performedNow (kpOf x)) s

/-- `sync`: the member restarts in its cycle (R167). -/
def execSync (g : Pred) (q : Bool) (x : Option Ext) (s : State) : Out :=
  issue (.sync g q x) g (fun s =>
    (s.setMe { s.me with syncSeen := none, syncAt := none }).performedNow (kpOf x)) s

end Sys2Proof.Machine
end

