-- ==== Sys2Proof/Machine/Streams.lean ====
section
/-! DEFINITION. The meanings of the stream engines' events: taking a command, index lookups, fills, drains, copies, retries
(R231, R236 to R241, R255, R262, R306, R313, R315). An engine translates the units of its command in order and reads those
translated in any order; a unit that it writes goes into flight and performs by itself (log entry 48). An event whose condition
does not hold leaves the state as it is. -/

namespace Sys2Proof.Machine

/-! ### An engine and its command -/

/-- An engine of a core. -/
def State.engine (s : State) (n : CoreId) (e : Fin 6) : Engine := (s.core n).engines[e.val]'e.isLt

/-- An engine's current command replaced. -/
def State.setCurrent (s : State) (n : CoreId) (e : Fin 6) (q : Option StreamCmd) : State :=
  s.onCore n fun k => { k with engines := k.engines.set e.val { k.engines[e.val]'e.isLt with current := q } e.isLt }

/-- The issuing context of a command. -/
def StreamCmd.ctxId (q : StreamCmd) (n : CoreId) : CtxId := { core := n, ctx := q.ctx }

/-- The command on which an engine can work: taken, not suspended, every index list that its records need read; of one that has
faulted, and of a context that is being pre-empted, only a copy with units that it has issued (R231, R239, R313, R315, R327). -/
def State.working (s : State) (n : CoreId) (e : Fin 6) : Option StreamCmd :=
  (s.engine n e).current.filter fun q =>
    q.susp.isNone && ((q.fail.isNone && !s.quiescing (q.ctxId n))
        || ((q.kind == .scopy || q.kind == .sloadPl) && !q.reqs.isEmpty))
      && (q.kind.isYarrow || ((!(recOf q.rec1).ixen || q.ix.isSome) && (q.kind != .scopy || !(recOf q.rec2).ixen || q.ix2.isSome)))

/-- A choice among `n` of this turn's, the `i`-th of several (log entry 1). -/
def State.choice (s : State) (i n : Nat) : Nat := s.pick / 2 ^ (4 * i) % n

/-! ### The end of a command -/

/-- Whether a write of a command is in flight. -/
def State.unitsOut (s : State) (n : CoreId) (e : Fin 6) (id : Nat) : Bool :=
  s.posted.any fun p => p.eng == some e && p.src.core == n && p.cmd == id

/-- A command performs and leaves its engine; samples that it alone held up go on (R61, R152, R231). -/
def State.finishStream (s : State) (n : CoreId) (e : Fin 6) (q : StreamCmd) : State :=
  ((s.setCurrent n e none).performed (q.ctxId n) q.kp q.id).onCore n fun k => k.settle q.ctx

/-- Every unit of a command has been translated and read: it performs, or, with writes still in flight, leaves the engine to
the next command and performs with the last of them (R152, R231, R269). -/
def State.sentStream (s : State) (n : CoreId) (e : Fin 6) (q : StreamCmd) : State :=
  if s.unitsOut n e q.id then
    s.onCore n fun k =>
      { k with engines := k.engines.set e.val { k.engines[e.val]'e.isLt with
          current := none, sent := (k.engines[e.val]'e.isLt).sent ++ [{ q with j := q.samples, e := 0 }] } e.isLt }.settle q.ctx
  else s.finishStream n e q

/-! ### Faults of units -/

/-- The samples that a command has still to make (R306). -/
def StreamCmd.unmade (q : StreamCmd) : List (SigNum × Nat × Nat) :=
  if q.isFill then [(q.sig, q.fillSample, q.lastSample)] else []

/-- The samples that a command has still to drain, and the index samples that it has still to read (R306). -/
def StreamCmd.undrained (q : StreamCmd) : List (SigNum × Nat × Nat) :=
  (if q.isDrain && decide (0 ≤ q.drainSample (q.samples - 1)) then
    [(q.sig, (q.drainSample q.j).toNat, (q.drainSample (q.samples - 1)).toNat)] else [])
  ++ (if (recOf q.rec1).ixen && !q.kind.isYarrow && q.ix.isNone then [((recOf q.rec1).ixsig, q.ixAdv, q.ixAdv)] else [])
  ++ (if q.kind == .scopy && (recOf q.rec2).ixen && q.ix2.isNone then [((recOf q.rec2).ixsig, q.ixAdv2, q.ixAdv2)] else [])

/-- A command back at its resume point: a fill at the first unit of its window or row item, a pool at its first index, every
other at the unit it has come to; the bytes that a `sload.pl` has gathered for column words go with it (R218, R313, R315,
R327). -/
def StreamCmd.resumed (q : StreamCmd) : StreamCmd :=
  let q := { q with reqs := [], run := none, run2 := none, runIx := none }
  match q.kind with
  | .sload | .sgather => { q with e := 0, got := [] }
  | .sreduce => { q with j := 0, e := 0, got := [], entry := none, pool := [], seen := [] }
  | _ => q

/-- Bytes of a `sload.pl` written to its plane region at offsets in it; the lines that they touch are noted (R216, R241, R349). -/
def State.planeWrite (s : State) (n : CoreId) (q : StreamCmd) (l : List (Nat × List Byte)) : State :=
  let k := s.core n
  let base := ((k.window? (s.ctx (q.ctxId n))).map (·.plBase)).getD 0
  s.setCore n { k with
    plane := l.foldl (fun m p => Memory.setBytes m (base + p.1) p.2) k.plane
    plLines := (l.map fun p => ((base + p.1) / 8192, q.ctx, q.id)).foldl (fun l a => if l.contains a then l else a :: l)
      k.plLines }

/-- The fault of a command as it is held against its context (R306, R313, R331). -/
def StreamCmd.pendFault (q : StreamCmd) (e : Fin 6) (f : UnitFault) : PendFault :=
  { id := q.id, kp := q.kp, cause := f.1, source := 6, unit := BitVec.ofNat 3 e.val, detail := f.2,
    fills := q.unmade, frees := q.undrained, sig := if q.kind.namesSignal then some q.sig else none,
    writes := q.kind.writesMemory, susp := isTranslationFault f.1 }

/-- How many units a step of a command has: a window's or a row item's. -/
def StreamCmd.stepUnits (q : StreamCmd) : Nat := if q.kind.isYarrow then (recOf q.rec1).itemUnits else (recOf q.rec1).winUnits

/-- The number, in its command, of the unit that an engine comes to next (R236, R242). -/
def StreamCmd.num (q : StreamCmd) : Nat := q.j * q.stepUnits + q.e

/-- The first byte, in its plane region, that a `sload.pl` writes (R241). -/
def StreamCmd.planeAt (q : StreamCmd) : Nat := (q.b.extractLsb' 0 32).toNat

/-- The first byte, in its plane region, of unit `u` of a `sload.pl` (R241). -/
def StreamCmd.planeUnitAt (q : StreamCmd) (u : Nat) : Nat := q.planeAt + u * unitSize (recOf q.rec1).fmt

/-- A command without its unit `u` and those after it, which a fault at that unit discards: of a fill none is needed any more; the
earliest faulting unit counts (R313). -/
def StreamCmd.failed (q : StreamCmd) (u : Nat) (f : UnitFault) : StreamCmd :=
  if q.fail.any fun g => decide (g.1 ≤ u) then q
  else { q with fail := some (u, f), reqs := if q.isFill then [] else q.reqs.filter fun r => decide (r.u < u) }

/-- A fault takes effect at a command's unit `u`, the units before it over: a translation fault suspends it at its resume point;
after any other it performs with no further effect. The bytes that a `sload.pl` has gathered of the units before are written. The
fault is held against its context (R306, R313, R315, R331). -/
def State.faultDone (s : State) (n : CoreId) (e : Fin 6) (q : StreamCmd) (u : Nat) (f : UnitFault) : State :=
  let s1 := if q.kind = .sloadPl then s.planeWrite n q (q.got.filter fun p => decide (p.1 < q.planeUnitAt u)) else s
  if isTranslationFault f.1 then
    (s1.setCurrent n e (some { q.resumed with
      got := [], fail := none, plFrom := q.planeUnitAt u, susp := some f, retry := false })).hold (q.ctxId n) (q.pendFault e f)
  else
    ((s1.onCore n fun k =>
      { k with engines := k.engines.set e.val ((k.engines[e.val]'e.isLt).keep fun c => c.id != q.id) e.isLt }.settle q.ctx).performed
      (q.ctxId n) q.kp q.id).hold (q.ctxId n) (q.pendFault e f)

/-- A command that has faulted, once every earlier unit of it has been read and has performed (R313). -/
def State.faultOver (s : State) (n : CoreId) (e : Fin 6) (id : Nat) : State :=
  match (s.engine n e).cmds.find? (·.id == id) with
  | none => s
  | some q =>
    match q.fail with
    | none => s
    | some (u, f) => if !q.reqs.isEmpty || s.unitsOut n e id then s else s.faultDone n e q u f

/-- A command faults at its unit `u`: that unit and those after it are discarded, those before it are completed (R313). -/
def State.failUnit (s : State) (n : CoreId) (e : Fin 6) (id u : Nat) (f : UnitFault) : State :=
  let s1 := { s with posted := s.posted.filter fun p =>
    !(p.eng == some e && p.src.core == n && p.cmd == id && decide (u ≤ p.ord)) }
  (s1.onCore n fun k =>
    { k with engines := k.engines.set e.val ((k.engines[e.val]'e.isLt).onCmds fun q =>
        if q.id = id then q.failed u f else q) e.isLt }).faultOver n e id

/-- A command faults at the unit that it has come to (R313). -/
def State.streamFault (s : State) (n : CoreId) (e : Fin 6) (q : StreamCmd) (f : UnitFault) : State := s.failUnit n e q.id q.num f

/-- A write of a command is over: with its last, a command whose units have all been sent performs, and one that has faulted takes
its fault (R152, R313). -/
def State.unitOver (s : State) (n : CoreId) (e : Fin 6) (id : Nat) : State :=
  match (s.engine n e).sent.find? fun q => q.id == id && q.fail.isNone with
  | none => s.faultOver n e id
  | some q =>
    if s.unitsOut n e id then s
    else (s.onCore n fun k =>
      { k with engines := k.engines.set e.val { k.engines[e.val]'e.isLt with
          sent := (k.engines[e.val]'e.isLt).sent.filter (·.id != id) } e.isLt }).performed (q.ctxId n) q.kp q.id

/-! ### Commands taken, retried, and their index samples -/

/-- `STREAM_COMMAND_TAKE`: drains whose wait is over take effect, and an engine with no command in progress takes its next
(R64, R231). A command that a checkpoint boundary is to release waits in its queue (R345), and so does one of a context that
is being pre-empted (R327). -/
def execStreamCommandTake (n : CoreId) (e : Fin 6) (s : State) : Out :=
  let s := s.drainEffects n e
  let eng := s.engine n e
  .next (match eng.current, eng.queue with
    | none, q :: rest =>
      if q.held || s.quiescing (q.ctxId n) then s
      else s.onCore n fun k =>
        { k with engines := k.engines.set e.val { eng with queue := rest, current := some { q with taken := true } } e.isLt }
    | _, _ => s)

/-- `STREAM_RETRY`: a suspended command whose fault has been delivered, and whose context goes on, works again from its
resume point (R315). -/
def execStreamRetry (n : CoreId) (e : Fin 6) (s : State) : Out :=
  .next (match (s.engine n e).current with
    | none => s
    | some q =>
      if q.susp.isSome && q.retry then s.setCurrent n e (some { q with susp := none, retry := false }) else s)

/-- `INDEX_LOOKUP`: the entries of an indirect record are read once the index sample is readable, and it is no longer pinned
(R231, R239). -/
def execIndexLookup (n : CoreId) (e : Fin 6) (s : State) : Out :=
  .next (match (s.engine n e).current with
    | none => s
    | some q =>
      let x := s.ctx (q.ctxId n)
      let r1 := recOf q.rec1
      let r2 := recOf q.rec2
      let ix := if r1.ixen && !q.kind.isYarrow && q.ix.isNone then x.lookup r1 q.ixAdv else q.ix
      let ix2 := if q.kind == .scopy && r2.ixen && q.ix2.isNone then x.lookup r2 q.ixAdv2 else q.ix2
      if ix = q.ix ∧ ix2 = q.ix2 then s
      else (s.setCurrent n e (some { q with ix := ix, ix2 := ix2 })).onCore n fun k =>
        (k.settleSig q.ctx r1.ixsig).settleSig q.ctx r2.ixsig)

/-! ### Units translated, read and written -/

/-- A translation that a command has begun to use enters its core's cache (R255). -/
def State.useRun (s : State) (n : CoreId) (old new : Option Xlat) : State :=
  match new with
  | some x => if old = some x then s else s.onCore n fun k => k.cache x
  | none => s

/-- A command with a unit that it has met: its bytes when it needs no read, and otherwise a request (R255, R262). -/
def StreamCmd.met (q : StreamCmd) (u : UnitSrc) (num : Nat) (dst : Option (List (Nat × Nat))) : StreamCmd :=
  match u.bytes with
  | some b => { q with run := u.run, got := q.got ++ [(num, b)] }
  | none => { q with run := u.run, reqs := q.reqs ++ [{ u := num, pos := u.pos, va := u.va, src := u.src, dst := dst,
                                                            born := bornOf u.run }] }

/-- Whether a command with requests left reads one in this turn, and does not translate its next unit (log entry 48). -/
def State.readsNow (s : State) (q : StreamCmd) : Bool := !q.reqs.isEmpty && s.pick.testBit 2

/-- The request that a command reads next: any of those it has made (R262; log entry 48). -/
def State.nextReq (s : State) (q : StreamCmd) : Option UnitReq := q.reqs[s.choice 2 q.reqs.length]?

/-- The bytes of a request as they are read now: the FILL unit where the sequence table filters its position; a port that is down is
fault 0xA2 (R72, R262, R338). -/
def State.readReq (s : State) (n : CoreId) (q : StreamCmd) (obs : Nat → Observer) (u : UnitReq) : Except UnitFault (List Byte) :=
  let r := recOf q.rec1
  if s.seqFilters n q.ctx r.seq u.pos then .ok r.fillUnit
  else match u.src.find? fun p => s.linkDown p.1 with
  | some p => .error (0xA2, linkDetail p.1)
  | none => s.readPieces obs (s.keyOf (s.ctx (q.ctxId n))) u.va u.src

/-- A command without a request. -/
def StreamCmd.dropReq (q : StreamCmd) (u : UnitReq) : StreamCmd := { q with reqs := q.reqs.filter fun r => r.u != u.u }

/-- The bytes of a window's or row item's units in their order. -/
def StreamCmd.gathered (q : StreamCmd) (n : Nat) : List (List Byte) := (List.range n).map fun i => listed [] q.got i

/-- One of a fill's requests read by the observers of its addresses (R262, R338). -/
def State.readOne (s : State) (n : CoreId) (e : Fin 6) (q : StreamCmd) (obs : Nat → Observer) : State :=
  match s.nextReq q with
  | none => s
  | some u =>
    match s.readReq n q obs u with
    | .error f => s.failUnit n e q.id u.u f
    | .ok b => (s.setCurrent n e (some { q.dropReq u with got := q.got ++ [(u.u, b)] })).linksUsed u.src

/-- Unit `u` that a command writes goes into flight (R247, R262). -/
def State.postUnit (s : State) (n : CoreId) (e : Fin 6) (q : StreamCmd) (u : Nat) (kind : PostKind) (va : Word) (pa : Nat) (v : Word)
    (born : Nat) : State :=
  let x := s.ctx (q.ctxId n)
  (s.postWrite { id := s.cmdSeq, cmd := q.id, eng := some e, src := q.ctxId n, kid := x.kid, dom := x.dom, key := s.keyOf x,
                 kind := kind, va := va, pa := pa, data := v, scope := .none, read := false, born := born,
                 ord := u }).bump

/-- Unit `u`, of bytes, goes into flight to its pieces. -/
def State.postBytes (s : State) (n : CoreId) (e : Fin 6) (q : StreamCmd) (u : Nat) (ps : List (Nat × Nat)) (b : List Byte)
    (born : Nat) : State :=
  s.postUnit n e q u (.unit ps b) 0 ((ps.head?.map (·.1)).getD 0) 0 born

/-! ### Fills (R63, R238) -/

/-- What a fill meets at its next sample: it may write, it waits, or a fault (R56, R63, R303). -/
inductive FillMeet where
  | ok | wait
  | fault (cause : BitVec 8)
  deriving DecidableEq, Repr

/-- What a fill of sample `k` meets (R56, R63). -/
def Signal.fillMeets (g : Signal) (k : Nat) : FillMeet :=
  if g.bind ≠ .stream then .fault 0x25
  else if k < g.adv then .fault 0x30
  else if g.adv + g.plan.lead < k then .wait
  else match g.writeTest k with
    | .ok => .ok
    | .wait => .wait
    | .full => .fault 0x23

/-- A fill at its next sample: it faults, naming the position that the command names (R303, R304, log entry 29), goes on
gathering, or writes. While the slot makes it wait, it may gather or not (log entry 48). -/
def State.fillStep (s : State) (n : CoreId) (e : Fin 6) (q : StreamCmd) (full : Bool) (gather : State)
    (write : Signal → State) : State :=
  match (s.ctx (q.ctxId n)).sig q.sig with
  | none => s
  | some g =>
    match g.fillMeets q.fillSample with
    | .fault cause => s.streamFault n e q (cause, sigDetail g.adv (q.pos.setWidth 8) q.sig)
    | .wait => if full || !s.pick.testBit 1 then s else gather
    | .ok => if full then write g else gather

/-- A fill's sample written from the units gathered, and the command as it then stands: none when it performs, its flags `fl`
entering FLAGS (R238, R244, R245). -/
def State.fillWrite (s : State) (n : CoreId) (e : Fin 6) (q : StreamCmd) (g : Signal) (units : List (List Byte))
    (next : Option StreamCmd) (fl : BitVec 7) : State :=
  let c := q.ctxId n
  let x := s.ctx c
  let s1 := s.setCtx c (x.setSig q.sig (some (g.writeSample q.fillSample x.now ((recOf q.rec1).sample g.plan.rows units))))
  match next with
  | some q' => s1.setCurrent n e (some q')
  | none => (s1.onCtx c fun x => x.orFlags s.cycle fl).finishStream n e q

/-- The next unit of a fill's window translated, or one of those translated read (R237, R255, R262, R313). -/
def State.gatherUnit (s : State) (n : CoreId) (e : Fin 6) (q : StreamCmd) : State :=
  let r := recOf q.rec1
  if s.readsNow q || decide (r.winUnits ≤ q.e) then s.readOne n e q fun _ => .core n
  else match s.unitSrc n q.ctx r q.a.toNat (q.ix.getD []) q.j q.e q.run with
    | .error f => s.streamFault n e q f
    | .ok u => (s.setCurrent n e (some { q.met u q.e none with e := q.e + 1 })).useRun n q.run u.run

/-- `FILL_WINDOW`: the next step of a `sload`: a unit of its window translated or read, or, when all are gathered and the slot
admits it, the sample written (R236 to R238, R262, R313). -/
def execFillWindow (n : CoreId) (e : Fin 6) (s : State) : Out :=
  .next (match s.working n e with
    | none => s
    | some q =>
      if q.kind = .sload then
        let r := recOf q.rec1
        s.fillStep n e q (decide (r.winUnits ≤ q.e) && q.reqs.isEmpty) (s.gatherUnit n e q) fun g =>
          s.fillWrite n e q g (q.gathered r.winUnits)
            (if q.j + 1 < r.windows then some { q with j := q.j + 1, e := 0, got := [] } else none) 0
      else s)

/-! ### Drains (R61, R64, R238) -/

/-- Whether a drain may copy its next sample: it has taken effect and the sample is committed; in a checkpointed interval,
claimed before the last boundary (R64, R345). -/
def Ctx.drainReady (x : Ctx) (q : StreamCmd) : Bool :=
  q.effective && !q.held && match x.sig q.sig with
    | none => false
    | some g =>
      let k := q.drainSample q.j
      decide (0 ≤ k) && g.committed k.toNat && !(x.ckpting && (g.slot k.toNat).fresh)

/-- The rows of a drain's next sample. -/
def Ctx.drainRows (x : Ctx) (q : StreamCmd) : List Row :=
  match x.sig q.sig with
  | none => []
  | some g => (g.slot (q.drainSample q.j).toNat).data

/-- A drain has begun copying its sample: the slot drains (R61). -/
def Ctx.beginDrain (x : Ctx) (q : StreamCmd) : Ctx :=
  match x.sig q.sig with
  | none => x
  | some g =>
    let k := (q.drainSample q.j).toNat
    x.setSig q.sig (some (g.setSlot k { g.slot k with st := .draining }))

/-- A drain has dealt with unit `e` of its sample's `units`: it goes on to the next, to its next sample, the one copied no
longer pinned and its slot settled, or every unit has been sent (R61, R64, R238). -/
def State.drainNext (s : State) (n : CoreId) (e : Fin 6) (q : StreamCmd) (units : Nat) : State :=
  if q.e + 1 < units then
    (s.setCurrent n e (some { q with e := q.e + 1 })).onCtx (q.ctxId n) fun x => x.beginDrain q
  else if q.j + 1 < q.samples then
    (s.setCurrent n e (some { q with j := q.j + 1, e := 0, entry := none })).onCore n fun k => k.settle q.ctx
  else s.sentStream n e q

/-- `DRAIN_SAMPLE`: the next unit of a `sstore`'s committed sample goes into flight to its window (R64, R237, R238, R262,
R313). -/
def execDrainSample (n : CoreId) (e : Fin 6) (s : State) : Out :=
  .next (match s.working n e with
    | none => s
    | some q =>
      let x := s.ctx (q.ctxId n)
      let r := recOf q.rec1
      if q.kind = .sstore ∧ x.drainReady q then
        match s.unitDest n x.dom r q.a.toNat (q.ix.getD []) q.j q.e q.run with
        | .error f => s.streamFault n e q f
        | .ok (none, _) => s.drainNext n e q r.winUnits
        | .ok (some ps, run) =>
          ((s.postBytes n e q q.num ps (r.unitOfSample (x.drainRows q) q.e) (bornOf run)).drainNext n e { q with run := run }
            r.winUnits).useRun n q.run run
      else s)

/-! ### Copies (R240, R241) -/

/-- A copying command with its next unit dealt with. -/
def StreamCmd.copyNext (q : StreamCmd) : StreamCmd :=
  if q.e + 1 < (recOf q.rec1).winUnits then { q with e := q.e + 1 } else { q with j := q.j + 1, e := 0 }

/-- A fault of a destination unit reports the resume point of the command (R313). -/
def StreamCmd.atResume (q : StreamCmd) (f : UnitFault) : UnitFault :=
  if f.1 = 0x42 ∨ f.1 = 0x43 then (f.1, resumeDetail q.j q.e) else f

/-- The pieces of the destination unit of a `scopy`'s unit `(j, e)`, none where it is outside; a `sload.pl` has none (R240). -/
def State.copyDest (s : State) (n : CoreId) (q : StreamCmd) : Except UnitFault (Option (List (Nat × Nat)) × Option Xlat) :=
  if q.kind = .scopy then
    let r2 := recOf q.rec2
    let u := q.j * (recOf q.rec1).winUnits + q.e
    s.unitDest n (s.ctx (q.ctxId n)).dom r2 q.b.toNat (q.ix2.getD []) (u / r2.winUnits) (u % r2.winUnits) q.run2
  else .ok (none, q.run2)

/-- The byte after the last that a `sload.pl` writes (R241). -/
def StreamCmd.planeEnd (q : StreamCmd) : Nat :=
  let r := recOf q.rec1
  q.planeUnitAt (r.windows * r.winUnits)

/-- Bytes from an offset on, cut where column words of 64 bytes meet (R215). -/
def wordParts (o : Nat) (b : List Byte) : List (Nat × List Byte) :=
  (List.range (b.length / 64 + 2)).filterMap fun i =>
    let lo := max o (64 * (o / 64 + i))
    let hi := min (o + b.length) (64 * (o / 64 + i + 1))
    if lo < hi then some (lo, (b.drop (lo - o)).take (hi - lo)) else none

/-- Whether the parts gathered of a column word are all that a `sload.pl` still writes in it (R218). -/
def StreamCmd.wordFull (q : StreamCmd) (got : List (Nat × List Byte)) (w : Nat) : Bool :=
  decide (min q.planeEnd (64 * (w + 1)) - max (max q.planeAt q.plFrom) (64 * w)
    ≤ ((got.filter fun p => p.1 / 64 == w).map (·.2.length)).sum)

/-- Unit `u` of a `sload.pl`: its bytes are gathered by column word, and each word is written once all that the command writes in
it has been gathered, so that an array cycle reads it wholly before or wholly after (R216, R218, R241). -/
def State.planeUnit (s : State) (n : CoreId) (e : Fin 6) (q : StreamCmd) (u : Nat) (b : List Byte) : State :=
  let parts := wordParts (q.planeUnitAt u) b
  let got := q.got ++ parts
  let full (p : Nat × List Byte) : Bool := q.wordFull got (p.1 / 64)
  (s.setCurrent n e (some { q with got := got.filter fun p => !full p })).planeWrite n q (got.filter full)

/-- The bytes of a copied unit sent on: into flight, to the plane store, or nowhere (R237, R240, R241). -/
def State.copyOut (s : State) (n : CoreId) (e : Fin 6) (q : StreamCmd) (u : Nat) (dst : Option (List (Nat × Nat)))
    (b : List Byte) (born : Nat) : State :=
  if q.kind = .scopy then
    match dst with
    | some ps => s.postBytes n e q u ps b born
    | none => s
  else s.planeUnit n e q u b

/-- The age of a copied unit's translations: the older of its source's and its destination's. -/
def StreamCmd.copyBorn (q : StreamCmd) (run run2 : Option Xlat) : Nat :=
  if q.kind = .scopy && run2.isSome then min (bornOf run) (bornOf run2) else bornOf run

/-- A copying command's next unit translated, its destination after its source; a unit that needs no read goes on at once
(R237, R240, R313). -/
def State.copyUnit (s : State) (n : CoreId) (e : Fin 6) (q : StreamCmd) : State :=
  match s.unitSrc n q.ctx (recOf q.rec1) q.a.toNat (q.ix.getD []) q.j q.e q.run with
  | .error f => s.streamFault n e q f
  | .ok u =>
    match s.copyDest n q with
    | .error f => s.streamFault n e q (q.atResume f)
    | .ok (dst, run2) =>
      let num := q.num
      let q' : StreamCmd := { q.copyNext with run := u.run, run2 := run2 }
      let s1 := (s.useRun n q.run u.run).useRun n q.run2 run2
      match u.bytes with
      | some b => (s1.setCurrent n e (some q')).copyOut n e q' num dst b (bornOf run2)
      | none => s1.setCurrent n e (some { q' with reqs := q.reqs ++
          [{ u := num, pos := u.pos, va := u.va, src := u.src, dst := dst, born := q.copyBorn u.run run2 }] })

/-- One of a copying command's requests read, and sent on (R240, R241, R262, R338). -/
def State.copyRead (s : State) (n : CoreId) (e : Fin 6) (q : StreamCmd) : State :=
  match s.nextReq q with
  | none => s
  | some u =>
    match s.readReq n q (fun _ => .core n) u with
    | .error f => s.failUnit n e q.id u.u f
    | .ok b =>
      (((s.setCurrent n e (some (q.dropReq u))).copyOut n e (q.dropReq u) u.u u.dst b u.born).linksUsed u.src).faultOver n e q.id

/-- `COPY_UNIT`: the next step of a `scopy` or `sload.pl`: a unit translated, or one translated read and sent on; the command
is over when all have been (R236, R237, R240, R241, R262, R313). -/
def execCopyUnit (n : CoreId) (e : Fin 6) (s : State) : Out :=
  .next (match s.working n e with
    | none => s
    | some q =>
      if q.kind = .scopy ∨ q.kind = .sloadPl then
        if q.j < (recOf q.rec1).windows then
          (if s.readsNow q || s.quiescing (q.ctxId n) || q.fail.isSome || (!q.reqs.isEmpty && s.choice 3 2 == 0) then s.copyRead n e q
            else s.copyUnit n e q)
        else if q.reqs.isEmpty then s.sentStream n e q
        else s.copyRead n e q
      else s)

end Sys2Proof.Machine
end

