-- ==== Sys2Proof/Machine/Yarrow.lean ====
section
/-! DEFINITION. The meanings of Yarrow's events: gathers, pools and scatter-adds, and the indivisible addition to a cell
(R149, R242 to R248, R300). Index entries and units are met one by one, as in the other engines (log entry 48). -/

namespace Sys2Proof.Machine

/-- A number added to the accumulator cell at a physical address, modulo 2^72; a cell whose MARK is set stays as it is
(R149). -/
def State.addCell (s : State) (key pa : Nat) (v : Int) : State :=
  let b := s.devRead key pa 16
  if (b.getD 9 0).getLsbD 0 then s
  else s.devWrite key pa (leBytes 9 (BitVec.ofNat 72 (leNat (b.take 9)) + BitVec.ofInt 72 v).toNat)

/-! ### Index lists and row items (R242, R243) -/

/-- The next entry of a command's index list read (R242, R246, R255). -/
def State.entryStep (s : State) (n : CoreId) (e : Fin 6) (q : StreamCmd) : State :=
  match s.listEntry n q q.j with
  | .error f => s.streamFault n e q f
  | .ok (en, t) => (s.setCurrent n e (some { q with entry := some en, runIx := t })).useRun n q.runIx t

/-- A command at the next entry of its list, nothing of whose row item has been met. -/
def StreamCmd.nextEntry (q : StreamCmd) : StreamCmd := { q with j := q.j + 1, e := 0, got := [], entry := none }

/-- Whether every unit of the row item of a command's list entry has been met and read. -/
def StreamCmd.itemFull (q : StreamCmd) : Bool := decide ((recOf q.rec1).itemUnits ≤ q.e) && q.reqs.isEmpty

/-- The next unit of a row item translated, or one of those translated read by the Yarrow of its stack (R242, R246, R255, R262,
R313). -/
def State.itemStep (s : State) (n : CoreId) (e : Fin 6) (q : StreamCmd) (row : ListRow) : State :=
  if s.readsNow q || decide ((recOf q.rec1).itemUnits ≤ q.e) then s.readOne n e q yarrowAt
  else match s.rowUnit n q row q.j q.e q.run with
    | .error f => s.streamFault n e q f
    | .ok u => (s.setCurrent n e (some { q.met u q.e none with e := q.e + 1 })).useRun n q.run u.run

/-! ### Gathers (R244) -/

/-- An index of a `sgather` that yields no row uses no sample (R243, R244). -/
def State.gatherSkip (s : State) (n : CoreId) (e : Fin 6) (q : StreamCmd) : State :=
  if q.j + 1 < q.count then s.setCurrent n e (some q.nextEntry) else s.finishStream n e q

/-- `YARROW_GATHER`: the next step of a `sgather`: an index read, a unit of its row item translated or read, or the row item
written to the next sample once the slot admits it (R242 to R244, R246, R313). -/
def execYarrowGather (n : CoreId) (e : Fin 6) (s : State) : Out :=
  .next (match s.working n e with
    | none => s
    | some q =>
      if q.kind = .sgather then
        match q.entry with
        | none => if q.j < q.count then s.entryStep n e q else s.finishStream n e q
        | some (.skip, _) => s.gatherSkip n e q
        | some (row, _) =>
          s.fillStep n e q q.itemFull (s.itemStep n e q row) fun g =>
            s.fillWrite n e q g (q.gathered (recOf q.rec1).itemUnits)
              (if q.j + 1 < q.count then some { q.nextEntry with made := q.made + 1 } else none) 0
      else s)

/-! ### Pools (R243, R245, R246) -/

/-- Whether a row counts in a pool: it is a row, and under DISTINCT the first occurrence of its index (R243). -/
def StreamCmd.counts (q : StreamCmd) (row : ListRow) : Bool :=
  match row with
  | .skip => false
  | .zero => true
  | .row k => !(q.distinct && q.seen.contains k)

/-- A pool with a counted row added to it (R243, R245). -/
def StreamCmd.pooled (q : StreamCmd) (row : ListRow) (w : Lane) : StreamCmd :=
  { q.nextEntry with
    pool := q.pool ++ [{ units := (q.gathered (recOf q.rec1).itemUnits).map leNat,
                         weight := if q.weighted then some w else none }]
    seen := match row with
      | .row k => k :: q.seen
      | _ => q.seen }

/-- The next step of a pool's gathering: an index read, a unit of its row item translated or read, or the row counted
(R242, R243, R246). -/
def State.poolStep (s : State) (n : CoreId) (e : Fin 6) (q : StreamCmd) : State :=
  match q.entry with
  | none => s.entryStep n e q
  | some (row, w) =>
    if !q.counts row then s.setCurrent n e (some q.nextEntry)
    else if q.itemFull then s.setCurrent n e (some (q.pooled row w))
    else s.itemStep n e q row

/-- The floating-point format of a pooled unit, none for an integer (R245). -/
def poolFmt (fmt : Nat) : Option FpFmt := if fmt = 9 then some .bf16 else if fmt = 0xA then some .fp32 else none

/-- One term ω × x of a pool, exact (R245). -/
def poolTerm (fmt : Nat) (w : Option Lane) (u : Nat) : Num × FlagSet :=
  let x : Num := match poolFmt fmt with
    | some f => f.decode u
    | none => .ofInt (intOf true (8 * unitSize fmt) u)
  match w with
  | none => (x, 0)
  | some l => mulNum (FpFmt.fp32.decode l.toNat) x

/-- The larger of two terms, −0 below +0 (R245). -/
def maxTerm (x y : Num) : Num :=
  if x.lt y then y else if y.lt x then x else if x.isNeg then y else x

/-- The largest of the terms, which are no NaN. -/
def largest : List Num → Num
  | [] => .fin false 0 1
  | [x] => x
  | x :: r => maxTerm x (largest r)

/-- The exact sum of the terms divided by `m`; every denominator is a power of two (R245). -/
def exactSum (m : Nat) (ts : List Num) : Num × FlagSet :=
  let plus := ts.any (· == .inf false)
  let minus := ts.any (· == .inf true)
  if plus && minus then (.nan, fNV)
  else if plus then (.inf false, 0)
  else if minus then (.inf true, 0)
  else
    let d := (ts.map Num.den).foldl max 1
    let v : Int := (ts.map fun t => t.signed * Int.ofNat (d / t.den)).sum
    if v = 0 then (.fin (ts.all Num.isNeg) 0 1, 0) else (.fin (decide (v < 0)) v.natAbs (d * m), 0)

/-- A pooled unit: the exact pool rounded once, nearest with ties to even (R245). +∞ and −∞ together give NaN and NV in a sum or mean; the
largest of them is +∞ (DESIGN CHOICE, log entry 49). -/
def poolUnit (fmt : Nat) (red : BitVec 2) (ts : List (Num × FlagSet)) : Elem :=
  let vs := ts.map (·.1)
  let fl := ts.foldl (fun f t => f ||| t.2) 0
  let (v, fv) : Num × FlagSet :=
    if vs.any Num.isNan then (.nan, 0)
    else if red = 2 then (largest vs, 0)
    else exactSum (if red = 1 then vs.length else 1) vs
  let (c, fr) : Elem := match poolFmt fmt with
    | some f => f.round .nearest false v
    | none => toIntFmt .nearest true (8 * unitSize fmt) v
  (c, fl ||| fv ||| fr)

/-- The units of a pool and its flags; the FILL unit where no row counts (R245). -/
def Rec.pool (r : Rec) (red : BitVec 2) (rows : List PoolRow) : List (List Byte) × FlagSet :=
  if rows.isEmpty then (List.replicate r.itemUnits r.fillUnit, 0)
  else
    let es := (List.range r.itemUnits).map fun e =>
      poolUnit r.fmt red (rows.map fun p => poolTerm r.fmt p.weight (p.units.getD e 0))
    (es.map (fun x => leBytes (unitSize r.fmt) x.1), es.foldl (fun f x => f ||| x.2) 0)

/-- `YARROW_POOL`: the next step of a `sreduce`: of its gathering, or the exact pool of its counted rows written as the one
sample; its flags enter FLAGS as it performs (R245, R246, R313). -/
def execYarrowPool (n : CoreId) (e : Fin 6) (s : State) : Out :=
  .next (match s.working n e with
    | none => s
    | some q =>
      if q.kind = .sreduce then
        s.fillStep n e q (decide (q.count ≤ q.j)) (s.poolStep n e q) fun g =>
          let (us, fl) := (recOf q.rec1).pool q.red q.pool
          s.fillWrite n e q g us none fl
      else s)

/-! ### Scatters (R247) -/

/-- Element `i` of a sample of an i32 or i64 signal. -/
def sampleElem (sig : BitVec 8) (rows : List Row) (i : Nat) : Int :=
  let w := if sig = 3 then 32 else 64
  ((rows.getD (i * w / 2048) 0).extractLsb' (i * w % 2048) w).toInt

/-- The next element of a `sscatter`'s sample goes into flight to its cell, to be added there by itself (R247, R248, R262). -/
def State.scatterUnit (s : State) (n : CoreId) (e : Fin 6) (q : StreamCmd) (row : ListRow) : State :=
  let x := s.ctx (q.ctxId n)
  let fmt := ((x.sig q.sig).map (·.plan.fmt)).getD 3
  let units := (recOf q.rec1).itemUnits
  match s.rowUnit n q row q.j q.e q.run with
  | .error f => s.streamFault n e q f
  | .ok u =>
    ((s.postUnit n e q q.num .cell u.va ((u.src.head?.map (·.1)).getD 0)
        (BitVec.ofInt 64 (sampleElem fmt (x.drainRows q) q.e)) (bornOf u.run)).drainNext n e { q with run := u.run } units).useRun
      n q.run u.run

/-- `YARROW_SCATTER_ADD`: the next step of a `sscatter`: an index read, or an element of its committed sample sent to its cell;
under an index that yields no row, a zero row or a row item without a cell, the sample is consumed (R243, R247, R248, R313). -/
def execYarrowScatterAdd (n : CoreId) (e : Fin 6) (s : State) : Out :=
  .next (match s.working n e with
    | none => s
    | some q =>
      if q.kind = .sscatter ∧ (s.ctx (q.ctxId n)).drainReady q then
        match q.entry with
        | none => s.entryStep n e q
        | some (.row k, _) => if (recOf q.rec1).itemUnits = 0 then s.drainNext n e q 0 else s.scatterUnit n e q (.row k)
        | some _ => s.drainNext n e q 0
      else s)

end Sys2Proof.Machine
end

