-- ==== Sys2Proof/Machine/CtxEvents.lean ====
section
/-! DEFINITION. The meanings of the events between a context and the rest of its core or of device memory: slot tables, ticks,
writes and reads in flight, remote stores, barriers, `sync`, and the release of a context (R40, R44, R65, R145 to R149, R166,
R167, R259 to R263, R308, R336). An event whose condition does not hold leaves the state as it is. -/

namespace Sys2Proof.Machine

/-! ### Slot tables and ticks -/

/-- `SLOT_TABLE_EFFECT`: a staged table and mode take effect at the next cycle with CYCLE mod 32 = 0 (R44, R98). -/
def execSlotTableEffect (n : CoreId) (s : State) : Out :=
  let k := s.core n
  .next (match k.stagedAt with
    | none => s
    | some t =>
      if t < s.cycle ∧ s.cycle % 32 = 0 then
        s.setCore n { k with table := k.staged, strict := k.stagedStrict, stagedAt := none }
      else s)

/-- `TICK_STEP`: a tick completes once its waits are over, and the `tick` performs (R65, R152, R153). -/
def execTickStep (c : CtxId) (s : State) : Out :=
  let x := s.ctx c
  .next (match x.tick with
    | none => s
    | some t =>
      if x.tickWaits then s
      else (s.setCtx c { (s.core c.core).tick c.ctx with tick := none }).performed c t.kp t.id)

/-! ### Writes in flight (R259 to R263) -/

/-- Whether two writes in flight touch a byte in common. -/
def Posted.meets (p q : Posted) : Bool := overlaps p.pa p.kind.size q.pa q.kind.size

/-- Whether an earlier write of the same context to a common byte has still to perform at a scope; the writes of its engines have
no part in this order (R147, R263, R265). -/
def State.behind (s : State) (p : Posted) (sc : Scope) : Bool :=
  p.eng.isNone && s.posted.any fun q => q.eng.isNone && q.src == p.src && q.kid == p.kid && decide (q.id < p.id) && q.meets p
    && (!q.kind.isStore || decide (q.scope.num < sc.num))

/-- Whether a `gst` to a common byte that has performed somewhere stands before this one in coherence order: it reaches device
memory first (R263; log entry 46). -/
def State.coherent (s : State) (p : Posted) : Bool :=
  !(s.posted.takeWhile fun q => q.id != p.id).any fun q => q.kind.isStore && q.scope != .none && q.meets p

/-- Whether a `gst` that the issuer of an atomic, its engine, or the Yarrow that performs it sees has still to reach device
memory: the atomic reads it (R261 to R263). -/
def State.unread (s : State) (p : Posted) : Bool :=
  s.posted.any fun q => q.kind.isStore && q.meets p && (q.src != p.src || p.eng.isSome)
    && decide (min (commonScope q.src.core p.src.core).num ((Observer.yarrow (stackOf p.pa)).common q.src.core).num ≤ q.scope.num)

/-- Whether the key of a write in flight is not that of its domain: it reaches another domain's key slot (R336). -/
def State.strayKey (s : State) (p : Posted) : Bool := !((s.domain p.dom).live && (s.domain p.dom).key == p.key)

/-- The domain whose key slot a write in flight reaches, its own where no domain has the key (R336). -/
def State.keyDom (s : State) (p : Posted) : DomNum :=
  (((List.range 64).map (BitVec.ofNat 6)).find? fun d => (s.domain d).live && (s.domain d).key == p.key).getD p.dom

/-- A write in flight taken off the list. -/
def State.unpost (s : State) (p : Posted) : State := { s with posted := s.posted.filter fun q => q.id != p.id }

/-- A write in flight is over: with the last of an engine's command the command may perform (R152). -/
def State.postOver (s : State) (p : Posted) : State :=
  match p.eng with
  | none => s.unpost p
  | some e => (s.unpost p).unitOver p.src.core e p.cmd

/-- A request discarded for reaching another domain's resource: logged with the two domains, and a record goes to its own
(R336). -/
def State.discardStray (s : State) (p : Posted) : State :=
  { s.postOver p with log := s.log ++ [(p.dom, s.keyDom p)] }.post p.dom
    (recordWord 0xA0 p.dom (BitVec.ofNat 2 p.src.ctx.val) (BitVec.ofNat 9 p.src.core.val) 2 0 false 0) p.va

/-- A fault of a write in flight held against the context that issued it, where that is still the context of its kernel. -/
def State.holdPost (s : State) (p : Posted) (f : PendFault) : State :=
  if (s.ctx p.src).live && (s.ctx p.src).kid == p.kid then s.hold p.src f else s

/-- A write in flight that a poisoned block stops: fault 0x84, deferred, of its command, or of the bundle that waits for the value
(R349). -/
def State.postPoison (s : State) (p : Posted) : State :=
  match p.eng with
  | some e => s.failUnit p.src.core e p.cmd p.ord (0x84, p.va)
  | none =>
    let s1 := s.unpost p
    if p.read then s1.onCtx p.src fun x => { x with read := none, readFault := some (0x84, p.va) }
    else s1.holdPost p { id := p.id, kp := 0, cause := 0x84, source := 2, unit := 0, detail := p.va, writes := true }

/-- A write in flight fails at its port or at the host: a `gst`'s fault is held for the drain at `sys`, barrier or `halt` that
waits for it, a unit's is its command's (R338, R339). -/
def State.postFails (s : State) (p : Posted) (cause : BitVec 8) (detail : Word) : State :=
  match p.eng with
  | some e => s.failUnit p.src.core e p.cmd p.ord (cause, detail)
  | none => (s.unpost p).holdPost p
      { id := p.id, kp := 0, cause := cause, source := 2, unit := 0, detail := detail, writes := true, atSys := true }

/-- The new word of an atomic (R148). -/
def PostKind.apply (k : PostKind) (old b : Word) : Word :=
  match k with
  | .aadd => old + b
  | .amin => if old.toInt < b.toInt then old else b
  | .amax => if old.toInt < b.toInt then b else old
  | .aswp => b
  | .acas cmp => if old = cmp then b else old
  | _ => old

/-- A write in flight by its issue number. -/
def State.posted? (s : State) (id : Nat) : Option Posted := s.posted.find? fun p => p.id == id

/-- `ATOMIC_PERFORM`: an atomic reads and writes its word indivisibly (R148, R259, R262). -/
def execAtomicPerform (k : Nat) (s : State) : Out :=
  .next (match s.posted? k with
    | none => s
    | some p =>
      if p.kind.isStore || p.kind == .cell || s.behind p .dev || s.unread p then s
      else if s.strayKey p then s.discardStray p
      else if s.poisoned p.pa 8 then s.postPoison p
      else
        let old := BitVec.ofNat 64 (leNat (s.devRead p.key p.pa 8))
        let s1 := (s.unpost p).devWrite p.key p.pa (leBytes 8 (p.kind.apply old p.data).toNat)
        if p.read then s1.onCtx p.src fun x => { x with read := x.read.map fun r => { r with value := some old } }
        else s1)

/-- `CELL_ADD_PERFORM`: an `acadd`, or one addition of a `sscatter`, adds into its cell (R149, R248, R259, R262). -/
def execCellAddPerform (k : Nat) (s : State) : Out :=
  .next (match s.posted? k with
    | none => s
    | some p =>
      if p.kind != .cell || s.behind p .dev || s.unread p then s
      else if s.strayKey p then s.discardStray p
      else if s.poisoned p.pa 16 then s.postPoison p
      else (s.addCell p.key p.pa p.data.toInt).postOver p)

/-- The scope at which a `gst` performs next (R262). -/
def Scope.succ : Scope → Scope
  | .none => .cl
  | .cl => .die
  | _ => .dev

/-- A write put into a list behind the last entry that satisfies a test, at the place that `i` chooses. -/
def insertBehind (p : Posted) (after : Posted → Bool) (i : Nat) (l : List Posted) : List Posted :=
  let lo := l.length - (l.reverse.takeWhile fun q => !after q).length
  let j := lo + i % (l.length + 1 - lo)
  l.take j ++ p :: l.drop j

/-- A `gst` performs at a scope (R262): at `cl` it takes its place in coherence order, which is that of the `dev` performs to come and
so free but for its context's own; at `dev` its bytes are memory's (R257, R263; log entry 46). -/
def State.storePerforms (s : State) (p : Posted) (sc : Scope) : State :=
  match sc with
  | .dev | .sys => ((s.unpost p).linkUsed p.pa).devWrite p.key p.pa (leBytes 8 p.data.toNat)
  | .die => { s with posted := s.posted.map fun q => if q.id = p.id then { q with scope := .die } else q }
  | _ =>
    let own (q : Posted) : Bool := q.kind.isStore && q.scope != .none && q.src == p.src && q.kid == p.kid && q.meets p
    let l := insertBehind { p with scope := .cl } own (s.pickOf 1 (s.posted.length + 1)) (s.unpost p).posted
    { s with posted := l }

/-- Whether an earlier unit of the same command, to a common byte, has still to perform: the units are written in their order
(R238, R240). -/
def State.unitBehind (s : State) (p : Posted) (ps : List (Nat × Nat)) : Bool :=
  p.eng.any fun e =>
    (s.posted.any fun q => q.eng == some e && q.src.core == p.src.core && q.cmd == p.cmd && decide (q.ord < p.ord) &&
      match q.kind with
      | .unit qs _ => piecesMeet qs ps
      | _ => false)
    || (s.engine p.src.core e).cmds.any fun c => c.id == p.cmd && c.reqs.any fun r =>
      decide (r.u < p.ord) && r.dst.any fun qs => piecesMeet qs ps

/-- A unit that a stream command writes performs, whole and at every scope (R262, R338). -/
def State.unitPerforms (s : State) (p : Posted) (ps : List (Nat × Nat)) (b : List Byte) : State :=
  match ps.find? fun q => s.linkDown q.1 with
  | some q => s.postFails p 0xA2 (linkDetail q.1)
  | none => ((s.writePieces p.key ps b).linksUsed ps).postOver p

/-- `DEVICE_WRITE_PERFORM`: a `gst` performs at its next scope, to host memory at every scope at once; a unit of a stream
command performs (R257, R262, R280, R336, R338). -/
def execDeviceWritePerform (k : Nat) (s : State) : Out :=
  .next (match s.posted? k with
    | none => s
    | some p =>
      match p.kind with
      | .store =>
        let sc := if paExt p.pa then .dev else p.scope.succ
        if s.behind p sc || (sc == .dev && !s.coherent p) then s
        else if s.strayKey p then s.discardStray p
        else if s.linkDown p.pa then s.postFails p 0xA2 (linkDetail p.pa)
        else s.storePerforms p sc
      | .unit ps b =>
        if s.unitBehind p ps then s else if s.strayKey p then s.discardStray p else s.unitPerforms p ps b
      | _ => s)

/-- The value of an access enters flight: it lands at step 1 of the bundle that waits for it (R111, R146, R317). -/
def Ctx.landRead (x : Ctx) (r : PendRead) (v : Word) : Ctx :=
  { x with read := none }.enter (.x r.dest) v 1 r.sq

/-- Whether an atomic of the context to a common byte has still to perform before a `gld` (R147). -/
def State.readBehind (s : State) (c : CtxId) (pa : Nat) : Bool :=
  s.posted.any fun q =>
    q.eng.isNone && q.src == c && q.kid == (s.ctx c).kid && !q.kind.isStore && overlaps pa 8 q.pa q.kind.size

/-- `DEVICE_READ_RETURN`: the value of the access that the context waits for returns (R111, R146 to R148, R262, R263,
R349). -/
def execDeviceReadReturn (c : CtxId) (s : State) : Out :=
  .next (match (s.ctx c).read with
    | none => s
    | some r =>
      if r.atomic then
        match r.value with
        | some v => s.onCtx c fun x => x.landRead r v
        | none => s
      else if s.readBehind c r.pa then s
      else if s.poisoned r.pa 8 then s.onCtx c fun x => { x with read := none, readFault := some (0x84, r.va) }
      else if s.linkDown r.pa then s.onCtx c fun x => { x with read := none, readFault := some (0xA2, linkDetail r.pa) }
      else
        let v := BitVec.ofNat 64 (leNat (s.observeHeld c r.pa 8))
        (s.linkUsed r.pa).onCtx c fun x => x.landRead r v)

/-! ### Remote stores (R145, R286, R308) -/

/-- The context of the core's cluster that a queued `rst` writes to, unless it has ended (R7, R35, R145). -/
def State.remotePartner (s : State) (n : CoreId) (r : Remote) : Option CtxId :=
  allCtxs.find? fun o =>
    let y := s.ctx o
    commonScope o.core n == .cl && y.live && !y.ended && y.kid == r.kid && y.die == r.die && y.point == r.point

/-- What becomes of a queued `rst` (R63, R145, R308). -/
inductive RemoteMeet where
  | wait | discard
  | fault (cause : BitVec 8) (detail : Word)
  | write (o : CtxId) (g : Signal)
  deriving DecidableEq, Repr

/-- What a queued `rst` of a core meets in the partner core. -/
def State.remoteMeets (s : State) (n : CoreId) (r : Remote) : RemoteMeet :=
  match s.remotePartner n r with
  | none => .discard
  | some o =>
    match (s.ctx o).sig r.sig with
    | none => .discard
    | some g =>
      let detail := sigDetail g.adv (BitVec.ofNat 8 r.pos) r.sig
      if g.plan.lead < r.pos then .fault 0x24 detail
      else match g.writeTest (g.adv + r.pos) with
        | .ok => .write o g
        | .wait => .wait
        | .full => .fault 0x23 detail

/-- The queued `rst`s of a core that can go: none before one goes from the same context to the same partner, no boundary is to
release it, and it does not wait (R145, R345). `before` are those already looked at. -/
def State.readyRemotes (s : State) (n : CoreId) (before : List Remote) : List Remote → List (Remote × RemoteMeet)
  | [] => []
  | r :: rest =>
    let blocked := r.held || before.any fun b => b.ctx == r.ctx && b.kid == r.kid && b.die == r.die && b.point == r.point
    let m := s.remoteMeets n r
    if blocked || m == .wait then s.readyRemotes n (r :: before) rest else (r, m) :: s.readyRemotes n (r :: before) rest

/-- The queued `rst` of a core that goes next: any that can go, since nothing orders the others (R145, R286; log entry 1). -/
def State.nextRemote (s : State) (n : CoreId) : Option (Remote × RemoteMeet) :=
  let l := s.readyRemotes n [] (s.core n).remote
  l[s.choice 1 l.length]?

/-- `REMOTE_WRITE_PERFORM`: an `rst` writes its unit of the partner's slot, is discarded, or faults against its issuer
(R63, R145, R308). -/
def execRemoteWritePerform (n : CoreId) (s : State) : Out :=
  .next (match s.nextRemote n with
    | none => s
    | some (r, m) =>
      let s1 := s.onCore n fun k => { k with remote := k.remote.filter fun q => q.id != r.id }
      match m with
      | .write o g =>
        s1.onCtx o fun y => y.setSig r.sig (some (g.writeUnit r.pos r.unit.toNat y.now r.value))
      | .fault cause detail =>
        s1.hold { core := n, ctx := r.ctx }
          { id := r.id, kp := r.kp, cause := cause, source := 2, unit := 0, detail := detail, writes := true }
      | _ => s1)

/-! ### Barriers and `sync` (R166, R167, R334) -/

/-- The barrier group of a context at a scope (R166). -/
def State.group (s : State) (c : CtxId) (sc : Scope) : List CtxId :=
  allCtxs.filter fun o =>
    (s.ctx o).live && (s.ctx o).kid == (s.ctx c).kid && decide ((commonScope o.core c.core).num ≤ sc.num)

/-- The place of a scope among the arrival counts, and the cycles of its release (R166). -/
def Scope.release : Scope → Fin 3 × Nat
  | .cl => (0, 4)
  | .die => (1, 48)
  | _ => (2, 160)

/-- The smallest scope that holds a context and a released one of its kernel (R166). -/
def Ctx.commonWith (x : Ctx) (g : Gone) : Scope :=
  if g.die ≠ x.die then .dev else if g.point % 80 / 4 = x.place / 4 then .cl else .die

/-- The released members of a context's barrier group (R166). -/
def State.goneOf (s : State) (c : CtxId) (sc : Scope) : List Gone :=
  (((s.kernel? (s.ctx c).kid).map (·.gone)).getD []).filter fun g => decide (((s.ctx c).commonWith g).num ≤ sc.num)

/-- The cycle from which a context counts as having arrived `m` times, from its arrivals, latest first, and its end: that of its
`m`-th arrival, or its end (R166). -/
def arrivalOf (l : List Nat) (ended : Option Nat) (m : Nat) : Option Nat :=
  if m = 0 then some 0 else if m ≤ l.length then l[l.length - m]? else ended

/-- The cycle of a context's end. -/
def Ctx.endOf (x : Ctx) : Option Nat := if x.ended then some x.endedAt else none

/-- `BARRIER_RELEASE`: a wait is released a fixed number of cycles after the last needed arrival (R166). A wait whose own count is 0
needs no arrival and is released at once (DESIGN CHOICE, log entry 49). -/
def execBarrierRelease (c : CtxId) (s : State) : Out :=
  let x := s.ctx c
  .next (match x.wait with
    | some ⟨sc, none⟩ =>
      let (i, d) := sc.release
      let m := (x.arrive[i.val]'i.isLt).toNat
      let ats := ((s.group c sc).map fun o => arrivalOf ((s.ctx o).arrived[i.val]'i.isLt) (s.ctx o).endOf m)
        ++ (s.goneOf c sc).map fun g => arrivalOf (g.arrived[i.val]'i.isLt) (some g.endedAt) m
      if ats.all Option.isSome then
        let last := (ats.filterMap id).foldl max 0
        s.setCtx c { x with wait := some { scope := sc, release := some (if m = 0 then s.cycle else last + d) } }
      else s
    | _ => s)

/-- The members of a context's `sync` that have not ended (R167, R334). -/
def State.syncMembers (s : State) (c : CtxId) : List CtxId := (s.group c .cl).filter fun o => !(s.ctx o).ended

/-- Whether a context blocks at its `m`-th `sync`, its restart not yet chosen (R167). -/
def Ctx.waitsAt (x : Ctx) (m : Word) : Bool := x.syncSeen.isSome && x.syncAt.isNone && x.sync == m

/-- Whether a context has reached its `m`-th `sync` (R167): it blocks there and has not stopped, or it has passed it, as in a rerun of
another (R322, R346). -/
def Ctx.hasReached (x : Ctx) (m : Word) : Bool := decide (m.toNat ≤ x.sync.toNat) && !(x.stopped && x.waitsAt m)

/-- The cycles in which the members of a context's `sync` reached it: those that wait by their bundles, the others by ending (R167,
R334). -/
def State.syncReached (s : State) (c : CtxId) : List Nat :=
  ((s.group c .cl).filterMap fun o =>
    if (s.ctx o).ended then (s.ctx o).endOf else if (s.ctx o).waitsAt (s.ctx c).sync then (s.ctx o).syncSeen else none)
    ++ (s.goneOf c .cl).map (·.endedAt)

/-- `SYNC_RESTART`: once every member has reached its `sync`, each that blocks there is given the cycle in which it issues: T on the
lowest-numbered member of a core, T + 1 on the next (R167, R322, R334). -/
def execSyncRestart (c : CtxId) (s : State) : Out :=
  let x := s.ctx c
  .next (
    let ms := (s.syncMembers c).filter fun o => (s.ctx o).waitsAt x.sync
    if x.waitsAt x.sync && (s.syncMembers c).all (fun o => (s.ctx o).hasReached x.sync) then
      let t := max ((s.syncReached c).foldl max 0 + 8) s.cycle
      ms.foldl (fun s o =>
        let rank := (ms.filter fun p => p.core == o.core && decide (p.ctx < o.ctx)).length
        s.onCtx o fun y => { y with syncAt := some (t + rank) }) s
    else s)

/-! ### The release of a context (R40) -/

/-- Whether an ended context has a command that has not performed (R40). -/
def State.ctxBusy (s : State) (c : CtxId) : Bool :=
  let k := s.core c.core
  let x := s.ctx c
  k.cmdsBusy c.ctx || x.read.isSome
    || s.posted.any fun p => p.src == c && p.kid == x.kid && !p.kind.isStore

/-- The writes in flight of a context with a note on those issued after its triggering (R271). -/
def State.markLate (s : State) (c : CtxId) : State :=
  let x := s.ctx c
  { s with posted := s.posted.map fun p =>
      if p.src == c && p.kid == x.kid && decide (x.trigAt ≤ p.id) then { p with late := true } else p }

/-- A context that is released, as its kernel keeps it (R166). -/
def Ctx.gone (x : Ctx) : Gone := { die := x.die, point := x.point, arrived := x.arrived, endedAt := x.endedAt }

/-- `CONTEXT_RELEASE`: an ended context is free once every engine command that it issued has performed (R40); its kernel's barriers
count it on (R166). -/
def execContextRelease (c : CtxId) (s : State) : Out :=
  let x := s.ctx c
  .next (if x.live && x.ended && !s.ctxBusy c then
      let s1 := (s.markLate c).setCtx c { x with live := false, entryValid := 0 }
      { s1 with kernels := s1.kernels.map fun (k : Kernel) => if k.kid = x.kid then { k with gone := x.gone :: k.gone } else k }
    else s)

end Sys2Proof.Machine
end

