-- ==== Sys2Proof/Machine/DevOps.lean ====
section
/-! DEFINITION. The meanings of the device-memory instructions of slot M: `gld`, `gst`, the atomics, `acadd` and the drains
(R146 to R150). -/

namespace Sys2Proof.Machine

/-- The physical address of an access of the context whose bundle is being issued, and the age of its translation; the check at
issue has found it (R331). -/
def State.physOf (s : State) (a : Word) (align : Nat) (n : Need) : Nat × Nat :=
  match s.devAccess a align n with
  | .ok (pa, x) => (pa, x.born)
  | .error _ => (0, 0)

/-- The translation of an access enters its core's cache (R255). -/
def State.noteAccess (s : State) (a : Word) (align : Nat) (n : Need) : State :=
  match s.devAccess a align n with
  | .ok (_, x) => s.setMyCore (s.myCore.cache x)
  | .error _ => s

/-- `gld` (R146): the context's next bundle waits for the value. -/
def execGld (g : Pred) (q : Bool) (d a : Reg) (i : BitVec 10) (s : State) : Out :=
  issue (.gld g q d a i) g (fun s =>
    let va := s.me.addr a i
    let p := s.physOf va 8 Need.read
    let r : PendRead := { atomic := false, va := va, pa := p.1, dest := d, sq := q, value := none, born := p.2 }
    (s.setMe { s.me with read := some r }).noteAccess va 8 Need.read) s

/-- `gst` (R146): posted, or entered in the hold buffer under speculation (R71) and in a checkpointed interval (R345). -/
def execGst (g : Pred) (q : Bool) (d a : Reg) (i : BitVec 10) (s : State) : Out :=
  issue (.gst g q d a i) g (fun s =>
    let x := s.me
    let va := x.addr a i
    let p := s.physOf va 8 Need.write
    let s' := s.noteAccess va 8 Need.write
    if x.specd ≠ 0 ∨ x.ckpting then
      (s'.setMe { x with hold := x.hold ++ [{ id := s.cmdSeq, va := va, pa := p.1, data := x.rx d, now := x.now,
                                              spec := x.specd != 0, born := p.2 }] }).bump
    else
      (s'.postWrite { id := s.cmdSeq, cmd := s.cmdSeq, eng := none, src := s.cur, kid := x.kid, dom := x.dom,
                      key := s.keyOf x, kind := .store, va := va, pa := p.1, data := x.rx d, scope := .none, read := false,
                      born := p.2 }).bump) s

/-- A posted command, at its translated address: in flight, or held until the next boundary in a checkpointed interval (R148,
R149, R345). -/
def State.postOrHold (s : State) (i : Instr) (kind : PostKind) (va : Word) (p : Nat × Nat) (data : Word) (returns : Bool) :
    State :=
  let x := s.me
  let p : Posted :=
    { id := s.cmdSeq, cmd := s.cmdSeq, eng := none, src := s.cur, kid := x.kid, dom := x.dom, key := s.keyOf x, kind := kind,
      va := va, pa := p.1, data := data, scope := .none, read := returns, born := p.2 }
  if x.ckpting then
    (s.setMe { x with heldPosts := x.heldPosts ++ [{ post := p, word := slotWord i, a := va, b := data }] }).bump
  else (s.postWrite p).bump

/-- An atomic (R148): one with D ≠ 0 returns the old word, and the next bundle waits for it. -/
def atomicEffect (i : Instr) (q : Bool) (d a b : Reg) (kind : PostKind) (s : State) : State :=
  let va := s.me.rx a
  let p := s.physOf va 8 Need.atomic
  let s' := (s.noteAccess va 8 Need.atomic).postOrHold i kind va p (s.me.rx b) (d != 0)
  if d = 0 then s'
  else s'.setMe { s'.me with
    read := some { atomic := true, va := va, pa := p.1, dest := d, sq := q, value := none, born := p.2 } }

/-- `aadd` (R148). -/
def execAadd (g : Pred) (q : Bool) (d a b : Reg) (s : State) : Out :=
  issue (.aadd g q d a b) g (atomicEffect (.aadd g q d a b) q d a b .aadd) s

/-- `amin` (R148). -/
def execAmin (g : Pred) (q : Bool) (d a b : Reg) (s : State) : Out :=
  issue (.amin g q d a b) g (atomicEffect (.amin g q d a b) q d a b .amin) s

/-- `amax` (R148). -/
def execAmax (g : Pred) (q : Bool) (d a b : Reg) (s : State) : Out :=
  issue (.amax g q d a b) g (atomicEffect (.amax g q d a b) q d a b .amax) s

/-- `aswp` (R148). -/
def execAswp (g : Pred) (q : Bool) (d a b : Reg) (s : State) : Out :=
  issue (.aswp g q d a b) g (atomicEffect (.aswp g q d a b) q d a b .aswp) s

/-- `acas` (R148). -/
def execAcas (g : Pred) (q : Bool) (d a b f : Reg) (s : State) : Out :=
  issue (.acas g q d a b f) g (fun s => atomicEffect (.acas g q d a b f) q d a b (.acas (s.me.rx f)) s) s

/-- `acadd` (R149). -/
def execAcadd (g : Pred) (q : Bool) (a b : Reg) (s : State) : Out :=
  issue (.acadd g q a b) g (fun s =>
    let va := s.me.rx a
    (s.noteAccess va 16 Need.atomic).postOrHold (.acadd g q a b) .cell va (s.physOf va 16 Need.atomic) (s.me.rx b) false) s

/-- `drain.cl` (R150): it has waited, and does nothing else. -/
def execDrainCl (g : Pred) (q : Bool) (s : State) : Out := issue (.drainCl g q) g id s

/-- `drain.die` (R150). -/
def execDrainDie (g : Pred) (q : Bool) (s : State) : Out := issue (.drainDie g q) g id s

/-- `drain.dev` (R150). -/
def execDrainDev (g : Pred) (q : Bool) (s : State) : Out := issue (.drainDev g q) g id s

/-- `drain.sys` (R150). -/
def execDrainSys (g : Pred) (q : Bool) (s : State) : Out := issue (.drainSys g q) g id s

end Sys2Proof.Machine
end

