-- ==== Sys2Proof/Machine/Sli.lean ====
section
/-! DEFINITION. Symmetric level-index numbers: codes, correctly rounded results, and the exact real operations behind them,
evaluated by intervals of growing precision (R84 to R89, R198, R203, R204, R300). A result that the last precision does not
separate from a rounding boundary is a free code (log entry 8). -/

namespace Sys2Proof.Machine

/-! ### Codes -/

/-- SLI32 or SLI16 (R84, R88). -/
inductive SliFmt where
  | sl32 | sl16
  deriving DecidableEq, Repr

/-- The fraction bits. -/
def SliFmt.frac : SliFmt → Nat
  | .sl32 => 27
  | .sl16 => 11

/-- The width of a code. -/
def SliFmt.width (f : SliFmt) : Nat := f.frac + 5

/-- The code of NaR (R85). -/
def SliFmt.nar (f : SliFmt) : Nat := 2 ^ (f.frac + 4)

/-- A value: NaR, zero, or a sign with the generalised index `t` of the magnitude in units of 2^−27 (R85, R86). -/
inductive Sli where
  | nar
  | zero
  | val (neg : Bool) (t : Int)
  deriving DecidableEq, Repr

/-- One, in index units. -/
def idxOne : Int := 2 ^ 27

/-- The L field of a code. -/
def SliFmt.field (f : SliFmt) (c : Nat) : Nat := c / 2 ^ f.frac % 8

/-- The value that a code denotes, and NV for a non-canonical code (R84 to R86, R300). -/
def SliFmt.decode (f : SliFmt) (c : Nat) : Sli × FlagSet :=
  if f.field c = 0 then
    if c = 0 then (.zero, 0) else if c = f.nar then (.nar, 0) else (.nar, fNV)
  else
    let s : Int := ((c % 2 ^ (f.frac + 3)) * 2 ^ (27 - f.frac) : Nat)
    (.val (decide (c / 2 ^ (f.frac + 4) % 2 = 1)) (if c / 2 ^ (f.frac + 3) % 2 = 1 then 2 * idxOne - s else s), 0)

/-- The code of a sign and a generalised index in units of the format's grid (R84, R86). -/
def SliFmt.code (f : SliFmt) (neg : Bool) (k : Int) : Nat :=
  let one : Int := 2 ^ f.frac
  (if neg then 2 ^ (f.frac + 4) else 0) + (if one ≤ k then k.toNat else 2 ^ (f.frac + 3) + (2 * one - k).toNat)

/-- The code of an exact value (R85: 1 in its Q = 0 form). -/
def SliFmt.encode (f : SliFmt) : Sli → Nat
  | .nar => f.nar
  | .zero => 0
  | .val neg t => f.code neg (t / (2 ^ (27 - f.frac) : Nat))

/-- The level of a code: zero and NaR, and a non-canonical code, count as level 1 (R199). -/
def SliFmt.level (f : SliFmt) (c : Nat) : Nat := max 1 (f.field c)

/-- The largest and the smallest index of the grid, in its units (R86). -/
def SliFmt.tmax (f : SliFmt) : Int := 8 * 2 ^ f.frac - 1
def SliFmt.tmin (f : SliFmt) : Int := -6 * 2 ^ f.frac + 1

/-- A result held at an extreme code (R87, cases 3 and 4). -/
def SliFmt.extreme (f : SliFmt) (neg big : Bool) : Nat × FlagSet :=
  (f.code neg (if big then f.tmax else f.tmin), fLS ||| fNX)

/-- The place of a value in the order of R204; NaR is below every value. -/
def Sli.key : Sli → Int
  | .nar => -(2 ^ 40)
  | .zero => 0
  | .val neg t => if neg then -(t + 8 * idxOne) else t + 8 * idxOne

/-! ### Bounds of exp and ln on fixed-point numbers -/

/-- A quotient rounded up or down. -/
def qdiv (up : Bool) (a b : Nat) : Nat := if up then (a + b - 1) / b else a / b

/-- A bound of the Taylor sum of exp at `z / 2^q` from term `k` on; the rest of the series is at most twice its first
term. -/
def taylor (up : Bool) (q z : Nat) : Nat → Nat → Nat → Nat
  | 0, _, t => if up then 2 * t else 0
  | n + 1, k, t => t + taylor up q z n (k + 1) (qdiv up (t * z) (k * 2 ^ q))

/-- Squared `m` times. -/
def squares (up : Bool) (q : Nat) : Nat → Nat → Nat
  | 0, y => y
  | m + 1, y => squares up q m (qdiv up (y * y) (2 ^ q))

/-- A bound of exp(x), x = `v / 2^q` ≥ 0. -/
def expNat (up : Bool) (q v : Nat) : Nat :=
  let m := Nat.log2 v + 9 - q
  squares up q m (taylor up q (qdiv up v (2 ^ m)) (q / 8 + 2) 1 (2 ^ q))

/-- A bound of exp(x), x = `v / 2^q`. -/
def expInt (up : Bool) (q : Nat) (v : Int) : Nat :=
  if 0 ≤ v then expNat up q v.toNat
  else if v ≤ -(q * 2 ^ q : Nat) then (if up then 1 else 0)
  else qdiv up (2 ^ (2 * q)) (expNat (!up) q (-v).toNat)

/-- A bound of the sum of z^n / n over odd n, from the power `p` on; the rest is at most twice its first term. -/
def atanhSum (up : Bool) (q z2 : Nat) : Nat → Nat → Nat → Nat
  | 0, _, p => if up then 2 * p else 0
  | k + 1, n, p => qdiv up p n + atanhSum up q z2 k (n + 2) (qdiv up (p * z2) (2 ^ q))

/-- A bound of 2 atanh(a / b), 0 ≤ a / b ≤ 1/3. -/
def twoAtanh (up : Bool) (q a b : Nat) : Nat :=
  let z := qdiv up (a * 2 ^ q) b
  2 * atanhSum up q (qdiv up (z * z) (2 ^ q)) (q / 3 + 2) 1 z

/-- A bound of ln(y), y = `v / 2^q` > 0. -/
def lnNat (up : Bool) (q v : Nat) : Int :=
  let k := Nat.log2 v
  let e : Int := (k : Int) - q
  let l2 := twoAtanh (if 0 ≤ e then up else !up) q 1 3
  e * l2 + twoAtanh up q (v - 2 ^ k) (v + 2 ^ k)

/-- A bound of φ(s), s = `j / 2^27` at most 4.5 (R84). -/
def phiNat (up : Bool) (q : Nat) : Nat → Nat → Nat
  | 0, j => j * 2 ^ (q - 27)
  | n + 1, j => if j < 2 ^ 27 then j * 2 ^ (q - 27) else expNat up q (phiNat up q n (j - 2 ^ 27))

/-- A bound of the index of a magnitude y ≥ 0: the inverse of φ. -/
def idxNat (up : Bool) (q : Nat) : Nat → Nat → Nat
  | 0, y => y
  | n + 1, y => if y < 2 ^ q then y else 2 ^ q + idxNat up q n (lnNat up q y).toNat

/-- The inverse of φ, odd-symmetric. -/
def idxInt (up : Bool) (q : Nat) (y : Int) : Int :=
  if 0 ≤ y then idxNat up q 8 y.toNat else -(idxNat (!up) q 8 (-y).toNat : Int)

/-! ### Real numbers on the index line -/

/-- A real number on the line of R84's φ, extended by odd symmetry: φ of an index `j / 2^27`, of one that lies above
(`d` = 1) or below it (`d` = −1) by less than 2^−200, or of none that is a grid point, between two bounds at scale 2^q. -/
inductive Line where
  | grid (j : Int) (d : Int)
  | num (lo hi : Int)
  deriving DecidableEq, Repr

/-- A signed real by the logarithm of its magnitude; `none` is 0. -/
abbrev RealLog := Option (Bool × Line)

/-- Whether φ of an index is evaluated as a number: up to index 4.5. -/
def isNear (j : Int) : Bool := decide (j.natAbs ≤ 9 * 2 ^ 26)

/-- The width by which a number that lies beside a grid point is widened. -/
def besides (q : Nat) : Int := (2 ^ (q - 420) : Nat)

/-- Bounds of φ at an index of either sign, evaluated with the 320 bits more that its largest values need. -/
def phiBounds (q : Nat) (j : Int) : Int × Int :=
  let a : Nat := phiNat false (q + 320) 5 j.natAbs / 2 ^ 320
  let b : Nat := qdiv true (phiNat true (q + 320) 5 j.natAbs) (2 ^ 320)
  if 0 ≤ j then ((a : Int), (b : Int)) else (-(b : Int), -(a : Int))

/-- Bounds of a number on the line; none beyond index 4.5. -/
def Line.bounds (q : Nat) : Line → Option (Int × Int)
  | .num lo hi => some (lo, hi)
  | .grid j d =>
    if isNear j then
      let (a, b) := phiBounds q j
      some (if d = 0 then (a, b) else (a - besides q, b + besides q))
    else none

/-- 300 at scale 2^q: beyond this distance of logarithms, the smaller number is only a direction. -/
def farApart (q : Nat) : Int := (300 * 2 ^ q : Nat)

/-- The index of a number on the line. -/
def Line.index (q : Nat) : Line → Line
  | .num lo hi => .num (idxInt false q lo) (idxInt true q hi)
  | .grid j d => .grid j d

/-- The index of a signed real that is itself a logarithm. -/
def indexOfLog (q : Nat) : RealLog → Line
  | none => .grid 0 0
  | some (neg, .grid j d) =>
    let sg (x : Int) : Int := if neg then -x else x
    if 0 ≤ j then .grid (sg (j + idxOne)) (sg d)
    else
      match (if isNear j then some (phiBounds q j) else none) with
      | none => .grid 0 (sg 1)
      | some (lo, hi) =>
        if hi < -farApart q then .grid 0 (sg 1)
        else
          let a : Int := expInt false q (lo - besides q)
          let b : Int := expInt true q (hi + besides q)
          if neg then .num (-b) (-a) else .num a b
  | some (neg, .num lo hi) =>
    let one : Int := (2 ^ q : Nat)
    let below (up : Bool) (x : Int) : Int := if 0 ≤ x then one + idxInt up q x else expInt up q x
    if neg then .num (-(below true hi)) (-(below false lo)) else .num (below false lo) (below true hi)

/-! ### Exact sums -/

/-- A term added to a list of coefficients and indices, indices falling. -/
def addTerm (c j : Int) : List (Int × Int) → List (Int × Int)
  | [] => [(c, j)]
  | (d, k) :: r => if k < j then (c, j) :: (d, k) :: r else if k = j then (c + d, k) :: r else (d, k) :: addTerm c j r

/-- The terms of a sum: equal magnitudes joined, vanishing ones removed. -/
def termsOf (l : List (Int × Int)) : List (Int × Int) :=
  (l.foldl (fun a (c, j) => addTerm c j a) []).filter fun t => t.1 != 0

/-- Bounds of ln |c|. -/
def lnBounds (q n : Nat) : Int × Int := (lnNat false q (n * 2 ^ q), lnNat true q (n * 2 ^ q))

/-- The exact sum of terms c × exp(φ(u)) with falling indices, by its logarithm: `none` when the precision does not give
its sign. -/
def sumTerms (q : Nat) : List (Int × Int) → Option RealLog
  | [] => some none
  | (c, j) :: rest =>
    let top := if isNear j then some (phiBounds q j) else none
    let alone : RealLog :=
      if c.natAbs = 1 then some (decide (c < 0), .grid j 0)
      else match top with
        | none => some (decide (c < 0), .grid j 1)
        | some (a, b) => let (x, y) := lnBounds q c.natAbs; some (decide (c < 0), .num (a + x) (b + y))
    match sumTerms q rest with
    | none => none
    | some none => some alone
    | some (some (neg, l)) =>
      let side : Int := if (decide (c < 0)) == neg then 1 else -1
      let aside : RealLog :=
        if c.natAbs = 1 then some (decide (c < 0), .grid j side)
        else match alone with
          | some (n, .num lo hi) => some (n, .num (lo - besides q) (hi + besides q))
          | r => r
      match top, l.bounds q with
      | some (a, b), some (x, y) =>
        if farApart q < a - y then some aside
        else
          let one : Int := (2 ^ q : Nat)
          let wlo : Int := expInt false q (x - b)
          let whi : Int := expInt true q (y - a)
          let lo := c * one + (if neg then -whi else wlo)
          let hi := c * one + (if neg then -wlo else whi)
          if 0 < lo then some (some (false, .num (a + lnNat false q lo.toNat) (b + lnNat true q hi.toNat)))
          else if hi < 0 then some (some (true, .num (a + lnNat false q (-hi).toNat) (b + lnNat true q (-lo).toNat)))
          else none
      | _, _ => some aside

/-! ### The operations -/

/-- The exact result of an operation: zero, or a sign and the index of its magnitude on the line, which is t − 1 (R86). -/
abbrev SliExact := Option (Bool × Line)

/-- The result of a sum. -/
def exactOfReal (q : Nat) (r : RealLog) : SliExact := r.map fun (n, l) => (n, l.index q)

/-- The index of a value less one: the place of its logarithm on the line. -/
def lineOf (t : Int) : Int := t - idxOne

/-- A sign as a coefficient. -/
def sgnOf (neg : Bool) : Int := if neg then -1 else 1

/-- The terms of a sum of values, each with a sign: by falling index, whatever the order of the values (R209). -/
def sliTerms (vs : List Sli) : List (Int × Int) :=
  termsOf (vs.filterMap fun v => match v with
    | .val n t => some (sgnOf n, lineOf t)
    | _ => none)

/-- The sum of values; NaR is the caller's (R203, R209). -/
def sliSum (q : Nat) (vs : List Sli) : Option SliExact := (sumTerms q (sliTerms vs)).map (exactOfReal q)

/-- The logarithm of a product or quotient: the sum of two places on the line (R203). -/
def mulIndex (q : Nat) (ua ub : Int) : Option Line :=
  let num (r : Int) : Line :=
    let (lo, hi) := (lnNat false q (r.natAbs * 2 ^ (q - 27)), lnNat true q (r.natAbs * 2 ^ (q - 27)))
    let one : Int := (2 ^ q : Nat)
    if 0 ≤ r then .num (one + lo) (one + hi) else .num (-(one + hi)) (-(one + lo))
  let mixed (u r : Int) : Line :=
    if r = 0 then .grid u 0
    else match (if isNear u then some (phiBounds q u) else none) with
      | none => .grid u (if 0 < r then 1 else -1)
      | some (a, b) =>
        let x := r * (2 ^ (q - 27) : Nat)
        .num (idxInt false q (a + x)) (idxInt true q (b + x))
  if decide (ua.natAbs ≤ 2 ^ 27) && decide (ub.natAbs ≤ 2 ^ 27) then
    let r := ua + ub
    some (if r.natAbs ≤ 2 ^ 27 then .grid r 0 else num r)
  else if ub.natAbs < 2 ^ 27 then some (mixed ua ub)
  else if ua.natAbs < 2 ^ 27 then some (mixed ub ua)
  else
    let term (u : Int) : Int × Int := (sgnOf (decide (u < 0)), (u.natAbs : Int) - idxOne)
    (sumTerms q (termsOf [term ua, term ub])).map (indexOfLog q)

/-- exp of a value: its logarithm is the value (R202). -/
def expExact (q : Nat) (neg : Bool) (t : Int) : SliExact := some (false, indexOfLog q (some (neg, .grid (lineOf t) 0)))

/-- ln of a positive value other than 1 (R202). -/
def lnExact (q : Nat) (t : Int) : SliExact :=
  let u := lineOf t
  if idxOne ≤ (u.natAbs : Int) then some (decide (u < 0), .grid (u.natAbs - idxOne) 0)
  else
    let y := u.natAbs * 2 ^ (q - 27)
    some (decide (u < 0), .num (idxInt false q (lnNat false q y)) (idxInt true q (lnNat true q y)))

/-- The value of a rational magnitude `n / d` > 0 (R89, R94). -/
def ratExact (q : Nat) (neg : Bool) (n d : Nat) : SliExact :=
  if n = d then some (neg, .grid 0 0)
  else
    let (a, b) := lnBounds q n
    let (x, y) := lnBounds q d
    some (neg, .num (idxInt false q (a - y)) (idxInt true q (b - x)))

/-- ln(1 + e^−D) by its logarithm, given D ≥ 0; `none` where it is below e^−1000 and D is no grid point. Beside the logarithm of the
interval itself, it lies between −D − e^−D and −D. -/
def log1pExp (q : Nat) (d : RealLog) : Option Line :=
  let one : Int := (2 ^ q : Nat)
  let ofGap (lo hi : Int) : Line :=
    let a := (lnNat false q (one + expInt false q (-hi)).toNat).toNat
    let b := (lnNat true q (one + expInt true q (-lo)).toNat).toNat
    let least := -hi - (expInt true q (-lo) : Int)
    .num (if a = 0 then least else max least (lnNat false q a)) (min (-lo) (lnNat true q b))
  match d with
  | none => some (ofGap 0 0)
  | some (_, l) =>
    match l.bounds q with
    | none =>
      (match l with
       | .grid j e => if 0 < j then some (.grid (-(j + idxOne)) (if 0 < e then -1 else if e < 0 then 1 else -1))
                      else some (ofGap 0 (besides q))
       | .num _ _ => none)
    | some (lo, hi) =>
      if hi ≤ 6 * one then ofGap (expInt false q lo) (expInt true q hi) |> some
      else match l with
        | .grid j e => some (.grid (-(j + idxOne)) (if 0 < e then -1 else if e < 0 then 1 else -1))
        | .num _ _ => if hi ≤ 7 * one then some (.num (-(expInt true q hi : Int) - besides q) (-(expInt false q lo : Int))) else none

/-- Bounds of ln(2 B + ln 2), B = e^z with z ≥ 0 in the bounds given; from 300 on it is ln 2 + z but for e^−z. -/
def lnTwice (q : Nat) (z w : Int) : Int × Int :=
  let (l1, l2) := lnBounds q 2
  if w < farApart q then
    (lnNat false q (2 * expInt false q z + l1.toNat), lnNat true q (2 * expInt true q w + l2.toNat))
  else (z + l1, w + l2 + expInt true q (-z))

/-- The index of ln(e^a + e^b) where a = −ε and e^b = ε exactly, ε = e^−A, A = φ(i) at least 290; `none` otherwise. It is ε²/2 but
for less than its product with ε, so its logarithm is −(2 A + ln 2). -/
def cancelIndex (q : Nat) (i : Int) : Option Line :=
  let u := i - idxOne
  let wide : Int := (2 ^ (q - 405) : Nat)
  if isNear u then
    let (x, y) := phiBounds q u
    if (567 * 2 ^ q / 100 : Nat) < x then
      let (lo, hi) := lnTwice q x y
      some (.num (-((2 ^ q : Nat) + idxInt true q (hi + wide))) (-((2 ^ q : Nat) + idxInt false q (lo - wide))))
    else none
  else some (.grid (-i) (-1))

/-- The index k of e^−D for a difference D = φ(j + 1) that is, but for a direction, that of a grid point, and is at least e^5. -/
def gapIndex (q : Nat) (d : RealLog) : Option Int :=
  match d with
  | some (_, .grid j _) =>
    if isNear j then (if (5 * 2 ^ q : Nat) < (phiBounds q j).1 then some (-(j + idxOne)) else none)
    else if 0 < j then some (-(j + idxOne))
    else none
  | _ => none

/-- ln(1 + e^−D) + a, where a is far smaller in magnitude and e^−D has index k: it lies beside k, below when a is negative or smaller
than e^−2D / 2. `j` is the index of |a|. -/
def besideGap (q : Nat) (neg : Bool) (j k : Int) : Option SliExact :=
  let ja := (j.natAbs : Int) - idxOne
  let jb := (k.natAbs : Int) - idxOne
  let put (d : Int) : Option SliExact := some (some (false, .grid k d))
  if neg || !isNear ja then put (-1)
  else if !isNear jb then put 1
  else
    let (x, y) := phiBounds q ja
    let (z, w) := phiBounds q jb
    let (lo, hi) := lnTwice q z w
    let margin : Int := (2 ^ (q - 190) : Nat)
    if hi + margin < x then put (-1) else if y < lo - margin then put 1 else none

/-- The log-sum-exp of two values given larger first: ln(e^a + e^b) = a + L, L = ln(1 + e^−(a − b)) (R202). Where a and L are further
than e^200 apart, the smaller is only a direction. -/
def lseExact (q : Nat) (a b : Sli) : Option SliExact :=
  let term (v : Sli) (s : Int) : List (Int × Int) := match v with
    | .val n t => [(s * sgnOf n, lineOf t)]
    | _ => []
  match sumTerms q (termsOf (term a 1 ++ term b (-1))) with
  | none => none
  | some d =>
    let lam := log1pExp q d
    match a with
    | .nar => none
    | .zero => lam.map fun l => some (false, l.index q)
    | .val neg t =>
      let j := lineOf t
      let keep : Option SliExact := some (some (neg, .grid j (if neg then -1 else 1)))
      let cancel : Option Line := match b with
        | .val true u => if neg && decide (0 ≤ lineOf u) && j == -(lineOf u + idxOne) then cancelIndex q j.natAbs else none
        | _ => none
      match cancel, lam with
      | some l, _ => some (some (false, l))
      | none, none => keep
      | none, some l =>
        let small : Option SliExact := match gapIndex q d, l with
          | some k, _ => besideGap q neg j k
          | none, .num lo hi =>
            let wide : Int := (2 ^ (q - 280) : Nat)
            some (some (false, (Line.num (lo - wide) (hi + wide)).index q))
          | none, .grid k _ => besideGap q neg j k
        match (if isNear j then some (phiBounds q j) else none), l.bounds q with
        | some (x, y), some (z, w) =>
          let dlo := x - w
          let dhi := y - z
          let far : Int := (200 * 2 ^ q : Nat)
          if far < dlo then keep
          else if dhi < -far then small
          else
            let one : Int := (2 ^ q : Nat)
            if neg then
              let lo := one - expInt true q dhi
              let hi := one - expInt false q dlo
              if 0 < lo then
                some (some (false, (Line.num (z + lnNat false q lo.toNat) (w + lnNat true q hi.toNat)).index q))
              else if hi < 0 then
                some (some (true, (Line.num (z + lnNat false q (-hi).toNat) (w + lnNat true q (-lo).toNat)).index q))
              else none
            else
              some (some (false, (Line.num (z + lnNat false q (one + expInt false q dlo).toNat)
                (w + lnNat true q (one + expInt true q dhi).toNat)).index q))
        | some _, none => keep
        | none, some _ => if 0 < j then keep else small
        | none, none =>
          match l with
          | .grid k _ => if 0 < j ∨ k < j then keep else if j < k then small
                         else if neg then none else some (some (false, .grid j 1))
          | .num _ _ => none

/-! ### Rounding (R87) -/

/-- A number strictly between two bounds of index t at scale 2^q, rounded to the format's grid: `none` when the bounds
lie on two sides of a grid point or of a rounding boundary. -/
def SliFmt.roundOpen (f : SliFmt) (m : Rounding) (neg : Bool) (q : Nat) (lo hi : Int) : Option (Nat × FlagSet) :=
  let unit : Int := (2 ^ (q - f.frac) : Nat)
  let k := lo / unit
  if (k + 1) * unit < hi then none
  else if f.tmax ≤ k then some (f.extreme neg true)
  else if k < f.tmin then some (f.extreme neg false)
  else
    let a := lo - k * unit
    let b := hi - k * unit
    let side (x : Int) (s : Nat) : Option Bool :=
      if x ≤ a * (2 ^ s : Nat) then some true else if b * (2 ^ s : Nat) ≤ x then some false else none
    let up : Option Bool := match m.mode.toNat with
      | 0 | 4 => side unit 1
      | 1 => some false
      | 2 => some (!neg)
      | 3 => some neg
      | 5 => side (m.u.toNat * unit) 32
      | _ => some (k % 2 == 0)
    up.map fun u => (f.code neg (if u then k + 1 else k), fNX)

/-- An exact result rounded to the format (R87). -/
def SliFmt.round (f : SliFmt) (m : Rounding) (q : Nat) : SliExact → Option (Nat × FlagSet)
  | none => some (0, 0)
  | some (neg, .num lo hi) => f.roundOpen m neg q (lo + (2 ^ q : Nat)) (hi + (2 ^ q : Nat))
  | some (neg, .grid j d) =>
    let t := j + idxOne
    let den : Nat := 2 ^ (27 - f.frac)
    let k := t / (den : Int)
    let r := (t % (den : Int)).toNat
    if d = 0 then
      if f.tmax < k ∨ (k = f.tmax ∧ 0 < r) then some (f.extreme neg true)
      else if k < f.tmin then some (f.extreme neg false)
      else if r = 0 then some (f.code neg k, 0)
      else some (f.code neg (if m.up neg (k % 2 == 1) r den then k + 1 else k), fNX)
    else
      let c := t * 2 ^ 300
      f.roundOpen m neg 327 (if d < 0 then c - 1 else c) (if d < 0 then c else c + 1)

/-- The first precision, from 128 bits doubled up to 2048, that decides. -/
def refine {α : Type} (g : Nat → Option α) : Option α :=
  (((g 128).orElse fun _ => g 256).orElse fun _ => g 512).orElse fun _ => (g 1024).orElse fun _ => g 2048

/-- A result in an SLI format; the key names the free code of a result that no precision decides (log entry 8). -/
def SliFmt.finish (f : SliFmt) (m : Rounding) (key : Nat) (g : Nat → Option SliExact) : Nat × FlagSet :=
  match refine fun q => (g q).bind (f.round m q) with
  | some r => r
  | none => (Config.freeCode key % 2 ^ f.width, fNX)

/-! ### Conversions (R89) -/

/-- An IEEE value converted to an SLI format (R89, R206). -/
def SliFmt.ofNum (f : SliFmt) (m : Rounding) (key : Nat) : Num → Nat × FlagSet
  | .nan => (f.nar, 0)
  | .inf s => f.extreme s true
  | .fin s n d => if n = 0 then (0, 0) else f.finish m key fun q => some (ratExact q s n d)

/-- A bound of a magnitude as an exact number, at scale 2^q; beyond e^300 and below e^−300 any such number serves,
since no IEEE format of the part distinguishes them (R76). -/
def magBounds (q : Nat) (t : Int) : (Nat × Nat) × (Nat × Nat) :=
  let u := lineOf t
  if u = 0 then ((1, 1), (1, 1))
  else
    match (if isNear u then some (phiBounds q u) else none) with
    | none => if 0 < u then ((2 ^ 500, 1), (2 ^ 500, 1)) else ((1, 2 ^ 500), (1, 2 ^ 500))
    | some (lo, hi) =>
      if farApart q < lo then ((2 ^ 500, 1), (2 ^ 500, 1))
      else if hi < -farApart q then ((1, 2 ^ 500), (1, 2 ^ 500))
      else ((expInt false q lo, 2 ^ q), (expInt true q hi, 2 ^ q))

/-- An SLI value converted to an IEEE format (R89). -/
def FpFmt.ofSli (f : FpFmt) (m : Rounding) (sat : Bool) (key : Nat) : Sli → Nat × FlagSet
  | .nar => (f.nanCode, 0)
  | .zero => (0, 0)
  | .val neg t =>
    match refine fun q =>
      let (a, b) := magBounds q t
      let x := f.round m sat (.fin neg a.1 a.2)
      if x = f.round m sat (.fin neg b.1 b.2) then some x else none with
    | some r => r
    | none => (Config.freeCode key % (2 * f.signBit), fNX)

/-- An SLI value converted between the two formats (R88). -/
def SliFmt.ofSli (f : SliFmt) (m : Rounding) : Sli → Nat × FlagSet
  | .nar => (f.nar, 0)
  | .zero => (0, 0)
  | .val neg t => (f.round m 128 (some (neg, .grid (lineOf t) 0))).getD (0, 0)

end Sys2Proof.Machine
end

