-- ==== Sys2Proof/Machine/Attar.lean ====
section
/-! DEFINITION. The Attar unit: SLI operations on elements and rows, their steps and flags (R197 to R206, R300). -/

namespace Sys2Proof.Machine

/-! ### The operations on one element -/

/-- The key under which an undecided result is named (log entry 8). -/
def attKey (op : Nat) (m : Rounding) (a b : Nat) : Nat := ((op * 8 + m.mode.toNat) * 2 ^ 32 + a) * 2 ^ 32 + b

/-- The rounding operations `add` to `lse`, special cases first (R202, R203). -/
def attArith (f : SliFmt) (op : Nat) (m : Rounding) (a b : Nat) : Elem :=
  let (x, nx) := f.decode a
  let (y, ny) := f.decode b
  let unary := op == 4 || op == 5
  let nv := if unary then nx else nx ||| ny
  let fin (g : Nat → Option SliExact) : Elem :=
    let (c, fl) := f.finish m (attKey op m a b) g
    (c, fl ||| nv)
  let quot (n1 : Bool) (t1 : Int) (n2 : Bool) (u2 : Int) : Elem :=
    fin fun q => (mulIndex q (lineOf t1) u2).map fun l => some (n1 != n2, l)
  if x = .nar ∨ (unary = false ∧ y = .nar) then (f.nar, nv)
  else match op with
    | 0 => fin fun q => sliSum q [x, y]
    | 1 => fin fun q => sliSum q [x, match y with
        | .val n t => .val (!n) t
        | v => v]
    | 2 => match x, y with
      | .val n1 t1, .val n2 t2 => quot n1 t1 n2 (lineOf t2)
      | _, _ => (0, 0)
    | 3 => match x, y with
      | .zero, .zero => (f.nar, fNV)
      | .val n _, .zero => f.extreme n true
      | .val n1 t1, .val n2 t2 => quot n1 t1 n2 (-lineOf t2)
      | _, _ => (0, 0)
    | 4 => match x with
      | .val n t => fin fun q => some (expExact q n t)
      | _ => (f.code false (2 ^ f.frac : Nat), 0)
    | 5 => match x with
      | .val true _ => (f.nar, fNV)
      | .val false t => if t = idxOne then (0, 0) else fin fun q => some (lnExact q t)
      | _ => f.extreme true true
    | _ => fin fun q => if y.key ≤ x.key then lseExact q x y else lseExact q y x

/-- The operations that do not round, but for `maxi` (R203, R204). -/
def attSimple (f : SliFmt) (op a b : Nat) (g : Bool × Bool) : Elem :=
  let (x, nx) := f.decode a
  let (y, ny) := f.decode b
  let w := f.width
  let one (r : Sli) : Elem := (f.encode r, nx)
  let bool (c : Bool) : Elem := ((boolElem w c).1, nx ||| ny)
  let ordered : Bool := x != .nar && y != .nar
  match op with
  | 7 => one (match x with
      | .val n t => .val (!n) t
      | v => v)
  | 8 => one (match x with
      | .val _ t => .val false t
      | v => v)
  | 9 => match x with
    | .zero => f.extreme false true
    | .val n t => one (.val n (2 * idxOne - t))
    | .nar => one .nar
  | 10 => (f.encode (if x = .nar then y else if y = .nar then x else if x.key < y.key then x else y), nx ||| ny)
  | 11 => (f.encode (if y.key < x.key then x else y), nx ||| ny)
  | 13 => bool (ordered && x.key == y.key)
  | 14 => bool (ordered && decide (x.key < y.key))
  | 15 => bool (ordered && decide (x.key ≤ y.key))
  | 16 => bool (!ordered)
  | 17 => (if g.1 then a else b, 0)
  | _ => (if g.2 then a else b, 0)

/-- `maxi` on one element: whether the candidate wins, and the maximum (R205). -/
def attMaxi (f : SliFmt) (a b : Nat) : Bool × Elem :=
  let (x, nx) := f.decode a
  let (y, ny) := f.decode b
  let win := x != .nar && (y == .nar || decide (y.key < x.key))
  (win, (f.encode (if win then x else y), nx ||| ny))

/-- The formats of a conversion's two sides (R206). -/
inductive CvtFmt where
  | sl (f : SliFmt)
  | fp (f : FpFmt)
  deriving DecidableEq, Repr

/-- The width of a side. -/
def CvtFmt.width : CvtFmt → Nat
  | .sl f => f.width
  | .fp .fp32 => 32
  | .fp .bf16 => 16

/-- A conversion of the Attar unit: shape, source, result, and whether it is a `.sat` form (R206). -/
structure AttCvt where
  shape : CvtShape
  src : CvtFmt
  dst : CvtFmt
  sat : Bool := false
  deriving DecidableEq, Repr

/-- The conversions by port and OP (R206). -/
def attCvt (f : SliFmt) (op : Nat) : Option AttCvt :=
  let s32 : CvtFmt := .sl .sl32
  let s16 : CvtFmt := .sl .sl16
  match f, op with
  | .sl32, 20 => some { shape := .each, src := s32, dst := .fp .fp32 }
  | .sl32, 21 => some { shape := .each, src := s32, dst := .fp .fp32, sat := true }
  | .sl32, 22 => some { shape := .pair, src := s32, dst := .fp .bf16 }
  | .sl32, 23 => some { shape := .pair, src := s32, dst := s16 }
  | .sl32, 24 => some { shape := .each, src := .fp .fp32, dst := s32 }
  | .sl32, 25 => some { shape := .lo, src := .fp .bf16, dst := s32 }
  | .sl32, 26 => some { shape := .hi, src := .fp .bf16, dst := s32 }
  | .sl32, 27 => some { shape := .lo, src := s16, dst := s32 }
  | .sl32, 28 => some { shape := .hi, src := s16, dst := s32 }
  | .sl16, 20 => some { shape := .each, src := s16, dst := .fp .bf16 }
  | .sl16, 21 => some { shape := .each, src := s16, dst := .fp .bf16, sat := true }
  | .sl16, 22 => some { shape := .lo, src := s16, dst := .fp .fp32 }
  | .sl16, 23 => some { shape := .hi, src := s16, dst := .fp .fp32 }
  | .sl16, 24 => some { shape := .each, src := .fp .bf16, dst := s16 }
  | .sl16, 25 => some { shape := .pair, src := .fp .fp32, dst := s16 }
  | .sl16, 26 => some { shape := .pair, src := s32, dst := s16 }
  | _, _ => none

/-- Whether a port defines an OP (R202, R206). -/
def attOp (f : SliFmt) (op : Nat) : Bool := decide (op ≤ 18) || (attCvt f op).isSome

/-- Whether an operation rounds: all but the simple ones and the exact widenings (R202, R206). -/
def attRounds (f : SliFmt) (op : Nat) : Bool := decide (op ≤ 6) || (decide (20 ≤ op) && !(f == .sl32 && decide (27 ≤ op)))

/-- One element converted (R88, R89, R206). -/
def attConvert (c : AttCvt) (m : Rounding) (a : Nat) : Elem :=
  let key := attKey 32 m a 0
  match c.src, c.dst with
  | .sl f, .sl g => let (x, nv) := f.decode a; let (r, fl) := g.ofSli m x; (r, fl ||| nv)
  | .sl f, .fp g => let (x, nv) := f.decode a; let (r, fl) := g.ofSli m c.sat key x; (r, fl ||| nv)
  | .fp f, .sl g => g.ofNum m key (f.decode a)
  | .fp f, .fp g => g.round m false (f.decode a)

/-! ### Steps (R199) -/

/-- The steps of a rounding operation and its level crossing. -/
def arithSteps (f : SliFmt) (op a b r : Nat) : Nat × Bool :=
  let la := f.level a
  let lb := if op = 4 ∨ op = 5 then 1 else f.level b
  let cross := f.level r != max la lb
  (3 + (la - 1) + (lb - 1) + (if cross then 1 else 0), cross)

/-- The steps of a conversion: by the level of its SLI operand, or of the result of a `from.*`. -/
def cvtSteps (port : SliFmt) (op : Nat) (c : AttCvt) (a r : Nat) : Nat :=
  if op < 24 then
    match c.src with
    | .sl f => 3 + (f.level a - 1)
    | .fp _ => 3
  else 3 + (port.level r - 1)

/-! ### Rows -/

/-- The outcome of an Attar operation on rows: result elements and their width, the steps of the slowest, and for `maxi`
the index elements. -/
structure AttResult where
  width : Nat
  elems : List Elem
  steps : Nat
  idx : Option (List Nat)
  deriving DecidableEq, Repr

/-- The largest of a list. -/
def maxNat (l : List Nat) : Nat := l.foldl max 0

/-- An Attar operation on rows (R197 to R206): `x` is att.x, `q3` the constant, `ord` the ordinal of the iteration. -/
def attRow (f : SliFmt) (op : Nat) (rnd : BitVec 3) (draw a b x : Row) (q3 : Lane) (ord : Nat) (g0 g1 : BitVec 64) :
    AttResult :=
  let w := f.width
  let n := 2048 / w
  let at1 (e : Nat) : Nat × Nat := (elemAt w a e, elemAt w b e)
  match attCvt f op with
  | some c =>
    let dw := c.dst.width
    let m := 2048 / dw
    let rs := (List.range m).map fun e =>
      let v := cvtSource c.shape c.src.width m a b e
      let r := attConvert c (roundingAt rnd draw dw e) v
      (r, cvtSteps f op c v r.1)
    { width := dw, elems := rs.map (·.1), steps := maxNat (rs.map (·.2)), idx := none }
  | none =>
    if op ≤ 6 then
      let rs := (List.range n).map fun e =>
        let (u, v) := at1 e
        let r := attArith f op (roundingAt rnd draw w e) u v
        let (st, cross) := arithSteps f op u v r.1
        ((r.1, r.2 ||| when cross fLX), st)
      { width := w, elems := rs.map (·.1), steps := maxNat (rs.map (·.2)), idx := none }
    else if op = 12 then
      let rs := (List.range n).map fun e =>
        let (u, v) := at1 e
        let (win, r) := attMaxi f u v
        (r, if win then (q3.toNat + ord * n + e) % 2 ^ w else elemAt w x e)
      { width := w, elems := rs.map (·.1), steps := 3, idx := some (rs.map (·.2)) }
    else
      { width := w, steps := 3, idx := none,
        elems := (List.range n).map fun e => let (u, v) := at1 e; attSimple f op u v (laneSel g0 g1 w e) }

end Sys2Proof.Machine
end

