-- ==== Sys2Proof/Machine/RowOps.lean ====
section
/-! DEFINITION. The SHF unit: row moves, reductions and scans, and the column axis over a frame (R207 to R211). -/

namespace Sys2Proof.Machine

/-- The three element kinds of the reductions (R208). -/
inductive SumKind where
  | i32 | fp32 | sl32
  deriving DecidableEq, Repr

/-- The kind that stands `n` places after the first in the tables of R208 and R210. -/
def SumKind.ofPlace : Nat → SumKind
  | 0 => .i32
  | 1 => .fp32
  | _ => .sl32

/-- The exact sum of FP32 values before its rounding, with NV for ∞ − ∞ and the sign of an exact zero (R209). -/
def fpSum (mode : BitVec 3) (vs : List Num) : Num × FlagSet :=
  if vs.any Num.isNan then (.nan, 0)
  else if vs.any (· == .inf false) && vs.any (· == .inf true) then (.nan, fNV)
  else if vs.any (· == .inf false) then (.inf false, 0)
  else if vs.any (· == .inf true) then (.inf true, 0)
  else
    let v : Int := (vs.map fun x => x.signed * Int.ofNat (2 ^ 160 / x.den)).sum
    if v = 0 then
      (.fin (vs.all (fun x => x.isZero && x.isNeg)
        || (mode == 3 && !vs.all (fun x => x.isZero && !x.isNeg))) 0 1, 0)
    else (.fin (decide (v < 0)) v.natAbs (2 ^ 160), 0)

/-- The terms of an exact sum as one number, which does not depend on their order (R209, R288). -/
def termsKey (vs : List Sli) : Nat :=
  (sliTerms vs).foldl (fun s t => s * 2 ^ 80 + (t.1 + 2 ^ 20).toNat * 2 ^ 40 + (t.2 + 2 ^ 32).toNat) 0

/-- The sum of lanes, rounded once (R208, R209). -/
def sumLanes (k : SumKind) (m : Rounding) (vs : List Nat) : Elem :=
  match k with
  | .i32 => (vs.foldl (· + ·) 0 % 2 ^ 32, 0)
  | .fp32 => FpFmt.fp32.finish m (fpSum m.mode (vs.map FpFmt.fp32.decode))
  | .sl32 =>
    let ds := vs.map SliFmt.sl32.decode
    let nv := ds.foldl (fun f d => f ||| d.2) 0
    if ds.any (fun d => d.1 == .nar) then (SliFmt.sl32.nar, nv)
    else
      let (c, f) := SliFmt.sl32.finish m (attKey 33 m 0 0 + termsKey (ds.map (·.1)) * 2 ^ 96) fun q =>
        sliSum q (ds.map (·.1))
      (c, f ||| nv)

/-- The place of a lane in the order of a maximum (R209). -/
def maxKey (k : SumKind) (v : Nat) : Int :=
  match k with
  | .i32 => intOf true 32 v
  | .fp32 => if (FpFmt.fp32.decode v).isNan then 2 ^ 40 else FpFmt.fp32.order v
  | .sl32 => (SliFmt.sl32.decode v).1.key

/-- The lowest position of the largest lane, with its place in the order. -/
def argMax (k : SumKind) : Nat → List Nat → Option (Nat × Int)
  | _, [] => none
  | i, v :: r =>
    match argMax k (i + 1) r with
    | none => some (i, maxKey k v)
    | some (j, b) => if b ≤ maxKey k v then some (i, maxKey k v) else some (j, b)

/-- The maximum of lanes, its lowest position, and the flags (R209, R300). -/
def maxLanes (k : SumKind) (vs : List Nat) : Nat × Nat × FlagSet :=
  let i := ((argMax k 0 vs).map (·.1)).getD 0
  let v := vs.getD i 0
  match k with
  | .i32 => (v, i, 0)
  | .fp32 => (if (FpFmt.fp32.decode v).isNan then FpFmt.fp32.nanCode else v, i, 0)
  | .sl32 => (SliFmt.sl32.encode (SliFmt.sl32.decode v).1, i, vs.foldl (fun f x => f ||| (SliFmt.sl32.decode x).2) 0)

/-- The lanes of a row as numbers. -/
def lanesOf (r : Row) : List Nat := (List.range 64).map fun l => (laneOf r l).toNat

/-- Whether shf.row defines an OP (R208). -/
def shfRowOp (op : Nat) : Bool := decide (op ≤ 14)
/-- Whether a shf.row operation rounds (R208). -/
def shfRowRounds (op : Nat) : Bool := op == 4 || op == 5 || op == 13 || op == 14
/-- Whether shf.col defines an OP (R210). -/
def shfColOp (op : Nat) : Bool := decide (op ≤ 11)
/-- Whether a shf.col operation rounds (R210). -/
def shfColRounds (op : Nat) : Bool := op == 3 || op == 4 || op == 9 || op == 10
/-- Whether a shf.col operation uses the source row number (R210). -/
def shfColUsesRow (op : Nat) : Bool := decide (op ≤ 1)
/-- Whether a shf.col operation writes the other frame (R210). -/
def shfColFrame (op : Nat) : Bool := op == 0 || op == 1 || decide (8 ≤ op)
/-- How many draws a shf.col operation takes under RND 0b101 (R207). -/
def shfColDraws (op : Nat) : Nat := if op = 9 ∨ op = 10 then 16 else 1

/-- A row operation of SHF: the lanes of shf.r (R208). -/
def shfRow (op : Nat) (rnd : BitVec 3) (draw a b : Row) : List Elem :=
  let k := (laneOf b 0).toNat % 64
  let ls := lanesOf a
  let all (x : Elem) : List Elem := List.replicate 64 x
  let pair (x : Nat × Nat × FlagSet) : List Elem :=
    List.replicate 32 (x.1, x.2.2) ++ List.replicate 32 (x.2.1, x.2.2)
  let one (x : Nat × Nat × FlagSet) : List Elem := all (x.1, x.2.2)
  let m0 := roundingAt rnd draw 32 0
  match op with
  | 0 => (List.range 64).map fun l => (ls.getD ((l + 64 - k) % 64) 0, 0)
  | 1 => all (ls.getD k 0, 0)
  | 2 => (List.range 64).map fun l => (ls.getD ((laneOf b l).toNat % 64) 0, 0)
  | 3 | 4 | 5 => all (sumLanes (.ofPlace (op - 3)) m0 ls)
  | 6 | 7 | 8 => one (maxLanes (.ofPlace (op - 6)) ls)
  | 9 | 10 | 11 => pair (maxLanes (.ofPlace (op - 9)) ls)
  | _ => (List.range 64).map fun l => sumLanes (.ofPlace (op - 12)) (roundingAt rnd draw 32 l) (ls.take (l + 1))

/-- The column of lane `l` of a frame, row 0 first. -/
def frameCol (f : Vector Row 16) (l : Nat) : List Nat := f.toList.map fun r => (laneOf r l).toNat

/-- A column operation of SHF over a frame from row `m`: one row for shf.r, or the 16 rows of the other frame (R210). -/
def shfCol (op m : Nat) (rnd : BitVec 3) (draws : List Row) (f : Vector Row 16) : List (List Elem) :=
  let row (i : Nat) : Row := f.toList.getD (i % 16) 0
  let plain (r : Row) : List Elem := (lanesOf r).map fun v => (v, 0)
  let rows (g : Nat → Nat → Elem) : List (List Elem) :=
    (List.range 16).map fun i => (List.range 64).map (g i)
  let lanes (g : Nat → Elem) : List (List Elem) := [(List.range 64).map g]
  match op with
  | 0 => (List.range 16).map fun i => plain (row (i + 16 - m))
  | 1 => List.replicate 16 (plain (row m))
  | 2 | 3 | 4 => lanes fun l => sumLanes (.ofPlace (op - 2)) (roundingAt rnd (draws.getD 0 0) 32 l) (frameCol f l)
  | 5 | 6 | 7 => lanes fun l => let x := maxLanes (.ofPlace (op - 5)) (frameCol f l); (x.1, x.2.2)
  | 8 | 9 | 10 => rows fun i l =>
      sumLanes (.ofPlace (op - 8)) (roundingAt rnd (draws.getD i 0) 32 l) ((frameCol f l).take (i + 1))
  | _ => rows fun i l => ((laneOf (row (l % 16)) (16 * (l / 16) + i)).toNat, 0)

end Sys2Proof.Machine
end

