-- ==== Sys2Proof/Machine/GridImage.lean ====
section
/-! DEFINITION. Configuration images: their fields, move words, and the causes for which `gcfg` refuses one (R170 to R174, R180,
R181, R188, R189, R198, R210, R298, R311). -/

namespace Sys2Proof.Machine

/-! ### Move words -/

/-- A move (R171). -/
structure Move where
  src : Nat
  dst : Nat
  op : Nat
  rnd : BitVec 3
  deriving DecidableEq, Repr

/-- Move `i` of a move word (R171). -/
def moveAt (w : BitVec 96) (i : Nat) : Move :=
  let m := w.extractLsb' (22 * i) 22
  { src := (m.extractLsb' 15 7).toNat, dst := (m.extractLsb' 8 7).toNat, op := (m.extractLsb' 3 5).toNat,
    rnd := m.extractLsb' 0 3 }

/-- Whether a move is empty (R171). -/
def Move.empty (m : Move) : Bool := m.src == 0 && m.dst == 0

/-- The moves of a word that are not empty, in move order. -/
def wordMoves (w : BitVec 96) : List Move := ((List.range 4).map (moveAt w)).filter fun m => !m.empty

/-- The guard of a word (R171). -/
def wordGuard (w : BitVec 96) : BitVec 2 := w.extractLsb' 92 2

/-- The unit of a trigger port: 1 ALU, 2 MUL, 3 ATT, 4 and 5 the two axes of SHF (R174, R207); 0 for every other
destination. -/
def unitOfPort (d : Nat) : Nat :=
  if 0x68 ≤ d ∧ d ≤ 0x6C then 1 else if 0x6D ≤ d ∧ d ≤ 0x71 then 2 else if d = 0x72 ∨ d = 0x73 then 3
  else if d = 0x74 then 4 else if d = 0x75 then 5 else 0

/-- The SLI format of an Attar port. -/
def attFmt (d : Nat) : SliFmt := if d = 0x72 then .sl32 else .sl16

/-- Whether a source code names a tap port, acc0 or acc1. -/
def isEdgeRead (c : Nat) : Bool := decide (0x44 ≤ c ∧ c ≤ 0x49)

/-! ### Ports of a tile (R170) -/

/-- Whether tile (y, x) has a neighbour on side `k`: N, E, S, W. -/
def hasSide (y x k : Nat) : Bool :=
  match k with
  | 0 => decide (0 < y)
  | 1 => decide (x < 7)
  | 2 => decide (y < 3)
  | _ => decide (0 < x)

/-- Whether a source port exists on tile (y, x) of an image and is bound (R170, R181). -/
def srcOk (tapb : Nat → BitVec 32) (y x c : Nat) : Bool :=
  decide (c ≤ 0x2F)
    || (decide (0x40 ≤ c ∧ c ≤ 0x43) && hasSide y x (c - 0x40))
    || (decide (0x44 ≤ c ∧ c ≤ 0x47) && x == 0 && (tapb (4 * y + (c - 0x44))).getLsbD 31)
    || ((c == 0x48 || c == 0x49) && y == 3)
    || c == 0x60 || c == 0x61 || c == 0x63 || c == 0x64 || c == 0x65

/-- Whether a destination port exists on tile (y, x) of an image and is bound (R170, R181). -/
def dstOk (outb : Nat → BitVec 16) (y x c : Nat) : Bool :=
  decide (c ≤ 8) || c == 0x0D || c == 0x0E || decide (0x10 ≤ c ∧ c ≤ 0x2F)
    || (decide (0x40 ≤ c ∧ c ≤ 0x43) && hasSide y x (c - 0x40))
    || ((c == 0x44 || c == 0x45) && x == 7 && (outb (2 * y + (c - 0x44))).getLsbD 15)
    || ((c == 0x48 || c == 0x4A || c == 0x4B || decide (0x50 ≤ c ∧ c ≤ 0x58)) && y == 3)
    || decide (0x60 ≤ c ∧ c ≤ 0x63) || c == 0x65 || decide (0x68 ≤ c ∧ c ≤ 0x75)

/-- Whether a move's OP and RND are defined for its destination, and its source allowed (R171, R179, R188, R189, R198,
R207, R208, R210). -/
def opOk (m : Move) : Bool :=
  let rounds (d r : Bool) : Bool := d && (m.rnd == 0 || (r && m.rnd != 7))
  match unitOfPort m.dst with
  | 1 => let c := LaneClass.ofPort (m.dst - 0x68); rounds (c.aluOp m.op) (c.aluRounds m.op)
  | 2 => let c := LaneClass.ofPort (m.dst - 0x6D); rounds (c.mulOp m.op) (c.mulRounds m.op)
  | 3 => rounds (attOp (attFmt m.dst) m.op) (attRounds (attFmt m.dst) m.op)
  | 4 => rounds (shfRowOp m.op) (shfRowRounds m.op)
  | 5 =>
    rounds (shfColOp m.op) (shfColRounds m.op) && decide (0x10 ≤ m.src ∧ m.src ≤ 0x2F)
      && (shfColUsesRow m.op || m.src % 16 == 0)
  | _ => if m.dst = 0x4A ∨ m.dst = 0x4B then decide (m.op ≤ 7) && m.rnd != 7 else m.op == 0 && m.rnd == 0

/-- Whether R173 forbids a word: one destination twice, one unit twice, or one edge port read twice. `nil` counts as no
destination (DESIGN CHOICE, log entry 49). -/
def wordClash (ms : List Move) : Bool :=
  hasRepeat ((ms.map (·.dst)).filter (· != 0)) || hasRepeat ((ms.map fun m => unitOfPort m.dst).filter (· != 0))
    || hasRepeat ((ms.map (·.src)).filter isEdgeRead)

/-! ### The image (R180) -/

/-- `n` bytes of an image at an offset. -/
def imgField (b : List Byte) (o n : Nat) : Nat := leNat ((b.drop o).take n)

/-- ISIZE. -/
def imgSize (b : List Byte) : Nat := imgField b 0 4
/-- P. -/
def imgPeriod (b : List Byte) : Nat := imgField b 4 1
/-- NTILE. -/
def imgTiles (b : List Byte) : Nat := imgField b 6 1
/-- TAPB entry `i`. -/
def imgTap (b : List Byte) (i : Nat) : BitVec 32 := BitVec.ofNat 32 (imgField b (8 + 4 * i) 4)
/-- The offset of tile block `j`. -/
def imgBlock (b : List Byte) (j : Nat) : Nat := 96 + j * (20 + 12 * imgPeriod b)
/-- The tile number of block `j`. -/
def imgTileNo (b : List Byte) (j : Nat) : Nat := imgField b (imgBlock b j) 1
/-- Constant `i` of block `j`. -/
def imgConst (b : List Byte) (j i : Nat) : Lane := BitVec.ofNat 32 (imgField b (imgBlock b j + 4 + 4 * i) 4)
/-- The offset of move word `w` of block `j`. -/
def imgWordAt (b : List Byte) (j w : Nat) : Nat := imgBlock b j + 20 + 12 * w
/-- Move word `w` of block `j`. -/
def imgWord (b : List Byte) (j w : Nat) : BitVec 96 := BitVec.ofNat 96 (imgField b (imgWordAt b j w) 12)

/-- A check of an image: whether it holds, and the byte offset that a refusal reports. -/
structure ImgCheck where
  ok : Bool
  off : Nat
  deriving DecidableEq, Repr

/-- The checks of the header (R180, R181). -/
def headerChecks (b : List Byte) : List ImgCheck :=
  let size := alignUp (96 + imgTiles b * (20 + 12 * imgPeriod b)) 8
  [⟨imgSize b == size && decide (size ≤ b.length), 0⟩,
   ⟨decide (1 ≤ imgPeriod b ∧ imgPeriod b ≤ 64), 4⟩,
   ⟨decide (imgField b 5 1 ≤ 1), 5⟩,
   ⟨decide (1 ≤ imgTiles b ∧ imgTiles b ≤ 32), 6⟩,
   ⟨imgField b 7 1 == 0, 7⟩]
  ++ (List.range 16).map (fun i =>
       let e := imgTap b i
       ⟨if e.getLsbD 31 then e.extractLsb' 15 16 == 0 else e == 0, 8 + 4 * i⟩)
  ++ (List.range 8).map (fun i =>
       let e := imageOut b i
       ⟨if e.getLsbD 15 then e.extractLsb' 6 9 == 0 else e == 0, 72 + 2 * i⟩)
  ++ [⟨imgField b 88 8 == 0, 88⟩]

/-- The checks of a move word of tile (y, x) (R171, R173, R181). -/
def wordOk (b : List Byte) (tile : Nat) (last : Bool) (w : BitVec 96) : Bool :=
  let y := tile / 8
  let x := tile % 8
  let ms := wordMoves w
  w.getLsbD 95 == last && !w.getLsbD 94 && w.extractLsb' 88 4 == 0
    && (List.range 4).all (fun i => let m := moveAt w i; !m.empty || (m.op == 0 && m.rnd == 0))
    && ms.all (fun m => srcOk (imgTap b) y x m.src && dstOk (imageOut b) y x m.dst && opOk m)
    && !wordClash ms

/-- The checks of the tile blocks, in the order of their bytes (R180, R181). -/
def blockChecks (b : List Byte) : List ImgCheck :=
  (List.range (imgTiles b)).flatMap fun j =>
    let t := imgTileNo b j
    [⟨decide (t ≤ 31) && (j == 0 || decide (imgTileNo b (j - 1) < t)), imgBlock b j⟩,
     ⟨imgField b (imgBlock b j + 1) 3 == 0, imgBlock b j + 1⟩]
    ++ (List.range (imgPeriod b)).map fun w =>
         ⟨wordOk b t (w + 1 == imgPeriod b) (imgWord b j w), imgWordAt b j w⟩

/-- The matrix parameter ports and mx.go that word `w` of a block writes. -/
def matrixPorts (b : List Byte) (j w : Nat) : List Nat :=
  ((wordMoves (imgWord b j w)).map (·.dst)).filter fun d => decide (0x50 ≤ d ∧ d ≤ 0x58)

/-- No two tiles write the same mx.p or mx.go in the same word number (R173); a refusal reports the later block's word. -/
def sharedChecks (b : List Byte) : List ImgCheck :=
  (List.range (imgTiles b)).flatMap fun j =>
    (List.range (imgPeriod b)).map fun w =>
      ⟨(List.range j).all (fun i => (matrixPorts b i w).all fun d => !(matrixPorts b j w).contains d), imgWordAt b j w⟩

/-- The zero padding that ends an image (R180). -/
def paddingCheck (b : List Byte) : ImgCheck :=
  let raw := 96 + imgTiles b * (20 + 12 * imgPeriod b)
  ⟨imgField b raw (imgSize b - raw) == 0, raw⟩

/-- The first encoding cause for which an image is refused, as the byte offset that FADDR reports (R298); an index with no
image reports offset 0. -/
def imageRefused (b : List Byte) : Option Nat :=
  if b.length < 96 then some 0
  else match (headerChecks b).find? (fun c => !c.ok) with
    | some c => some c.off
    | none => ((blockChecks b ++ sharedChecks b ++ [paddingCheck b]).find? (fun c => !c.ok)).map (·.off)

/-- Whether a binding is that of a fed signal or of the CP (R311). -/
def bindClash (b : Option Binding) : Bool := b == some .stream || b == some .remote || b == some .cp

/-- The first binding cause or breach of the lag-one rule, with its entry: TAPB entries first, then OUTB entries
(R67, R311). `before` holds the bindings before the `gcfg` issued. -/
def bindingRefused (x : Ctx) (before : Vector (Option Binding) 64) (b : List Byte) : Option (BitVec 8 × Nat) :=
  let outs := ((List.range 8).map (imageOut b)).filter (·.getLsbD 15) |>.map fun e => (e.extractLsb' 0 6).toNat
  let tap (i : Nat) : Option (BitVec 8 × Nat) :=
    let e := imgTap b i
    if e.getLsbD 31 then
      let lag := (e.extractLsb' 0 9).toNat
      match x.sig (e.extractLsb' 9 6) with
      | none => some (0x26, i)
      | some g =>
        if g.plan.depth ≤ lag then some (0x26, i)
        else if lag = 0 ∧ outs.contains (e.extractLsb' 9 6).toNat then some (0x27, i) else none
    else none
  let out (i : Nat) : Option (BitVec 8 × Nat) :=
    let e := imageOut b i
    let n := e.extractLsb' 0 6
    if e.getLsbD 15 then
      if (x.sig n).isNone || bindClash (before.toList.getD n.toNat none)
          || decide (1 < (outs.filter (· == n.toNat)).length) then some (0x26, 16 + i)
      else none
    else none
  ((List.range 16).findSome? tap).orElse fun _ => (List.range 8).findSome? out

/-! ### Grid state set to its beginning (R169, R181, R182) -/

/-- The grid's registers, queues and masks as `gcfg` and a change of domain set them; move memories and constants are given
by `mem`. -/
def Grid.cleared (g : Grid) (mem : Nat → Tile) : Grid :=
  { g with tiles := Vector.ofFn fun i => mem i.val, params := Vector.replicate 8 0, ports := Vector.replicate 2 {} }

/-- The tile of an image, or an idle one (R180). -/
def imageTile (b : List Byte) (t : Nat) : Tile :=
  match (List.range (imgTiles b)).find? fun j => imgTileNo b j == t with
  | none => {}
  | some j =>
    { q := Vector.ofFn fun i => imgConst b j i.val,
      mem := Vector.ofFn fun w => if w.val < imgPeriod b then imgWord b j w.val else 0 }

/-- An image loaded (R181, steps 3 to 5). -/
def Grid.load (g : Grid) (b : List Byte) : Grid :=
  { g.cleared (imageTile b) with
    period := imgPeriod b, ticking := (BitVec.ofNat 8 (imgField b 5 1)).getLsbD 0,
    tapb := Vector.ofFn fun i => imgTap b i.val, outb := Vector.ofFn fun i => imageOut b i.val }

/-- The grid as it passes to another domain: the empty configuration, and nothing of the earlier owner (R169, R182). -/
def Grid.forDomain (g : Grid) (d : DomNum) : Grid :=
  if g.dom = some d then g
  else
    { g.cleared (fun _ => {}) with
      dom := some d, period := 1, ticking := false, tapb := Vector.replicate 16 0, outb := Vector.replicate 8 0 }

/-- Whether the grid is idle: no run, no image being loaded, no operation in flight (R182). -/
def Grid.idle (g : Grid) : Bool :=
  g.run.isNone && g.loading.isNone && g.tiles.all fun t => t.ops.isEmpty && t.att.isEmpty

end Sys2Proof.Machine
end

