-- ==== Sys2Proof/Machine/GridWord.lean ====
section
/-! DEFINITION. One grid cycle: what its moves read, write and start, results that land, and the freeze rule (R170 to R179,
R183, R187, R200). -/

namespace Sys2Proof.Machine

/-! ### The words of a cycle -/

/-- A row register by its place, 0 beyond the last. -/
def rowIn {n : Nat} (v : Vector Row n) (i : Nat) : Row := v.toList.getD i 0

/-- The lanes in which a word's moves act (R172). -/
def Tile.mask (t : Tile) (guard : BitVec 2) : BitVec 64 :=
  match guard.toNat with
  | 1 => t.g[0]
  | 2 => t.g[1]
  | _ => BitVec.allOnes 64

/-- A tile's word of a cycle: its tile, its guard, its moves. -/
structure TileWord where
  tile : Fin 32
  guard : BitVec 2
  moves : List Move
  deriving DecidableEq, Repr

/-- The words of a cycle that hold moves, in ascending tile number; in an even iteration a word under the iteration-odd
guard is empty (R172). -/
def Grid.words (g : Grid) (r : GridRun) : List TileWord :=
  (List.finRange 32).filterMap fun t =>
    let w := (g.tiles[t.val]'t.isLt).mem.toList.getD r.word 0
    let ms := wordMoves w
    if ms.isEmpty || (wordGuard w == 3 && r.ord % 2 == 0) then none
    else some { tile := t, guard := wordGuard w, moves := ms }

/-- Every move of a cycle with its tile. -/
def cycleMoves (ws : List TileWord) : List (Fin 32 × Move) := ws.flatMap fun w => w.moves.map fun m => (w.tile, m)

/-- How many moves of a cycle satisfy a test. -/
def countMoves (ws : List TileWord) (p : Move → Bool) : Nat := ((cycleMoves ws).filter fun m => p m.2).length

/-! ### Edge ports -/

/-- The signal and lag of the tap port that code `c` names on a tile (R176, R180). -/
def Grid.tapOf (g : Grid) (t : Fin 32) (c : Nat) : SigNum × Nat :=
  let e := g.tapb.toList.getD (4 * (t.val / 8) + (c - 0x44)) 0
  (e.extractLsb' 9 6, (e.extractLsb' 0 9).toNat)

/-- The place of a tap port among the cursors. -/
def tapPlace (t : Fin 32) (c : Nat) : Nat := 4 * (t.val / 8) + (c - 0x44)

/-- The place of an out port among the cursors. -/
def outPlace (t : Fin 32) (c : Nat) : Nat := 2 * (t.val / 8) + (c - 0x44)

/-- The signal of the out port that code `c` names on a tile (R177, R180). -/
def Grid.outOf (g : Grid) (t : Fin 32) (c : Nat) : SigNum := (g.outb.toList.getD (outPlace t c) 0).extractLsb' 0 6

/-- Whether a tap read waits (R62, R176). -/
def Grid.tapWaits (g : Grid) (x : Ctx) (t : Fin 32) (c : Nat) : Bool :=
  let (n, lag) := g.tapOf t c
  (x.sig n).any fun s => decide (lag ≤ s.adv) && !s.readable (s.adv - lag)

/-- What an out-port write meets: nothing, a wait, or a fault (R63, R177, R308). An unbound signal takes it. -/
inductive OutMeet where
  | ok | wait
  | fault (cause : BitVec 8)
  deriving DecidableEq, Repr

/-- What a write of the out port that code `c` names meets (R56, R63, R177, R308). -/
def Grid.outMeets (g : Grid) (x : Ctx) (t : Fin 32) (c : Nat) : OutMeet :=
  match x.sig (g.outOf t c) with
  | none => .fault 0x25
  | some s =>
    if s.bind ≠ .grid ∧ s.bind ≠ .unbound then .fault 0x25
    else match s.writeTest s.adv with
      | .ok => .ok
      | .wait => .wait
      | .full => .fault 0x23

/-- The requests of a readout port that have rows still to be delivered (R179). -/
def AccPort.pending (p : AccPort) : Nat := p.reqs.length + (p.coming.filter (·.last)).length

/-- Whether `n` reads of a readout port in one cycle find too few rows while a request is pending (R179). -/
def AccPort.readWaits (p : AccPort) (n : Nat) : Bool := decide (p.rows.length < n) && decide (0 < p.pending)

/-- Whether a move is a write of an out port. -/
def isOut (m : Move) : Bool := m.dst == 0x44 || m.dst == 0x45

/-- Whether a move reads att.r or att.x, as a `maxi` trigger does (R183, R197). -/
def readsAtt (m : Move) : Bool := m.src == 0x63 || m.src == 0x64 || (unitOfPort m.dst == 3 && m.op == 12)

/-- Whether a cycle is frozen (R183). -/
def Core.frozen (k : Core) (x : Ctx) (ws : List TileWord) : Bool :=
  let g := k.grid
  (cycleMoves ws).any (fun (t, m) =>
    (decide (0x44 ≤ m.src ∧ m.src ≤ 0x47) && g.tapWaits x t m.src)
      || (isOut m && g.outMeets x t m.dst == .wait)
      || (readsAtt m && !(g.tiles[t.val]'t.isLt).att.isEmpty))
  || decide (16 < k.mx.afeed.length + countMoves ws (·.dst == 0x48))
  || decide (16 < k.mx.queue.length + countMoves ws (·.dst == 0x58))
  || (List.finRange 2).any (fun p =>
      let port := g.ports[p.val]'p.isLt
      decide (4 < port.pending + countMoves ws (·.dst == 0x4A + p.val) ∧ 0 < countMoves ws (·.dst == 0x4A + p.val))
        || port.readWaits (countMoves ws (·.src == 0x48 + p.val)))

/-- The first out-port write of a cycle that is a fault: its cause and signal (R308). -/
def Grid.wordFault (g : Grid) (x : Ctx) (ws : List TileWord) : Option (BitVec 8 × SigNum) :=
  (cycleMoves ws).findSome? fun (t, m) =>
    if isOut m then
      match g.outMeets x t m.dst with
      | .fault c => some (c, g.outOf t m.dst)
      | _ => none
    else none

/-! ### Step 1: reading -/

/-- One draw of a tile's random source (R175). -/
def drawLane (seed cnt : BitVec 64) (l : Nat) : Lane :=
  let z := seed + (64 * cnt + BitVec.ofNat 64 (l + 1)) * 0x9E3779B97F4A7C15
  let z := (z ^^^ (z >>> 30)) * 0xBF58476D1CE4E5B9
  let z := (z ^^^ (z >>> 27)) * 0x94D049BB133111EB
  (z ^^^ (z >>> 31)).setWidth 32

/-- A draw: the row, and the tile with its count raised (R175). -/
def Tile.draw (t : Tile) : Row × Tile :=
  (rowOfLanes ((List.range 64).map (drawLane t.seed t.cnt)), { t with cnt := t.cnt + 1 })

/-- Draws in order. -/
def Tile.drawN (t : Tile) : Nat → List Row × Tile
  | 0 => ([], t)
  | n + 1 =>
    let (r, t1) := t.draw
    let (l, t2) := t1.drawN n
    (r :: l, t2)

/-- A row of the mask lanes as numbers 1 and 0 (R170). -/
def maskRow (g : BitVec 64) : Row := rowOfLanes ((List.range 64).map fun l => if g.getLsbD l then 1 else 0)

/-- The lanes of a row that are not 0 (R170). -/
def nonzeroLanes (r : Row) : BitVec 64 :=
  (List.range 64).foldl (fun m l => if laneOf r l = 0 then m else m ||| (1#64 <<< l)) 0

/-- A grid with a tile replaced. -/
def Grid.setTile (g : Grid) (t : Fin 32) (v : Tile) : Grid := { g with tiles := g.tiles.set t.val v t.isLt }

/-- The row that the neighbour on side `k` last wrote toward a tile (R170, R173). -/
def Grid.linkFrom (g : Grid) (t : Fin 32) (k : Nat) : Row :=
  let other (i : Nat) (side : Nat) : Row := ((g.tiles.toList[i]?).map fun u => rowIn u.link side).getD 0
  match k with
  | 0 => if 8 ≤ t.val then other (t.val - 8) 2 else 0
  | 1 => if t.val % 8 < 7 then other (t.val + 1) 3 else 0
  | 2 => other (t.val + 8) 0
  | _ => if 0 < t.val % 8 then other (t.val - 1) 1 else 0

/-- A tap port's row, and the grid with its cursor advanced (R59, R60, R176). -/
def Grid.readTap (g : Grid) (x : Ctx) (t : Fin 32) (c : Nat) : Row × Grid :=
  let (n, lag) := g.tapOf t c
  let i := tapPlace t c
  let cur := ((g.run.map fun r => r.tapCur.toList.getD i 0)).getD 0
  let row := match x.sig n with
    | none => 0
    | some s => if s.adv < lag then s.startRow else s.rowAt (s.adv - lag) (cur % s.plan.rows)
  (row, { g with run := g.run.map fun r => { r with tapCur := r.tapCur.setIfInBounds i (cur + 1) } })

/-- A readout port's row: the oldest delivered, or the last one again; the readout's flags join the iteration's at its
last row, for the owner and for the context that called the routine (R79, R179; log entry 25). -/
def Grid.readAcc (g : Grid) (p : Fin 2) : Row × Grid :=
  let port := g.ports[p.val]'p.isLt
  match port.rows with
  | [] => (port.last, g)
  | r :: rest =>
    (r.row, { g with
      ports := g.ports.set p.val { port with rows := rest, last := r.row } p.isLt
      run := g.run.map fun q => { q with
        flags := q.flags ||| r.flags
        owed := if r.flags = 0 then q.owed else q.owed ++ (r.caller.map fun c => (c.1, c.2, r.flags)).toList } })

/-- A source port of a tile read (R170, R173 step 1). -/
def Grid.readSrc (g : Grid) (x : Ctx) (t : Fin 32) (c : Nat) : Row × Grid :=
  let tile := g.tiles[t.val]'t.isLt
  if c = 0 then (0, g)
  else if c ≤ 0x08 then (rowIn tile.v (c - 1), g)
  else if c ≤ 0x0C then (rowOf (tile.q.toList.getD (c - 9) 0), g)
  else if c = 0x0D then (maskRow tile.g[0], g)
  else if c = 0x0E then (maskRow tile.g[1], g)
  else if c = 0x0F then
    let (r, tile') := tile.draw
    (r, g.setTile t tile')
  else if c ≤ 0x1F then (rowIn tile.f[0] (c - 0x10), g)
  else if c ≤ 0x2F then (rowIn tile.f[1] (c - 0x20), g)
  else if 0x40 ≤ c ∧ c ≤ 0x43 then (g.linkFrom t (c - 0x40), g)
  else if 0x44 ≤ c ∧ c ≤ 0x47 then g.readTap x t c
  else if c = 0x48 then g.readAcc 0
  else if c = 0x49 then g.readAcc 1
  else if c = 0x60 then (tile.aluR, g)
  else if c = 0x61 then (tile.mulR, g)
  else if c = 0x63 then (tile.attR, g)
  else if c = 0x64 then (tile.attX, g)
  else if c = 0x65 then (tile.shfR, g)
  else (0, g)

/-- A move whose source has been read: its tile and guard, the row, the draws of its own operation, and for shf.col the
frame (R173, R175, R210). -/
structure Fetched where
  tile : Fin 32
  guard : BitVec 2
  move : Move
  src : Row
  draws : List Row
  frame : Vector Row 16
  deriving DecidableEq, Repr

/-- How many draws a move's own operation takes (R175, R179, R207). -/
def Move.draws (m : Move) : Nat :=
  if m.rnd ≠ 5 then 0 else if unitOfPort m.dst = 5 then shfColDraws m.op else 1

/-- The frame that a shf.col trigger works on (R210). -/
def Tile.frame (t : Tile) (m : Move) : Vector Row 16 := if m.src < 0x20 then t.f[0] else t.f[1]

/-- The moves of a cycle read in order: the source before the operation's own draws (R173 step 1, R175). A move to `nil` reads its
source like any other: it draws, advances a cursor or pops a row (R170 against R172, R175, R176; DESIGN CHOICE, log entry 49). -/
def Grid.fetch (g : Grid) (x : Ctx) : List TileWord → List Fetched × Grid
  | [] => ([], g)
  | w :: ws =>
    let one (acc : List Fetched × Grid) (m : Move) : List Fetched × Grid :=
      let (src, g1) := acc.2.readSrc x w.tile m.src
      let tile := g1.tiles[w.tile.val]'w.tile.isLt
      let (ds, tile') := tile.drawN m.draws
      (acc.1 ++ [{ tile := w.tile, guard := w.guard, move := m, src := src, draws := ds, frame := tile.frame m }],
       g1.setTile w.tile tile')
    let (l, g1) := w.moves.foldl one ([], g)
    let (l', g2) := Grid.fetch g1 x ws
    (l ++ l', g2)

/-! ### Step 2: writing -/

/-- A vector of rows with one merged under a mask. -/
def mergeAt {n : Nat} (v : Vector Row n) (i : Nat) (r : Row) (m : BitVec 64) : Vector Row n :=
  v.setIfInBounds i (mergeLanes (rowIn v i) r m)

/-- A move's write to its own tile: registers, frames, masks, link registers, latches (R170, R172). -/
def Tile.put (t : Tile) (d : Nat) (r : Row) (m : BitVec 64) : Tile :=
  if d = 0 then t
  else if d ≤ 8 then { t with v := mergeAt t.v (d - 1) r m }
  else if d = 0x0D then { t with g := t.g.set 0 ((t.g[0] &&& ~~~m) ||| (nonzeroLanes r &&& m)) }
  else if d = 0x0E then { t with g := t.g.set 1 ((t.g[1] &&& ~~~m) ||| (nonzeroLanes r &&& m)) }
  else if 0x10 ≤ d ∧ d ≤ 0x1F then { t with f := t.f.set 0 (mergeAt t.f[0] (d - 0x10) r m) }
  else if 0x20 ≤ d ∧ d ≤ 0x2F then { t with f := t.f.set 1 (mergeAt t.f[1] (d - 0x20) r m) }
  else if 0x40 ≤ d ∧ d ≤ 0x43 then { t with link := mergeAt t.link (d - 0x40) r m }
  else if d = 0x60 then { t with aluO := mergeLanes t.aluO r m }
  else if d = 0x61 then { t with mulO := mergeLanes t.mulO r m }
  else if d = 0x62 then { t with mulC := mergeLanes t.mulC r m }
  else if d = 0x63 then { t with attO := mergeLanes t.attO r m }
  else if d = 0x65 then { t with shfO := mergeLanes t.shfO r m }
  else t

/-- A move with the mask under which it writes: the masks as they stood when the word began. -/
structure Put where
  f : Fetched
  mask : BitVec 64
  deriving DecidableEq, Repr

/-- The moves of a cycle with their masks (R172). -/
def Grid.puts (g : Grid) (fs : List Fetched) : List Put :=
  fs.map fun f => { f := f, mask := (g.tiles[f.tile.val]'f.tile.isLt).mask f.guard }

/-- The destination code of a write. -/
def Put.dst (p : Put) : Nat := p.f.move.dst

/-- The writes of a cycle to tiles and grid parameters (R170, R172, R173 step 2). -/
def Grid.putAll (g : Grid) (ps : List Put) : Grid :=
  ps.foldl (fun g p =>
    let d := p.dst
    if 0x50 ≤ d ∧ d ≤ 0x57 then
      (if p.mask.getLsbD 0 then { g with params := g.params.setIfInBounds (d - 0x50) (laneOf p.f.src 0) } else g)
    else g.setTile p.f.tile ((g.tiles[p.f.tile.val]'p.f.tile.isLt).put d p.f.src p.mask)) g

/-- An out-port write: one row of sample ADV at the port's cursor (R172, R177). -/
def Grid.writeOut (gx : Grid × Ctx) (p : Put) : Grid × Ctx :=
  let (g, x) := gx
  if isOut p.f.move then
    let n := g.outOf p.f.tile p.dst
    let i := outPlace p.f.tile p.dst
    let cur := ((g.run.map fun r => r.outCur.toList.getD i 0)).getD 0
    match x.sig n with
    | none => gx
    | some s =>
      ({ g with run := g.run.map fun r => { r with outCur := r.outCur.setIfInBounds i (cur + 1) } },
       x.setSig n (some (s.writeRow s.adv x.now (cur % s.plan.rows) fun old => mergeLanes old p.f.src p.mask)))
  else gx

/-- The calls that a readout request waits for: those pushed before it that have not executed `end`, suspended ones among them (R179,
R230). -/
def Matrix.callsBefore (m : Matrix) : List Nat :=
  (m.queue.filter (fun i => !i.isLoad)).map (·.id) ++ m.run.toList.map (·.item.id) ++ (m.resumed ++ m.away).map (·.item.id)

/-- A readout request (R172, R179). -/
def Core.request (k : Core) (c : Fin 4) (p : Put) : Core :=
  let one (i : Fin 2) : Core :=
    let port := k.grid.ports[i.val]'i.isLt
    let r : ReadReq :=
      { row := (laneOf p.f.src 0).extractLsb' 0 10, fmt := BitVec.ofNat 5 p.f.move.op, rnd := p.f.move.rnd,
        draw := p.f.draws.headD 0, waits := k.mx.callsBefore, ctx := c, run := (k.grid.run.map (·.id)).getD 0 }
    { k with grid := { k.grid with ports := k.grid.ports.set i.val { port with reqs := port.reqs ++ [r] } i.isLt } }
  if p.mask.getLsbD 0 = false then k
  else if p.dst = 0x4A then one 0 else if p.dst = 0x4B then one 1 else k

/-- Pushes onto the A-feed queue by the grid of a context, in ascending tile number; masked lanes carry 0 (R172, R178). -/
def Core.pushA (x : Ctx) (k : Core) (p : Put) : Core :=
  if p.dst = 0x48 then
    { k with mx := { k.mx with afeed := k.mx.afeed ++
        [{ kid := x.kid, place := x.place, dom := x.dom, row := mergeLanes 0 p.f.src p.mask
           src := (k.grid.run.map fun (r : GridRun) => (r.ctx, r.id)).getD (0, 0) }] } }
  else k

/-- A call pushed by mx.go under an issue number: it carries the grid's staged parameters and its owner (R172, R178). -/
def Core.pushGo (k : Core) (c : Fin 4) (kid id : Nat) (p : Put) : Core :=
  if p.dst = 0x58 ∧ p.mask.getLsbD 0 then
    let item : MxItem :=
      { id := id, ctx := c, kid := kid, isLoad := false, entry := (laneOf p.f.src 0).extractLsb' 0 5,
        params := k.grid.params, kp := 0, fromGrid := true }
    { k with mx := { k.mx with queue := k.mx.queue ++ [item] } }
  else k

/-! ### Step 3: triggers -/

/-- An operation that enters a unit (R174). -/
def Tile.enter (t : Tile) (kind : UnitKind) (rem : Nat) (mask : BitVec 64) (rows : List (Row × FlagSet)) : Tile :=
  { t with ops := t.ops ++ [{ kind := kind, rem := rem, rows := rows.map (·.1), mask := mask,
                              flags := rows.foldl (fun f r => f ||| r.2) 0 }] }

/-- A trigger: the source row, the unit's latch, mul.c; latencies 1, 3, 2 and 17; an Attar operation by its steps, and no
earlier than the cycle after its predecessor (R173, R174, R185, R197, R200, R207, R210). -/
def Tile.trigger (t : Tile) (cycle ord : Nat) (f : Fetched) : Tile :=
  let m := f.move
  let mask := t.mask f.guard
  let draw := f.draws.headD 0
  match unitOfPort m.dst with
  | 1 =>
    let c := LaneClass.ofPort (m.dst - 0x68)
    t.enter .alu 1 mask [packElems c.width mask (aluRow c m.op m.rnd draw f.src t.aluO t.g[0] t.g[1])]
  | 2 =>
    let c := LaneClass.ofPort (m.dst - 0x6D)
    t.enter .mul 3 mask [packElems (mulWidth c m.op) mask (mulRow c m.op m.rnd draw f.src t.mulO t.mulC)]
  | 3 =>
    let r := attRow (attFmt m.dst) m.op m.rnd draw f.src t.attO t.attX t.q[3] ord t.g[0] t.g[1]
    let (row, flags) := packElems r.width mask r.elems
    let done := max (cycle + r.steps) (t.attDone + 1)
    { t with attDone := done,
             att := t.att ++ [{ done := done, res := row, idx := r.idx.map (rowOfElems r.width), mask := mask, flags := flags }] }
  | 4 => t.enter .shfRow 2 mask [packElems 32 mask (shfRow m.op m.rnd draw f.src t.shfO)]
  | 5 =>
    let other : Option (Fin 2) := if shfColFrame m.op then some (if m.src < 0x20 then 1 else 0) else none
    t.enter (.shfCol other) 17 mask
      ((shfCol m.op (m.src % 16) m.rnd f.draws f.frame).map (packElems 32 mask))
  | _ => t

/-- The triggers of a cycle in order. -/
def Grid.triggerAll (g : Grid) (cycle ord : Nat) (fs : List Fetched) : Grid :=
  fs.foldl (fun g f => g.setTile f.tile ((g.tiles[f.tile.val]'f.tile.isLt).trigger cycle ord f)) g

/-! ### Results that land -/

/-- A result lands in its port or frame, in the lanes its mask lets through (R172, R173, R207, R210). -/
def Tile.landOp (t : Tile) (o : UnitOp) : Tile :=
  let r := o.rows.headD 0
  match o.kind with
  | .alu => { t with aluR := mergeLanes t.aluR r o.mask }
  | .mul => { t with mulR := mergeLanes t.mulR r o.mask }
  | .shfRow => { t with shfR := mergeLanes t.shfR r o.mask }
  | .shfCol none => { t with shfR := mergeLanes t.shfR r o.mask }
  | .shfCol (some n) =>
    { t with f := t.f.set n.val (Vector.ofFn fun i => mergeLanes (rowIn t.f[n.val] i.val) (o.rows.getD i.val 0) o.mask) }

/-- One unfrozen cycle of a tile's ALU, MUL and SHF units: the results due land in the order of their triggers, and the
others come one cycle closer (R173, R174). -/
def Tile.landCycle (t : Tile) : Tile × FlagSet :=
  let ops := t.ops.map fun o => { o with rem := o.rem - 1 }
  let due := ops.filter fun o => o.rem == 0
  ({ due.foldl Tile.landOp t with ops := ops.filter fun o => o.rem != 0 }, due.foldl (fun f o => f ||| o.flags) 0)

/-- One unfrozen cycle of every tile's units (R173). -/
def Grid.landCycle (g : Grid) : Grid × FlagSet :=
  ({ g with tiles := g.tiles.map fun t => t.landCycle.1 },
   g.tiles.toList.foldl (fun f t => f ||| t.landCycle.2) 0)

/-! ### A whole cycle -/

/-- The effects of an unfrozen word on a core and its owner's context: results land, sources are read, values written, calls
pushed under the issue number `id`, operations started (R173). A result lands before the values of the word are written, so the lanes
of a frame that a mask keeps hold what has landed (R211; DESIGN CHOICE, log entry 49). A word's readout requests come before its call: they do not wait
for it (R179; DESIGN CHOICE, log entry 49). -/
def Core.word (k : Core) (x : Ctx) (c : Fin 4) (cycle id ord : Nat) (ws : List TileWord) : Core × Ctx :=
  let (gl, fl) := k.grid.landCycle
  let g0 : Grid := { gl with run := gl.run.map fun (r : GridRun) => { r with flags := r.flags ||| fl } }
  let (fs, g1) := g0.fetch x ws
  let ps := g1.puts fs
  let (g2, x2) := ps.foldl Grid.writeOut (g1.putAll ps, x)
  let k1 := ps.foldl (fun (k : Core) p => k.request c p) { k with grid := g2 }
  let k2 := ps.foldl (Core.pushA x) k1
  let k3 := ps.foldl (fun (k : Core) p => k.pushGo c x.kid id p) k2
  ({ k3 with grid := k3.grid.triggerAll cycle ord fs }, x2)

/-- How many calls a cycle pushes. -/
def Core.callsPushed (k k' : Core) : Nat := k'.mx.queue.length - k.mx.queue.length

end Sys2Proof.Machine
end

