-- ==== Sys2Proof/Machine/GridRun.lean ====
section
/-! DEFINITION. The meanings of the grid's events: ownership, images, `gset`, `grun`, words, results, and readouts (R49, R79, R156,
R157, R179 to R184, R200, R220, R306, R308). An event whose condition does not hold leaves the state as it is. -/

namespace Sys2Proof.Machine

/-! ### Ownership (R49, R169) -/

/-- The waiting context that the free grid goes to: the highest PRIO, then the earliest `gacq` to block, then the lowest
number (R49). -/
def Core.nextOwner (k : Core) : Option (Fin 4) :=
  (List.finRange 4).foldl (fun best c =>
    let x := k.ctxs[c.val]'c.isLt
    match x.gacqAt with
    | none => best
    | some t =>
      match best with
      | none => some c
      | some b =>
        let y := k.ctxs[b.val]'b.isLt
        if y.prio < x.prio ∨ (y.prio = x.prio ∧ t < y.gacqAt.getD 0) then some c else best) none

/-- The grid that has no owner goes to the context that waits first for it (R49). -/
def Core.regrant (k : Core) : Core :=
  { k with grid := { k.grid with grant := if k.grid.owner.isNone then k.nextOwner else none } }

/-- The mark at the head of an idle grid's queue taken off: a `grel`, whose effect is over, or a change of domain, which clears the
grid (R49, R156, R169). -/
def Grid.passMark (g : Grid) : Grid :=
  if g.idle then
    match g.queue with
    | ⟨_, _, _, .rel⟩ :: r => { g with queue := r }
    | ⟨_, _, _, .clear d⟩ :: r => { g.forDomain d with queue := r }
    | _ => g
  else g

/-- `GRID_GRANT`: the grid without an owner goes to a waiting context, whose `gacq` may then issue; a mark at the head of the idle
grid's queue is taken off (R49, R156, R169). -/
def execGridGrant (n : CoreId) (s : State) : Out :=
  .next (s.onCore n fun k => { k with grid := k.grid.passMark }.regrant)

/-! ### Queued commands (R156, R157, R181, R182) -/

/-- The command that an idle grid takes next, and the grid without it (R156, R182). -/
def Core.gridHead (k : Core) : Option (GridCmd × Grid) :=
  match k.grid.queue with
  | [] => none
  | c :: r =>
    if k.grid.idle then
      some (c, { k.grid with queue := r, lastCtx := some c.ctx })
    else none

/-- The binding that each signal of a refused `gcfg` had before its issue (R181, R311). -/
def Ctx.unbindOuts (x : Ctx) (bound : List (SigNum × Binding)) : Ctx :=
  bound.foldl (fun x (n, b) => x.setSig n ((x.sig n).map fun g => { g with bind := b })) x

/-- The cause and detail for which an image is refused: the encoding causes, then the binding causes (R291, R311). -/
def gcfgRefused (x : Ctx) (before : Vector (Option Binding) 64) (i : Nat) (b : List Byte) : Option (BitVec 8 × Word) :=
  match imageRefused b with
  | some off => some (0x0E, BitVec.ofNat 64 (i * 2 ^ 48 + off))
  | none => (bindingRefused x before b).map fun (c, e) => (c, BitVec.ofNat 64 (i * 2 ^ 48 + e))

/-- `CONFIGURATION_LOAD`: an idle grid takes a `gcfg` and checks its image; 200 + ⌈ISIZE/64⌉ cycles later the image is
loaded and the command performs. A refusal loads nothing, restores the bindings, performs, and holds its fault
(R181, R298, R311). -/
def execConfigurationLoad (n : CoreId) (s : State) : Out :=
  let k := s.core n
  .next (match k.grid.loading with
    | some (⟨id, c, kp, .cfg i _ _⟩, done) =>
      if done ≤ s.cycle then
        let b := imageFrom i (s.gridBytes (k.ctxs[c.val]'c.isLt))
        let s' := s.setCore n { k with grid := { k.grid.load b with loading := none }, mx := { k.mx with afeed := [] } }
        s'.performed { core := n, ctx := c } kp id
      else s
    | some _ => s
    | none =>
      match k.gridHead with
      | some (⟨id, c, kp, .cfg i bound before⟩, g) =>
        let cid : CtxId := { core := n, ctx := c }
        let x := k.ctxs[c.val]'c.isLt
        let b := imageFrom i (s.gridBytes x)
        let s1 := s.setCore n { k with grid := g }
        match gcfgRefused x before i b with
        | some (cause, d) =>
          ((s1.onCtx cid fun x => x.unbindOuts bound).performed cid kp id).hold cid
            { id := id, kp := kp, cause := cause, source := 4, unit := 0, detail := d }
        | none =>
          s1.onGrid n fun g =>
            { g with loading := some (⟨id, c, kp, .cfg i bound before⟩, s.cycle + 200 + (imgSize b + 63) / 64) }
      | _ => s)

/-- A `gset` on a tile: a constant, or the seed with the draw count cleared (R157, R175). -/
def Tile.set (t : Tile) (dst : BitVec 3) (v : Word) : Tile :=
  if dst.toNat < 4 then { t with q := t.q.setIfInBounds dst.toNat (v.extractLsb' 0 32) }
  else { t with seed := v, cnt := 0 }

/-- `GSET_APPLY` (R157). -/
def execGsetApply (n : CoreId) (s : State) : Out :=
  let k := s.core n
  .next (match k.gridHead with
    | some (⟨id, c, kp, .set t dst v⟩, g) =>
      (s.setCore n { k with grid := g.setTile t ((g.tiles[t.val]'t.isLt).set dst v) }).performed
        { core := n, ctx := c } kp id
    | _ => s)

/-- `GRUN_START`: an idle grid takes a `grun`; its first word executes in the next cycle (R182). A ticking one waits for a tick of its
context that is still to complete, so that only its own ENDs change NOW while it runs (R57). -/
def execGrunStart (n : CoreId) (s : State) : Out :=
  let k := s.core n
  .next (match k.gridHead with
    | some (⟨id, c, kp, .run count⟩, g) =>
      if g.ticking && (k.ctxs[c.val]'c.isLt).tick.isSome then s else
      let r : GridRun :=
        { id := id, ctx := c, kp := kp, left := count, ord := 0, word := 0, tapCur := Vector.replicate 16 0,
          outCur := Vector.replicate 8 0, flags := 0, endWait := false, atEnd := false }
      s.setCore n { k with grid := { g with run := some r } }
    | _ => s)

/-! ### The end of an iteration (R79, R182) -/

/-- The waiting drains of a core take effect (R64). -/
def State.drainAll (s : State) (n : CoreId) : State :=
  (List.finRange 6).foldl (fun s e => s.drainEffects n e) s

/-- Flags of a readout enter FLAGS of the context whose call wrote the row, where it still stands on the core (R79). -/
def State.oweFlags (s : State) (n : CoreId) (o : Fin 4 × Nat × BitVec 7) : State :=
  s.onCtx { core := n, ctx := o.1 } fun x => if x.live && x.kid == o.2.1 then x.orFlags s.cycle o.2.2 else x

/-- The flags of the running iteration enter the owner's FLAGS, those of its readouts also FLAGS of the contexts that called the
routines (R79, R179, R182; log entry 25). -/
def State.runFlags (s : State) (n : CoreId) : State :=
  match (s.core n).grid.run with
  | none => s
  | some r =>
    (r.owed.foldl (fun s o => s.oweFlags n o) (s.onCtx { core := n, ctx := r.ctx } fun x => x.orFlags s.cycle r.flags)).onGrid n
      fun g => { g with run := some { r with flags := 0, owed := [] } }

/-- An END completes: the next iteration follows, or the last END is over and the stores that waited for it take effect
(R64, R182). -/
def State.nextIteration (s : State) (n : CoreId) : State :=
  match (s.core n).grid.run with
  | none => s
  | some r =>
    let r' : GridRun :=
      { r with left := r.left - 1, ord := r.ord + 1, word := 0, endWait := false, atEnd := decide (r.left ≤ 1),
               tapCur := Vector.replicate 16 0, outCur := Vector.replicate 8 0 }
    let s' := s.onGrid n fun g => { g with run := some r' }
    if r.left ≤ 1 then (s'.runFlags n).drainAll n else s'

/-- How many ticks of the next `m` advance a signal (R57). -/
def Plan.dueCount (p : Plan) (now : BitVec 48) (m : Nat) : Nat :=
  (((now.toNat : Int) + m - p.phase) / p.rate - ((now.toNat : Int) - p.phase) / p.rate).toNat

/-- The samples that a stopped `grun` leaves unmade: those of its out ports, and of a ticking one the in-tick samples that
its ticks would have finished (R306, R308). -/
def Grid.unmade (g : Grid) (x : Ctx) (r : GridRun) : List (SigNum × Nat × Nat) :=
  let outs := (g.outb.toList.filter (·.getLsbD 15)).map fun e => e.extractLsb' 0 6
  sigNums.filterMap fun n =>
    match x.sig n with
    | none => none
    | some s =>
      let m := if g.ticking && !s.plan.isStatic then s.plan.dueCount x.now r.left else 0
      if outs.contains n then some (n, s.adv, s.adv + m)
      else if g.ticking && s.inTick && decide (0 < m) then some (n, s.adv, s.adv + m - 1) else none

/-- The samples that the ticks of a stopped `grun` would have expired (R306, R308). -/
def Grid.unfreed (g : Grid) (x : Ctx) (r : GridRun) : List (SigNum × Nat × Nat) :=
  if g.ticking then
    sigNums.filterMap fun n =>
      match x.sig n with
      | none => none
      | some s =>
        let m := if s.plan.isStatic then 0 else s.plan.dueCount x.now r.left
        if 0 < m ∧ s.plan.depth ≤ s.adv + m then some (n, s.adv + 1 - s.plan.depth, s.adv + m - s.plan.depth) else none
  else []

/-- A grid fault: results in flight and the remaining iterations are discarded, the `grun` performs, and the fault is held
against the owner; the grid's state stays as it stood (R306, R308). -/
def State.gridFault (s : State) (n : CoreId) (cause : BitVec 8) (detail : Word) : State :=
  let g := (s.core n).grid
  match g.run with
  | none => s
  | some r =>
    let c : CtxId := { core := n, ctx := r.ctx }
    let x := s.ctx c
    let f : PendFault :=
      { id := r.id, kp := r.kp, cause := cause, source := 4, unit := 0, detail := detail,
        fills := g.unmade x r, frees := g.unfreed x r }
    let s1 := (s.runFlags n).onGrid n fun g =>
      { g with run := none, tiles := g.tiles.map fun t => { t with ops := [], att := [], attDone := 0 } }
    ((s1.performed c r.kp r.id).hold c f).drainAll n

/-- The END of a word P − 1: a ticking configuration ticks, waits for its tick, or meets an overflow; otherwise the next
iteration follows (R65, R182, R183, R308, R309). -/
def State.gridEnd (s : State) (n : CoreId) : State :=
  let k := s.core n
  match k.grid.run with
  | none => s
  | some r =>
    let x := k.ctxs[r.ctx.val]'r.ctx.isLt
    if k.grid.ticking then
      match x.tickOverflow with
      | some d => s.gridFault n 0x28 d
      | none =>
        if x.tickWaits then s.onGrid n fun g => { g with run := some { r with endWait := true } }
        else (s.setCtx { core := n, ctx := r.ctx } (k.tick r.ctx)).nextIteration n
    else s.nextIteration n

/-! ### Words (R173, R182, R183) -/

/-- An unfrozen word of a run: its effects, and what follows it (R173, R182, R346). -/
def State.gridStep (s : State) (n : CoreId) (r : GridRun) (ws : List TileWord) : State :=
  let k := s.core n
  let c : CtxId := { core := n, ctx := r.ctx }
  let (k', x') := k.word (s.ctx c) r.ctx s.cycle s.cmdSeq r.ord ws
  let s1 := (s.setCore n k').setCtx c { x' with gbusy := x'.gbusy + 1 }
  let s2 := if k.callsPushed k' = 0 then s1 else s1.bump
  if r.word + 1 < k.grid.period then
    s2.onGrid n fun g => { g with run := g.run.map fun r => { r with word := r.word + 1 } }
  else (s2.runFlags n).gridEnd n

/-- `GRID_WORD`: one grid cycle of the running `grun`; pre-emption of its context stops it as a freeze would, unless
the context is in a rerun (R173, R182 to R184, R308, R350). -/
def execGridWord (n : CoreId) (s : State) : Out :=
  let k := s.core n
  .next (match k.grid.run with
    | none => s
    | some r =>
      if r.atEnd || s.quiescing { core := n, ctx := r.ctx } then s
      else if r.endWait then s.gridEnd n
      else
        let x := k.ctxs[r.ctx.val]'r.ctx.isLt
        let ws := k.grid.words r
        if k.frozen x ws then s
        else match k.grid.wordFault x ws with
        | some (cause, sig) => s.gridFault n cause (sigDetail (((x.sig sig).map (·.adv)).getD 0) 0 sig)
        | none => s.gridStep n r ws)

/-- Flags of a result that lands outside a word: the iteration's, or the owner's FLAGS after the last END (R79, R182). -/
def State.lateFlags (s : State) (n : CoreId) (f : FlagSet) : State :=
  match (s.core n).grid.run with
  | none => s
  | some r =>
    if r.atEnd then s.onCtx { core := n, ctx := r.ctx } fun x => x.orFlags s.cycle f
    else s.onGrid n fun g => { g with run := some { r with flags := r.flags ||| f } }

/-- An Attar operation completes: att.r, and att.x for `maxi` (R172, R200). -/
def Tile.completeAtt (t : Tile) (a : AttOp) : Tile :=
  { t with attR := mergeLanes t.attR a.res a.mask,
           attX := match a.idx with
             | some r => mergeLanes t.attX r a.mask
             | none => t.attX }

/-- `ATTAR_COMPLETE`: the oldest Attar operation of a tile completes in its cycle (R174, R200). -/
def execAttarComplete (n : CoreId) (t : Fin 32) (s : State) : Out :=
  let tile := (s.core n).grid.tiles[t.val]'t.isLt
  .next (match tile.att with
    | [] => s
    | a :: rest =>
      if a.done ≤ s.cycle then
        (s.onGrid n fun g => g.setTile t { tile.completeAtt a with att := rest }).lateFlags n a.flags
      else s)

/-- `LANDING_AFTER_LAST_END`: the units go on after the last END; the flags of what lands enter the owner's FLAGS in that
cycle (R79, R182). -/
def execLandingAfterLastEnd (n : CoreId) (s : State) : Out :=
  .next (match (s.core n).grid.run with
    | none => s
    | some r =>
      if r.atEnd && !s.quiescing { core := n, ctx := r.ctx } then
        let (g, f) := (s.core n).grid.landCycle
        (s.onGrid n fun _ => g).lateFlags n f
      else s)

/-- `GRUN_PERFORM`: the last END has completed and every result has landed (R152, R182). -/
def execGrunPerform (n : CoreId) (s : State) : Out :=
  .next (match (s.core n).grid.run with
    | none => s
    | some r =>
      if r.atEnd && (s.core n).grid.tiles.all (fun t => t.ops.isEmpty && t.att.isEmpty) then
        (s.onGrid n fun g => { g with run := none }).performed { core := n, ctx := r.ctx } r.kp r.id
      else s)

/-! ### Readouts (R94, R179, R219, R220) -/

/-- A readout format (R179). -/
inductive ReadFmt where
  | fp (f : FpFmt) (sat : Bool)
  | sli (f : SliFmt)
  | int (w : Nat)
  deriving DecidableEq, Repr

/-- The readout format of an OP (R179). -/
def ReadFmt.ofOp (op : Nat) : ReadFmt :=
  match op with
  | 0 => .fp .fp32 false
  | 1 => .fp .bf16 false
  | 2 => .sli .sl32
  | 3 => .sli .sl16
  | 4 => .int 32
  | 5 => .int 16
  | 6 => .int 8
  | _ => .fp .fp32 true

/-- The element width of a readout format. -/
def ReadFmt.width : ReadFmt → Nat
  | .fp .fp32 _ => 32
  | .fp .bf16 _ => 16
  | .sli f => f.width
  | .int w => w

/-- The cell as a readout takes it: its value, clamped, and whether that set SAT (R94). -/
def cellNum (c : BitVec 72) (anchor : BitVec 16) : Num × FlagSet :=
  let (lo, hi) : Int × Int := (-(2 ^ 63), 2 ^ 63 - 1)
  let v := max lo (min hi c.toInt)
  (.dyadic v (anchor.toInt - 48), when (v != c.toInt) fSAT)

/-- A cell read out in a format (R94, R220, R300). -/
def readCell (f : ReadFmt) (m : Rounding) (inv : Bool) (c : BitVec 72) (anchor : BitVec 16) : Elem :=
  let (v, sat) : Num × FlagSet := if inv then (.nan, fNV) else cellNum c anchor
  let (r, fl) : Elem := match f with
    | .fp g s => g.round m s v
    | .sli g => g.ofNum m (attKey 34 m c.toNat anchor.toNat) v
    | .int w => toIntFmt m true w v
  (r, fl ||| sat)

/-- The elements of a readout, cell 0 first. -/
def AccRow.cells (a : AccRow) (f : ReadFmt) (rnd : BitVec 3) (draw : Row) : List Elem :=
  (List.finRange 128).map fun j =>
    readCell f (roundingAt rnd draw f.width (j.val % (2048 / f.width))) (a.inv.getLsbD j.val) (a.c[j.val]'j.isLt) a.anchor

/-- The rows that a readout delivers, and its flags (R94, R179, R220). -/
def AccRow.readout (a : AccRow) (op : Nat) (rnd : BitVec 3) (draw : Row) : List Row × FlagSet :=
  let f := ReadFmt.ofOp op
  let es := a.cells f rnd draw
  let codes := es.map (·.1)
  (if f.width = 32 then [rowOfElems 32 (codes.take 64), rowOfElems 32 (codes.drop 64)] else [rowOfElems f.width codes],
   es.foldl (fun fl e => fl ||| e.2) (when a.mark fSAT))

/-- A row as a domain reads it: zeroed where another domain last wrote it (R219). -/
def AccRow.seenBy (a : AccRow) (d : DomNum) : AccRow := if a.dom = some d then a else {}

/-- The matrix calls that have not executed `end`, wherever they are: those of every core, and those that pre-emption has saved (R179,
R184, R230). -/
def State.openCalls (s : State) : List Nat :=
  (s.cores.toList.flatMap fun k => k.mx.callsBefore)
    ++ s.kernels.flatMap fun k => k.saved.flatten.flatMap fun v => v.calls.map (·.item.id)

/-- Whether a readout request still waits for a call (R179, R220). -/
def ReadReq.waiting (r : ReadReq) (calls : List Nat) : Bool := r.waits.any calls.contains

/-- A request read: its rows, the first ready 8 cycles later (R179, R220). -/
def Core.snapshot (k : Core) (cycle : Nat) (r : ReadReq) : List ReadRow :=
  let a := (k.acc.toList.getD r.row.toNat {}).seenBy (k.ctxs[r.ctx.val]'r.ctx.isLt).dom
  let (rows, fl) := a.readout r.fmt.toNat r.rnd r.draw
  ((List.range rows.length).zip rows).map fun (i, row) =>
    { cyc := cycle + 8 + i, row := row, last := i + 1 == rows.length, flags := if i + 1 = rows.length then fl else 0,
      caller := a.caller, src := (r.ctx, r.run) }

/-- `READOUT_SNAPSHOT`: the requests of a port whose calls have all executed `end` read their rows, in order (R179,
R220). -/
def execReadoutSnapshot (n : CoreId) (p : Fin 2) (s : State) : Out :=
  let k := s.core n
  let port := k.grid.ports[p.val]'p.isLt
  let due := port.reqs.takeWhile fun r => !r.waiting s.openCalls
  .next (if due.isEmpty then s
    else s.onGrid n fun g =>
      { g with ports := g.ports.set p.val { port with
          reqs := port.reqs.drop due.length, coming := port.coming ++ due.flatMap (k.snapshot s.cycle) } p.isLt })

/-- Rows due enter the 8-row output queue in order (R179). -/
def AccPort.deliver (p : AccPort) (cycle : Nat) : Nat → AccPort
  | 0 => p
  | fuel + 1 =>
    match p.coming with
    | [] => p
    | r :: rest =>
      if r.cyc ≤ cycle ∧ p.rows.length < 8 then
        AccPort.deliver { p with coming := rest, rows := p.rows ++ [r] } cycle fuel
      else p

/-- `READOUT_ROW_DELIVER` (R179). -/
def execReadoutRowDeliver (n : CoreId) (p : Fin 2) (s : State) : Out :=
  let port := (s.core n).grid.ports[p.val]'p.isLt
  .next (s.onGrid n fun g => { g with ports := g.ports.set p.val (port.deliver s.cycle 8) p.isLt })

end Sys2Proof.Machine
end

