-- ==== Sys2Proof/Machine/Matrix.lean ====
section
/-! DEFINITION. The matrix array: routine loads, calls, micro-operations, array cycles and what lands in the accumulator
(R212 to R230, R298). An event or micro-operation whose condition does not hold leaves the state as it is. -/

namespace Sys2Proof.Machine

/-! ### Routines (R222, R223) -/

/-- A routine of a ROUTIMG section: its entry and words. -/
structure Routine where
  entry : BitVec 5
  words : List Lane
  deriving DecidableEq, Repr

/-- The blocks of a ROUTIMG section (R222). -/
def routineBlocks : Nat → List Byte → List Routine
  | 0, _ => []
  | n + 1, b =>
    let len := imgField b 2 2
    { entry := BitVec.ofNat 5 (imgField b 0 1), words := wordsOfBytes ((b.drop 8).take (4 * len)) }
      :: routineBlocks n (b.drop (alignUp (8 + 4 * len) 8))

/-- The routines of a ROUTIMG section (R222). -/
def routinesOf (b : List Byte) : List Routine := routineBlocks (imgField b 0 2) (b.drop 8)

/-- The routines of the ROUTIMG sections that a kernel of an object reaches. That those of several sections are joined in table order,
and that the first block of an entry number counts, is a DESIGN CHOICE (log entry 50). -/
def Object.routines (o : Object) (kidx : BitVec 8) : List Routine :=
  (o.routs.filter fun r => r.kern == 0xFFFF || r.kern.toNat == kidx.toNat).flatMap fun r => routinesOf r.bytes

/-- A routine of a context's kernel by its entry (R221). -/
def State.routine? (s : State) (x : Ctx) (e : BitVec 5) : Option Routine :=
  match s.kernel? x.kid with
  | none => none
  | some k =>
    match s.object? k.obj with
    | none => none
    | some o => (o.routines k.kidx).find? fun r => r.entry == e

/-- What the scan of a routine has met: the format, whether a `pass` or `scl`, the open loops. -/
structure Scan where
  fmt : Option (BitVec 2) := none
  used : Bool := false
  depth : Nat := 0
  deriving DecidableEq, Repr

/-- One word of a routine scanned: `none` for a violation (R223). -/
def Scan.word (a : Scan) (last : Bool) (w : Lane) : Option Scan :=
  match decodeMicro w with
  | .error _ => none
  | .ok i =>
    match i with
    | .mEnd => if last then some a else none
    | .fmt f => if a.fmt.isSome || a.used then none else some { a with fmt := some f }
    | .scl _ => if a.fmt.isNone || a.fmt == some 0 then none else some { a with used := true }
    | .pass _ | .passParam _ => if a.fmt.isNone then none else some { a with used := true }
    | .lp _ | .lpParam _ => if 4 ≤ a.depth then none else some { a with depth := a.depth + 1 }
    | .el => if a.depth = 0 then none else some { a with depth := a.depth - 1 }
    | _ => some a

/-- The micro-address of the first violation from word `i` on (R223). -/
def scanRoutine (a : Scan) (i : Nat) : List Lane → Option Nat
  | [] => some 0
  | [w] =>
    match a.word true w with
    | none => some i
    | some b => if b.fmt.isNone || b.depth != 0 || okInstr (decodeMicro w) != some .mEnd then some i else none
  | w :: r =>
    match a.word false w with
    | none => some i
    | some b => scanRoutine b (i + 1) r

/-- The micro-address for which a routine is refused (R223). -/
def routineRefused (r : Option Routine) : Option Nat :=
  match r with
  | none => some 0
  | some r => scanRoutine {} 0 r.words

/-! ### The call queue (R50, R221, R223, R224, R298) -/

/-- A deferred fault of a matrix command, held against its calling context (R229, R298). -/
def State.mxFault (s : State) (n : CoreId) (i : MxItem) (cause : BitVec 8) (detail : Word) : State :=
  (s.performed { core := n, ctx := i.ctx } i.kp i.id).hold { core := n, ctx := i.ctx }
    { id := i.id, kp := i.kp, cause := cause, source := 5, unit := 0, detail := detail }

/-- Where a routine of an entry of a context's kernel stands in the routine store of a core (R221). -/
def Core.routineBase (k : Core) (x : Ctx) (e : BitVec 5) : Nat :=
  match k.window? x with
  | none => 0
  | some w => ((w.routines.find? fun r => r.1 == e).map (·.2.1)).getD 0

/-- Words written to the routine store. -/
def putWords (st : Vector Lane 256) (base : Nat) : List Lane → Vector Lane 256
  | [] => st
  | w :: r => putWords (st.setIfInBounds base w) (base + 1) r

/-- `ROUTINE_LOAD`: a load at the head is checked, holds the array for 40 + LEN cycles, and then writes the words and makes
its entry valid; a refused one leaves the entry as it was (R221, R223, R298). -/
def execRoutineLoad (n : CoreId) (s : State) : Out :=
  let k := s.core n
  .next (match k.mx.loading with
    | some (i, done) =>
      if done ≤ s.cycle then
        let c : CtxId := { core := n, ctx := i.ctx }
        let ws := ((s.routine? (s.ctx c) i.entry).map (·.words)).getD []
        let s1 := s.onMx n fun m =>
          { m with loading := none, store := putWords m.store (k.routineBase (s.ctx c) i.entry) ws }
        (s1.onCtx c fun x => { x with entryValid := x.entryValid ||| (1#32 <<< i.entry.toNat) }).performed c i.kp i.id
      else s
    | none =>
      match k.mx.run, k.mx.resumed, k.mx.queue with
      | none, [], i :: rest =>
        if i.isLoad then
          let x := k.ctxs[i.ctx.val]'i.ctx.isLt
          let s1 := s.onMx n fun m => { m with queue := rest }
          let r := s.routine? x i.entry
          match routineRefused r with
          | some a => s1.mxFault n i 0x0F (BitVec.ofNat 64 (i.entry.toNat * 2 ^ 32 + a))
          | none =>
            s1.onMx n fun m =>
              { m with loading := some (i, s.cycle + 40 + ((r.map (·.words.length)).getD 0)) }
        else s
      | _, _, _ => s)

/-- The calling context of a call (R229). -/
def Core.caller (k : Core) (r : MxCall) : Ctx := k.ctxs[r.item.ctx.val]'r.item.ctx.isLt

/-- The rows of the A-feed queue that a call of a domain takes: those that grids of its domain have pushed (R169, R178). -/
def Matrix.feedFor (m : Matrix) (d : DomNum) : List FeedRow := m.afeed.filter fun r => r.dom == d

/-- The A-feed queue without the row that a call of a domain takes next. -/
def Matrix.popFor (m : Matrix) (d : DomNum) : List FeedRow := m.afeed.eraseP fun r => r.dom == d

/-- Whether the pass of a call waits for an A row (R214, R230). -/
def Core.feedStalls (k : Core) (r : MxCall) : Bool :=
  (!r.hold || r.passFirst) && (k.mx.feedFor (k.caller r).dom).isEmpty

/-- Whether the call of an aborted kernel stops now: after the micro-operation that it has begun, or where its pass waits for an A
row that will not come (R337). -/
def State.callAborted (s : State) (n : CoreId) (r : MxCall) : Bool :=
  (s.kernel? r.item.kid).any (·.aborted) && (if r.passLeft = 0 then r.busy == 0 else (s.core n).feedStalls r)

/-- `ROUTINE_CALL_START`: the array takes up a suspended call again, or the next queued call; a call to an entry that is not
valid is fault 0x11 and runs nothing; the call of an aborted kernel is given up (R221, R224, R230, R298, R337). -/
def execRoutineCallStart (n : CoreId) (s : State) : Out :=
  let k := s.core n
  .next (match k.mx.run, k.mx.loading, k.mx.resumed with
    | some r, none, _ =>
      if s.callAborted n r then s.onMx n fun m => { m with run := none } else s
    | none, none, c :: rest => s.onMx n fun m => { m with run := some c, resumed := rest }
    | none, none, [] =>
      match k.mx.queue with
      | [] => s
      | i :: rest =>
        if i.isLoad then s
        else
          let s1 := s.onMx n fun m => { m with queue := rest }
          if (k.ctxs[i.ctx.val]'i.ctx.isLt).entryValid.getLsbD i.entry.toNat then
            s1.onMx n fun m => { m with run := some { item := i } }
          else s1.mxFault n i 0x11 (i.entry.setWidth 64)
    | _, _, _ => s)

/-! ### Micro-operations (R225 to R229) -/

/-- A micro-operation of the running call of the current core: the call goes on to the next word as `f` leaves it. -/
def microOp (f : MxCall → MxCall) (s : State) : Out :=
  .next (match s.myCore.mx.run with
    | none => s
    | some r => s.onMx s.cur.core fun m => { m with run := some (f { r with pc := r.pc + 1 }) })

/-- A parameter of the call (R226). -/
def MxCall.param (r : MxCall) (p : BitVec 3) : Lane := r.item.params[p.toNat]'(p.isLt)

/-- The word at a micro-address of the running call's routine. -/
def Core.microWord (k : Core) (r : MxCall) (pc : Nat) : Lane :=
  k.mx.store.toList.getD (k.routineBase (k.caller r) r.item.entry + pc) 0

/-- The length of the running call's routine. -/
def Core.routineLen (k : Core) (r : MxCall) : Nat :=
  match k.window? (k.caller r) with
  | none => 1
  | some w => ((w.routines.find? fun q => q.1 == r.item.entry).map (·.2.2)).getD 1

/-- The size of the plane region of a context on its core (R216). -/
def Core.planeSize (k : Core) (x : Ctx) : Nat := ((k.window? x).map (·.plSize)).getD 0

/-- The first byte of the plane region of a context on its core (R216). -/
def Core.planeBase (k : Core) (x : Ctx) : Nat := ((k.window? x).map (·.plBase)).getD 0

/-- A call that faults stops there: it performs, and its `end` is next (R298). -/
def State.callFault (s : State) (n : CoreId) (r : MxCall) (cause : BitVec 8) (detail : Word) : State :=
  (s.onMx n fun m =>
    { m with run := some { r with pc := (s.core n).routineLen r - 1, passLeft := 0, busy := 0, loops := [] } }).mxFault n
      r.item cause detail

/-- A micro-operation that names a plane line by a parameter: a line past the region's end is fault 0x12 (R216, R298). -/
def lineOp (p : BitVec 3) (f : Nat → MxCall → MxCall) (s : State) : Out :=
  match s.myCore.mx.run with
  | none => .next s
  | some r =>
    let line := ((r.param p).extractLsb' 0 12).toNat
    if s.myCore.planeSize (s.myCore.caller r) ≤ 8192 * line then
      .next (s.callFault s.cur.core r 0x12 (BitVec.ofNat 64 (8192 * line)))
    else microOp (f line) s

/-- An accumulator effect issued in this cycle lands six cycles later (R219). -/
def State.issueEffect (s : State) (r : MxCall) (e : AccEffect) : State :=
  let d := (s.myCore.ctxs[r.item.ctx.val]'r.item.ctx.isLt).dom
  s.onMx s.cur.core fun m =>
    { m with effects := m.effects ++ [{ cyc := s.cycle + 6, call := r.item.id, dom := d, kid := r.item.kid, eff := e, ctx := r.item.ctx }] }

/-- A micro-operation with an accumulator effect over `n` rows, which takes ⌈n/8⌉ cycles (R226). -/
def rowsOp (n : Nat) (e : Nat → AccEffect) (s : State) : Out :=
  match s.myCore.mx.run with
  | none => .next s
  | some r => microOp (fun r => { r with busy := (n + 7) / 8 - 1 }) (s.issueEffect r (e r.acur))

/-- `end`: it executes once every effect of its call has landed, and then the call performs (R224). -/
def execMEnd (s : State) : Out :=
  .next (match s.myCore.mx.run with
    | none => s
    | some r =>
      if s.myCore.mx.effects.any fun e => e.call == r.item.id then s
      else (s.onMx s.cur.core fun m => { m with run := none }).performed
        { core := s.cur.core, ctx := r.item.ctx } r.item.kp r.item.id)

/-- `fmt` (R226). -/
def execFmt (f : BitVec 2) (s : State) : Out := microOp (fun r => { r with fmt := some f }) s

/-- `bind.a` (R226). -/
def execBindA (m : Bool) (s : State) : Out := microOp (fun r => { r with hold := m }) s

/-- `bind.b` (R216, R226). -/
def execBindB (p : BitVec 3) (st : Bool) (s : State) : Out :=
  lineOp p (fun line r => { r with bcur := 512 * line, bstep := st }) s

/-- `bind.acc` (R226). -/
def execBindAcc (p : BitVec 3) (st : Bool) (s : State) : Out :=
  microOp (fun r => { r with acur := ((r.param p).extractLsb' 0 10).toNat, astep := st }) s

/-- `n` bytes of the plane store from byte `o` of a context's region. -/
def Core.planeBytes (k : Core) (x : Ctx) (o n : Nat) : List Byte := Memory.getBytes k.plane (k.planeBase x + o) n

/-- A plane line as 128 column words (R215). -/
def Core.planeLine (k : Core) (x : Ctx) (line : Nat) : Vector (BitVec 512) 128 :=
  Vector.ofFn fun c => BitVec.ofNat 512 (leNat (k.planeBytes x (8192 * line + 64 * c.val) 64))

/-- `scl`: the scale line is read; pass cycles issued four or more cycles later use it (R216, R217, R228). -/
def execScl (p : BitVec 3) (s : State) : Out :=
  lineOp p (fun line r =>
    { r with newScales := r.newScales ++ [(s.cycle + 4, s.myCore.planeLine (s.myCore.caller r) line)] }) s

/-- The start of a pass of `n` array cycles; a count of 0 runs none (R226). -/
def MxCall.beginPass (r : MxCall) (n : Nat) : MxCall := { r with passLeft := n, passFirst := true }

/-- `pass n` (R226). -/
def execPass (c : BitVec 12) (s : State) : Out := microOp (fun r => r.beginPass c.toNat) s

/-- `pass mpN` (R226). -/
def execPassParam (p : BitVec 3) (s : State) : Out := microOp (fun r => r.beginPass (r.param p).toNat) s

/-- The micro-address after the `el` that closes a loop whose body starts at `pc`. -/
def Core.afterEl (k : Core) (r : MxCall) : Nat → Nat → Nat → Nat
  | 0, pc, _ => pc
  | fuel + 1, pc, depth =>
    match ((k.microWord r pc).extractLsb' 28 4).toNat with
    | 7 => k.afterEl r fuel (pc + 1) (depth + 1)
    | 8 => if depth = 0 then pc + 1 else k.afterEl r fuel (pc + 1) (depth - 1)
    | _ => k.afterEl r fuel (pc + 1) depth

/-- A loop opened with a count: 0 continues after the matching `el` (R227). `r` stands at the body's first word. -/
def Core.openLoop (k : Core) (n : Nat) (r : MxCall) : MxCall :=
  if n = 0 then { r with pc := k.afterEl r 256 r.pc 0 } else { r with loops := (n, r.pc) :: r.loops }

/-- `lp n` (R227). -/
def execLp (c : BitVec 12) (s : State) : Out := microOp (s.myCore.openLoop c.toNat) s

/-- `lp mpN` (R227). -/
def execLpParam (p : BitVec 3) (s : State) : Out := microOp (fun r => s.myCore.openLoop (r.param p).toNat r) s

/-- `el` (R227). -/
def execEl (s : State) : Out :=
  microOp (fun r => match r.loops with
    | [] => r
    | (n, body) :: rest => if 1 < n then { r with loops := (n - 1, body) :: rest, pc := body } else { r with loops := rest }) s

/-- `padd`: in the call's own copy, modulo 2^32 (R226). -/
def execPadd (p : BitVec 3) (v : BitVec 16) (s : State) : Out :=
  microOp (fun r =>
    { r with item := { r.item with params := r.item.params.set p.toNat (r.param p + v.signExtend 32) p.isLt } }) s

/-- `zacc`: the field holds n − 1 (R225, R226). -/
def execZacc (n : BitVec 10) (s : State) : Out := rowsOp (n.toNat + 1) (fun row => .zero row (n.toNat + 1)) s

/-- `anch`: the field holds n − 1 (R225, R226). -/
def execAnch (n : BitVec 10) (a : BitVec 16) (s : State) : Out :=
  rowsOp (n.toNat + 1) (fun row => .anchor row (n.toNat + 1) a) s

/-- `tok`: the plane reads of the earlier passes have been made; the call's produced token is set (R151, R229). -/
def execTok (s : State) : Out :=
  match s.myCore.mx.run with
  | none => .next s
  | some r =>
    microOp (fun r => r) (s.performed { core := s.cur.core, ctx := r.item.ctx } r.item.kp r.item.id)

/-- `wt`: the routine goes on once the token of the calling context is set (R229). -/
def execWt (k : BitVec 4) (s : State) : Out :=
  match s.myCore.mx.run with
  | none => .next s
  | some r =>
    if (s.myCore.ctxs[r.item.ctx.val]'r.item.ctx.isLt).rk k then microOp (fun r => r) s else .next s

/-! ### Array cycles (R212 to R217) -/

/-- The element width and ganging of a routine's format (R212). -/
def mxShape (f : BitVec 2) : Nat × Nat :=
  match f.toNat with
  | 0 => (16, 1)
  | 1 => (8, 1)
  | 2 => (6, 2)
  | _ => (4, 4)

/-- The bits of a run (R212). -/
def runBits (f : BitVec 2) : Nat := 64 * (mxShape f).2 * (mxShape f).1

/-- The run of column `c` of a context's region at bit `b` of its column stream (R215). -/
def Core.columnRun (k : Core) (x : Ctx) (f : BitVec 2) (b c : Nat) : BitVec 1024 :=
  let line (j : Nat) : Nat := leNat (k.planeBytes x (8192 * (b / 512 + j) + 64 * c) 64)
  let n := (b % 512 + runBits f + 511) / 512
  let v := (List.range n).foldr (fun j v => line j + 2 ^ 512 * v) 0
  BitVec.ofNat 1024 (v / 2 ^ (b % 512) % 2 ^ runBits f)

/-- Whether a run at a cursor leaves the plane region (R216). -/
def Core.runOutside (k : Core) (x : Ctx) (f : BitVec 2) (b : Nat) : Bool :=
  decide (k.planeSize x < 8192 * ((b + runBits f - 1) / 512 + 1))

/-- The scale bytes of a run's blocks, for a cursor, from a column's scale register (R217). -/
def runScales (f : BitVec 2) (b : Nat) (reg : BitVec 512) : BitVec 64 :=
  let g := (mxShape f).2
  (List.range (2 * g)).foldl (fun v j =>
    insertBits v (8 * j) (reg.extractLsb' (8 * ((b / runBits f * (2 * g) + j) % 64)) 8)) 0

/-- The scale registers in a cycle: those of the last `scl` four or more cycles back (R228). -/
def MxCall.settleScales (r : MxCall) (cycle : Nat) : MxCall :=
  let due := r.newScales.filter fun q => decide (q.1 ≤ cycle)
  { r with scales := (due.getLast?.map (·.2)).getD r.scales, newScales := r.newScales.filter fun q => decide (cycle < q.1) }

/-- `ARRAY_CYCLE`: one cycle of the running pass. It stalls while the A-feed queue holds no row of its domain; a run outside the plane region
is fault 0x12; otherwise the A row and the runs are read and the products are issued (R214 to R217, R298). -/
def execArrayCycle (n : CoreId) (s : State) : Out :=
  let k := s.core n
  .next (match k.mx.run with
    | none => s
    | some r0 =>
      let r := r0.settleScales s.cycle
      match r.fmt with
      | none => s
      | some f =>
        let x := k.caller r
        let pop := !r.hold || r.passFirst
        let read := r.bstep || r.passFirst
        if r.passLeft = 0 ∨ k.feedStalls r = true then s
        else if read && k.runOutside x f r.bcur then
          s.callFault n r 0x12 (BitVec.ofNat 64 (8192 * (r.bcur / 512) + r.bcur % 512 / 8))
        else
          let arow := if pop then (((k.mx.feedFor x.dom).head?).map (·.row)).getD 0 else r.arow
          let runs := if read then Vector.ofFn (fun c : Fin 128 => k.columnRun x f r.bcur c.val) else r.runs
          let e : AccEffect := .mac r.acur f arow runs (r.scales.map (runScales f r.bcur))
          let r' : MxCall :=
            { r with arow := arow, runs := runs, passLeft := r.passLeft - 1, passFirst := false,
                     bcur := if r.bstep then r.bcur + runBits f else r.bcur,
                     acur := if r.astep then (r.acur + 1) % 1024 else r.acur }
          s.onMx n fun m =>
            { m with run := some r', afeed := if pop then m.popFor x.dom else m.afeed,
                     effects := m.effects ++ [{ cyc := s.cycle + 6, call := r.item.id, dom := x.dom, kid := r.item.kid, eff := e, ctx := r.item.ctx }] })

/-! ### Effects in the accumulator (R91 to R93, R219) -/

/-- A product quantised to the grid of an anchor: nearest, ties to even (R92). -/
def quantise (anchor : BitVec 16) (neg : Bool) (num den : Nat) : Int :=
  let (n, d) := scaleDown num den (anchor.toInt - 48)
  let q := (roundNat .nearest neg n d).1
  if neg then -(q : Int) else q

/-- A cell while a row takes one array cycle: its integer, its invalid mark, the range mark it raises. -/
structure CellSum where
  c : BitVec 72
  inv : Bool
  mark : Bool
  deriving DecidableEq, Repr

/-- One product added to a cell (R92). -/
def CellSum.add (a : CellSum) (anchor : BitVec 16) (x y : Num) : CellSum :=
  match (mulNum x y).1, x, y with
  | .fin s n d, .fin .., .fin .. =>
    let q := quantise anchor s n d
    { a with c := a.c + BitVec.ofInt 72 q, mark := a.mark || decide (q < -(2 ^ 63) ∨ 2 ^ 63 - 1 < q) }
  | _, _, _ => { a with inv := true }

/-- A factor: a BF16 value, or an MX element under its block's scale (R80, R213, R214). -/
def factor (f : BitVec 2) (q scale : Nat) : Num :=
  if f = 0 then FpFmt.bf16.decode q else mxValue (mxShape f).1 q scale

/-- The A factors of a row: elements 0 to 64 G − 1 and the scale bytes of their blocks (R82, R213). -/
def aFactors (f : BitVec 2) (r : Row) : List Num :=
  let (w, g) := mxShape f
  (List.range (64 * g)).map fun k =>
    factor f (elemAt w r k) (r.extractLsb' (32 * w * rowBlocks w + 8 * (k / 32)) 8).toNat

/-- The B factors of a run, element k in the order of R83, with its block scales (R215, R217). -/
def bFactors (f : BitVec 2) (run : BitVec 1024) (scales : BitVec 64) : List Num :=
  let (w, g) := mxShape f
  (List.range (64 * g)).map fun k =>
    factor f (run.extractLsb' (g * w * (k % 64) + w * (k / 64)) w).toNat (scales.extractLsb' (8 * (k / 32)) 8).toNat

/-- An array cycle's products added to a row (R92, R214). -/
def AccRow.mac (a : AccRow) (f : BitVec 2) (arow : Row) (runs : Vector (BitVec 1024) 128)
    (scales : Vector (BitVec 64) 128) : AccRow :=
  let xs := aFactors f arow
  let cell (j : Fin 128) : CellSum :=
    (xs.zip (bFactors f (runs[j.val]'j.isLt) (scales[j.val]'j.isLt))).foldl (fun c (x, y) => c.add a.anchor x y)
      { c := a.c[j.val]'j.isLt, inv := a.inv.getLsbD j.val, mark := false }
  let cells := Vector.ofFn cell
  { a with
    c := cells.map (·.c)
    inv := (List.finRange 128).foldl (fun m j => if (cells[j.val]'j.isLt).inv then m ||| (1#128 <<< j.val) else m) a.inv
    mark := a.mark || cells.any (·.mark) }

/-- A row as an effect of a call reaches it: set to zero when another domain wrote it last (R79, R219, R328). -/
def AccRow.takenBy (a : AccRow) (e : PendEffect) : AccRow :=
  let b := a.seenBy e.dom
  { b with dom := some e.dom, kids := if b.kids.contains e.kid then b.kids else e.kid :: b.kids, caller := some (e.ctx, e.kid) }

/-- Rows `row` to `row + n − 1`, modulo 1,024, changed. -/
def accRows (acc : Vector AccRow 1024) (row n : Nat) (f : AccRow → AccRow) : Vector AccRow 1024 :=
  (List.range n).foldl (fun acc i =>
    let j := (row + i) % 1024
    acc.setIfInBounds j (f ((acc[j]?).getD {}))) acc

/-- An effect lands (R219, R226). -/
def PendEffect.land (e : PendEffect) (acc : Vector AccRow 1024) : Vector AccRow 1024 :=
  match e.eff with
  | .zero row n => accRows acc row n fun a =>
      let b := a.takenBy e
      { b with c := Vector.replicate 128 0, inv := 0, mark := false }
  | .anchor row n v => accRows acc row n fun a => { a.takenBy e with anchor := v }
  | .mac row f arow runs scales => accRows acc row 1 fun a => (a.takenBy e).mac f arow runs scales

/-- `ACCUMULATE_LAND`: the effects due land in the order of their issue (R219). -/
def execAccumulateLand (n : CoreId) (s : State) : Out :=
  .next (s.onCore n fun k =>
    { k with
      acc := (k.mx.effects.filter fun e => decide (e.cyc ≤ s.cycle)).foldl (fun acc e => e.land acc) k.acc
      mx := { k.mx with effects := k.mx.effects.filter fun e => decide (s.cycle < e.cyc) } })

/-- Whether the running call stalls: its pass waits for an A row, or its `wt` for a token (R230). -/
def Core.mxStalled (k : Core) : Bool :=
  k.mx.run.any fun r =>
    if 0 < r.passLeft then k.feedStalls r
    else match okInstr (decodeMicro (k.microWord r r.pc)) with
      | some (.wt t) => r.busy == 0 && !(k.ctxs[r.item.ctx.val]'r.item.ctx.isLt).rk t
      | _ => false

/-- The micro-operation that the array executes in this cycle, when the running call is in no pass and no longer busy. -/
def Core.microNext (k : Core) : Option (MxCall × Instr) :=
  match k.mx.run with
  | none => none
  | some r => if r.passLeft = 0 ∧ r.busy = 0 then (okInstr (decodeMicro (k.microWord r r.pc))).map fun i => (r, i) else none

/-- A busy call comes one cycle closer to its next micro-operation (R226). -/
def Matrix.unbusy (m : Matrix) : Matrix :=
  match m.run with
  | none => m
  | some r => { m with run := some { r with busy := r.busy - 1 } }

end Sys2Proof.Machine
end

