-- ==== Sys2Proof/Machine/Objects.lean ====
section
/-! DEFINITION. The Adedom object container, and the mailbox commands LOAD and UNLOAD (R28 to R33, R99, R216, R221, R222, R282,
R355). -/

namespace Sys2Proof.Machine

/-! ### Device memory by virtual address -/

/-- The physical pieces of a byte range of a domain, none across a 64-byte boundary, or the first fault (R250 to R254, R331).
`fuel` bounds their number. -/
def State.vaPieces (s : State) (d : DomNum) (need : Need) : Nat → Word → Nat → Except UnitFault (List (Nat × Nat))
  | 0, _, _ => .ok []
  | fuel + 1, va, n =>
    if n = 0 then .ok []
    else
      let c := min n (64 - va.toNat % 64)
      match s.translate none d va 1 0x54 need with
      | .error f => .error (f, va)
      | .ok pa =>
        if s.linkDown pa then .error (0xA2, linkDetail pa)
        else match s.vaPieces d need fuel (va + BitVec.ofNat 64 c) (n - c) with
          | .error f => .error f
          | .ok l => .ok ((pa, c) :: l)

/-- The pieces of `n` bytes of a domain. -/
def State.vaRange (s : State) (d : DomNum) (need : Need) (va : Word) (n : Nat) : Except UnitFault (List (Nat × Nat)) :=
  s.vaPieces d need n va n

/-- `n` bytes that a domain can read, as an agent outside the cores reads them; a poisoned block is fault 0x84 (R268,
R349). -/
def State.vaRead (s : State) (d : DomNum) (va : Word) (n : Nat) : Except UnitFault (List Byte) :=
  match s.vaRange d Need.read va n with
  | .error f => .error f
  | .ok ps =>
    if ps.any fun p => s.poisoned p.1 p.2 then .error (0x84, va)
    else .ok (ps.flatMap fun p => s.devRead (s.domain d).key p.1 p.2)

/-- The pieces of `n` bytes that can be written: a poisoned block that is not written whole is fault 0x84 (R339, R349). -/
def State.vaTarget (s : State) (d : DomNum) (need : Need) (va : Word) (n : Nat) : Except UnitFault (List (Nat × Nat)) :=
  match s.vaRange d need va n with
  | .error f => .error f
  | .ok ps => if ps.any fun p => s.cutsPoison p.1 p.2 then .error (0x84, va) else .ok ps

/-- Bytes written where a domain can write, or the first fault, which leaves memory as it was. -/
def State.vaWrite (s : State) (d : DomNum) (va : Word) (bs : List Byte) : Except UnitFault State :=
  match s.vaTarget d Need.write va bs.length with
  | .error f => .error f
  | .ok ps => .ok (s.writePieces (s.domain d).key ps bs)

/-! ### The mailbox (R282) -/

/-- The monitor's answer to a mailbox command: its status, and what it returns (R282). -/
def State.answer (s : State) (status : BitVec 32) (ret : BitVec 32 := 0) : State :=
  { s with mbStatus := status, hostOut := s.hostOut ++ [.mailbox status ret] }

/-- A mailbox command: the monitor answers once start-up has succeeded (R283). -/
def mailbox (f : State → State) (s : State) : Out := .next (if s.bootst = 1 then f s else s)

/-- A mailbox command that is refused with status 6 outside an SPDM secure session (R282, R324). -/
def sessionMailbox (f : State → State) (s : State) : Out :=
  mailbox (fun s => if s.spdm = .secure then f s else s.answer 6) s

/-- Whether a domain exists and is not being destroyed (R285, R337). -/
def State.hasDomain (s : State) (d : DomNum) : Bool := (s.domain d).live && !(s.domain d).dying

/-! ### The container (R28, R29) -/

/-- An entry of the section table. -/
structure SectEntry where
  type : Nat
  kern : Nat
  align : Nat
  off : Nat
  size : Nat
  rsvd : Nat
  deriving DecidableEq, Repr

/-- Entry `i` of the section table (R28). -/
def sectEntry (b : List Byte) (i : Nat) : SectEntry :=
  let o := 64 + 32 * i
  { type := imgField b o 2, kern := imgField b (o + 2) 2, align := imgField b (o + 4) 1, off := imgField b (o + 8) 8,
    size := imgField b (o + 16) 8, rsvd := imgField b (o + 5) 3 + imgField b (o + 24) 8 }

/-- The section table of a file. -/
def sectTable (b : List Byte) : List SectEntry := (List.range (imgField b 6 2)).map (sectEntry b)

/-- A section's bytes in the file. -/
def SectEntry.bytes (e : SectEntry) (b : List Byte) : List Byte := (b.drop e.off).take e.size

/-- Whether a section table entry is admitted; `last` marks the last one (R28, R29, R32). -/
def SectEntry.ok (e : SectEntry) (nkern fsize : Nat) (last : Bool) : Bool :=
  ((decide (1 ≤ e.type ∧ e.type ≤ 10)) || (e.type == 0xFFFF && last && e.size == 144 && e.off + e.size == fsize))
    && (e.kern == 0xFFFF || decide (e.kern < nkern)) && decide (e.align ≤ 30) && e.rsvd == 0
    && e.off % 8 == 0 && decide (e.off + e.size ≤ fsize)

/-- Whether the header is admitted (R28). -/
def headerOk (b : List Byte) : Bool :=
  let n := imgField b 6 2
  imgField b 0 4 == 0x424F4441 && imgField b 4 2 == 3 && decide (1 ≤ n ∧ n ≤ 1024) && imgField b 8 8 == b.length
    && imgField b 16 2 == 0x4820 && decide (1 ≤ imgField b 18 2 ∧ imgField b 18 2 ≤ 256) && imgField b 20 44 == 0
    && decide (64 + 32 * n ≤ b.length)

/-- The signal plan entry at the start of bytes, if it is admitted (R30, R55). -/
def planEntry (b : List Byte) : Option Plan :=
  let fmt := imgField b 1 1
  let rows := imgField b 2 1
  let fl := imgField b 3 1
  let depth := imgField b 4 2
  let lead := imgField b 6 1
  let rate := imgField b 8 2
  let phase := imgField b 10 2
  let isStatic := fl / 2 % 2 == 1
  if imgField b 0 1 < 64 ∧ 1 ≤ fmt ∧ fmt ≤ 15 ∧ 1 ≤ rows ∧ rows ≤ 64 ∧ fl < 4 ∧ 1 ≤ depth ∧ depth ≤ 4096 ∧ lead ≤ 64
      ∧ 1 ≤ rate ∧ phase < rate ∧ imgField b 7 1 = 0 ∧ imgField b 16 16 = 0
      ∧ (isStatic = false ∨ (depth = 1 ∧ lead = 0 ∧ rate = 1 ∧ phase = 0)) then
    some { sig := BitVec.ofNat 6 (imgField b 0 1), fmt := BitVec.ofNat 8 fmt, rows := rows, depth := depth, lead := lead,
           rate := rate, phase := phase, start := BitVec.ofNat 32 (imgField b 12 4), isStatic := isStatic,
           isRemote := fl % 2 == 1 }
  else none

/-- The entries of a signal plan, in ascending signal number (R30). -/
def planEntries : Nat → List Byte → Option (List Plan)
  | 0, _ => some []
  | n + 1, b =>
    match planEntry b, planEntries n (b.drop 32) with
    | some p, some r => if r.head?.any (fun q => decide (q.sig ≤ p.sig)) then none else some (p :: r)
    | _, _ => none

/-- A signal plan section (R30). -/
def planOf (b : List Byte) : Option (List Plan) :=
  if b.length % 32 = 0 then planEntries (b.length / 32) b else none

/-- A loop-table level, if it is admitted (R31). -/
def levelAt (b : List Byte) (i : Nat) : Option Level :=
  let kind := imgField b (8 * i) 1
  let ext := imgField b (8 * i + 4) 4
  if kind ≤ 3 ∧ imgField b (8 * i + 1) 3 = 0 ∧ (kind = 0 ↔ ext = 0) then
    some { kind := BitVec.ofNat 8 kind, extent := BitVec.ofNat 32 ext }
  else none

/-- A loop table section (R31). -/
def loopsOfBytes (b : List Byte) : Option (Vector Level 6) :=
  if b.length = 48 ∧ (List.range 6).all fun i => (levelAt b i).isSome then
    some (Vector.ofFn fun i : Fin 6 => (levelAt b i.val).getD {})
  else none

/-- Whether the blocks of a ROUTIMG section are admitted, from the least entry number allowed (R222). -/
def routBlocksOk : Nat → Nat → List Byte → Bool
  | 0, _, _ => true
  | n + 1, lo, b =>
    let len := imgField b 2 2
    let size := alignUp (8 + 4 * len) 8
    decide (lo ≤ imgField b 0 1 ∧ imgField b 0 1 < 32 ∧ 1 ≤ len ∧ len ≤ 256 ∧ 8 + 4 * len ≤ b.length)
      && imgField b 1 1 == 0 && imgField b 4 4 == 0 && routBlocksOk n (imgField b 0 1 + 1) (b.drop size)

/-- Whether a ROUTIMG section is admitted (R222). -/
def routOk (b : List Byte) : Bool :=
  decide (1 ≤ imgField b 0 2 ∧ imgField b 0 2 ≤ 32) && imgField b 2 6 == 0
    && routBlocksOk (imgField b 0 2) 0 (b.drop 8)

/-- Whether a section's own fields are admitted (R29 to R31, R222). -/
def sectionOk (type : Nat) (b : List Byte) : Bool :=
  match type with
  | 1 => b.length % 4 == 0
  | 2 => (planOf b).isSome
  | 3 => (loopsOfBytes b).isSome
  | 5 => routOk b
  | _ => true

/-- The file's bytes of a kernel's sections of a type, its own and the shared ones, one after another in table order (R28; that
several are joined is a DESIGN CHOICE, log entry 50). -/
def rawKernelBytes (b : List Byte) (type k : Nat) : List Byte :=
  ((sectTable b).filter fun e => e.type == type && (e.kern == 0xFFFF || e.kern == k)).flatMap (·.bytes b)

/-- A kernel's loop table; a kernel without one has every level unused (R31). -/
def kernelLoops (b : List Byte) (k : Nat) : Option (Vector Level 6) :=
  match rawKernelBytes b 3 k with
  | [] => some (Vector.replicate 6 {})
  | l => loopsOfBytes l

/-- Whether the loader admits a file: no reserved type, field or value, and a signature only at the end (R28 to R32). It refuses
as well what breaks a range of R28, R30, R31 or R222 without being reserved: NSECT, NKERN, SIZE, KERN, ALIGN or OFFSET out of range,
a section outside the file, a CODE length that is no multiple of 4, values and order of a plan, loop table or routine (DESIGN CHOICE,
log entry 50). -/
def containerOk (b : List Byte) : Bool :=
  headerOk b &&
    (let t := sectTable b
     ((List.range t.length).zip t).all fun (i, e) =>
      e.ok (imgField b 18 2) b.length (i + 1 == t.length) && sectionOk e.type (e.bytes b)) &&
    (List.range (imgField b 18 2)).all fun k => (planOf (rawKernelBytes b 2 k)).isSome && (kernelLoops b k).isSome

/-! ### The signature (R32) -/

/-- The signature section, when the file has one. -/
def signatureOf (b : List Byte) : Option SectEntry := (sectTable b).getLast?.filter fun e => e.type == 0xFFFF

/-- Whether an object carries a signature that verifies against an admitted key (R32). -/
def signatureOk (digests : List (BitVec 384)) (b : List Byte) : Bool :=
  match signatureOf b with
  | none => false
  | some e =>
    let key := BitVec.ofNat 384 (imgField b e.off 48)
    digests.contains key && Config.verifies key (Config.sha384 (b.take e.off)) ((e.bytes b).drop 48)

/-! ### Images of a kernel -/

/-- Whether a section belongs to a kernel: its own, or shared by all (R28). -/
def Section.reaches (c : Section) (k : Nat) : Bool := c.kern == 0xFFFF || c.kern.toNat == k

/-- The end of images placed one after another, each at its alignment (R99, R216). -/
def placedEnd (l : List Section) : Nat := l.foldl (fun a c => alignUp a c.align + c.bytes.length) 0

/-- The images placed one after another, each with its offset. -/
def placedFrom : Nat → List Section → List (Nat × List Byte)
  | _, [] => []
  | a, c :: r => (alignUp a c.align, c.bytes) :: placedFrom (alignUp a c.align + c.bytes.length) r

/-- The CPDATA images of a kernel (R99). -/
def Object.cpImages (o : Object) (k : Nat) : List Section := o.cpdata.filter fun c => c.reaches k

/-- IMGEND (R100). -/
def Object.imgEnd (o : Object) (k : Nat) : Nat := alignUp (placedEnd (o.cpImages k)) 256

/-- The PLANE images of a kernel, each at a 64-byte boundary and at its own alignment (R28, R216). -/
def Object.planeImages (o : Object) (k : Nat) : List Section :=
  (o.planes.filter fun c => c.reaches k).map fun c => { c with align := max 64 c.align }

/-- The size of a kernel's plane region (R216). -/
def Object.planeRegion (o : Object) (k : Nat) : Nat := max 16384 (alignUp (placedEnd (o.planeImages k)) 16384)

/-- The words of routine store that a kernel needs (R221). -/
def Object.routWords (o : Object) (k : Nat) : Nat :=
  ((o.routines (BitVec.ofNat 8 k)).map (·.words.length)).sum

/-- Whether every kernel of an object can be placed on an empty core (R99, R216, R221, R282). -/
def Object.fitsEmpty (o : Object) : Bool :=
  (List.range o.kernels.length).all fun k =>
    decide (o.imgEnd k + 32 ≤ 0x3C000 ∧ o.planeRegion k ≤ 24 * 2 ^ 20 ∧ o.routWords k ≤ 256)

/-! ### LOAD and UNLOAD -/

/-- The sections of a type, with their places in the table. -/
def sectionsOf (b : List Byte) (type : Nat) : List (Nat × SectEntry) :=
  ((List.range (sectTable b).length).zip (sectTable b)).filter fun e => e.2.type == type

/-- Bytes cut or filled with zeros to a length. -/
def fitTo (n : Nat) (l : List Byte) : List Byte := (l ++ List.replicate n 0).take n

/-- A section's bytes patched by the object's RELOC sections (R29; log entry 9). -/
def relocated (b : List Byte) (devs : List Word) (i : Nat) (e : SectEntry) : List Byte :=
  match (sectionsOf b 10).flatMap fun r => r.2.bytes b with
  | [] => e.bytes b
  | rel => fitTo e.size (Config.relocate rel i devs (e.bytes b))

/-- The sections of a type as the object keeps them, patched. -/
def keptSections (b : List Byte) (devs : List Word) (type : Nat) : List Section :=
  (sectionsOf b type).map fun (i, e) =>
    { kern := BitVec.ofNat 16 e.kern, align := 2 ^ e.align, bytes := relocated b devs i e }

/-- The bytes of a kernel's sections of a type, one after another. -/
def kernelBytes (b : List Byte) (devs : List Word) (type k : Nat) : List Byte :=
  ((keptSections b devs type).filter fun c => c.reaches k).flatMap (·.bytes)

/-- A kernel of an object (R29 to R31). RELOC patches its CODE; SIGPLAN and LOOPTAB are read as they stand in the file (DESIGN CHOICE,
log entry 50). -/
def kernelOf (b : List Byte) (devs : List Word) (k : Nat) : KImage :=
  { code := wordsOfBytes (kernelBytes b devs 1 k)
    plan := (planOf (rawKernelBytes b 2 k)).getD []
    loops := (kernelLoops b k).getD (Vector.replicate 6 {}) }

/-- An image placed in device memory: its address, its size, its pieces of physical memory. -/
abbrev DevPlace := Word × Nat × List (Nat × Nat)

/-- The object of an admitted file, its DEVDATA images at addresses already chosen. -/
def objectOf (b : List Byte) (h : BitVec 16) (d : DomNum) (devs : List DevPlace) : Object :=
  let vas := devs.map (·.1)
  { handle := h, dom := d, kernels := (List.range (imgField b 18 2)).map (kernelOf b vas),
    grids := keptSections b vas 4, routs := keptSections b vas 5, cpdata := keptSections b vas 7,
    planes := keptSections b vas 8, devs := devs.map fun p => (p.1, p.2.1), taken := devs.flatMap (·.2.2) }

/-- A list rotated by a free choice. -/
def rotated {α : Type} (l : List α) (draw : Nat) : List α :=
  let i := draw % l.length
  l.drop i ++ l.take i

/-- The physical pieces of an image of HBM that a domain maps with R and W and that can be written (R355). -/
def State.devPieces (s : State) (d : DomNum) (va : Word) (n : Nat) : Option (List (Nat × Nat)) :=
  match s.vaTarget d { r := true, w := true, ext0 := true } va n with
  | .ok ps => some ps
  | .error _ => none

/-- The pages that a table at a level maps, its own first address `lo`: virtual address, physical address and size (R253). -/
def State.tableLeaves (s : State) (lo : Nat) : Nat → Nat → List (Nat × Nat × Nat)
  | level, tab =>
    let size := 2 ^ (12 + 9 * level)
    (List.range (if level = 4 then 256 else 512)).flatMap fun i =>
      match s.rawWord (tab + 8 * i) with
      | .error _ => []
      | .ok e =>
        if field e 0 0 = 0 then []
        else if field e 1 1 = 1 then [(lo + i * size, field e 51 12 * 2 ^ 12, size)]
        else match level with
          | 0 => []
          | l + 1 => s.tableLeaves (lo + i * size) l (field e 51 12 * 2 ^ 12)

/-- The addresses at which an image may begin: every 4 KiB boundary that a valid range entry or the page table of the domain maps,
in an order that is a free choice (R355; log entry 15). -/
def State.devAddrs (s : State) (d : DomNum) : List Nat :=
  let v := s.domain d
  let ext := ((v.ranges.toList.filter fun e => e.attr.getLsbD 0).map fun e => (e.vbase.toNat, e.vlimit.toNat + 1 - e.vbase.toNat))
    ++ (s.tableLeaves 0 4 v.root.toNat).map fun p => (p.1, p.2.2)
  rotated (ext.flatMap fun (a, n) => (List.range (n / 4096)).map fun i => a + 4096 * i) s.pick

/-- Places for DEVDATA images, given by size and ALIGN, in section order at rising addresses from `lo` on, each at a 4 KiB boundary and
apart from the pieces already taken; none when no choice of addresses has room (R28, R355). -/
def State.devPlaces (s : State) (d : DomNum) (addrs : List Nat) : Nat → List (Nat × Nat) → List (Nat × Nat) → Option (List DevPlace)
  | _, [], _ => some []
  | lo, (n, al) :: r, taken =>
    addrs.findSome? fun a =>
      if lo ≤ a ∧ a % 4096 = 0 ∧ a % 2 ^ al = 0 then
        match s.devPieces d (BitVec.ofNat 64 a) n with
        | none => none
        | some ps =>
          if piecesMeet ps taken then none
          else (s.devPlaces d addrs (a + n) r (taken ++ ps)).map fun l => (BitVec.ofNat 64 a, n, ps) :: l
      else none

/-- The places of an object's DEVDATA images, apart from those of every loaded object. -/
def State.devPlacement (s : State) (d : DomNum) (sizes : List (Nat × Nat)) : Option (List DevPlace) :=
  s.devPlaces d (s.devAddrs d) 0 sizes (s.objects.flatMap (·.taken))

/-- The DEVDATA images written (R355). -/
def State.writeDevs (s : State) (d : DomNum) : List (Word × List Byte) → State
  | [] => s
  | (va, b) :: r =>
    match s.vaWrite d va b with
    | .ok s' => s'.writeDevs d r
    | .error _ => s.writeDevs d r

/-- An admitted and verified file loaded: its handle is the status word's companion; no room is status 3 (R99, R282; that
this holds for DEVDATA without a place, and for a handle in use, is a DESIGN CHOICE, log entry 50). -/
def State.loadObject (s : State) (d : DomNum) (b : List Byte) : State :=
  let ds := sectionsOf b 6
  match s.devPlacement d (ds.map fun e => (e.2.size, e.2.align)) with
  | none => s.answer 3
  | some places =>
    let o := objectOf b s.objSeq d places
    if !o.fitsEmpty || (s.object? s.objSeq).isSome then s.answer 3
    else
      let imgs := (places.map (·.1)).zip (ds.map fun (i, e) => relocated b (places.map (·.1)) i e)
      (({ s with objects := s.objects ++ [o], objSeq := s.objSeq + 1 }).writeDevs d imgs).answer 0 (s.objSeq.setWidth 32)

/-- `LOAD`: the object is read, checked, verified under the domain's policy, and loaded (R29, R32, R99, R282). -/
def execLoad (dom : DomNum) (addr : Word) (size : Word) (s : State) : Out :=
  mailbox (fun s =>
    if !s.hasDomain dom then s.answer 4
    else match s.vaRead dom addr size.toNat with
      | .error _ => s.answer 5
      | .ok b =>
        if !containerOk b then s.answer 1
        else if (s.domain dom).signed && !signatureOk (s.domain dom).digests b then s.answer 2
        else s.loadObject dom b) s

/-- `UNLOAD`: an object none of whose kernels is placed is released (R282). -/
def execUnload (obj : BitVec 16) (s : State) : Out :=
  mailbox (fun s =>
    if (s.object? obj).isNone || s.kernels.any (fun k => k.obj == obj) then s.answer 5
    else ({ s with objects := s.objects.filter fun o => o.handle != obj }).answer 0) s

end Sys2Proof.Machine
end

