-- ==== Sys2Proof/Machine/Save.lean ====
section
/-! DEFINITION. The context block, and what pre-emption saves of a kernel and restores (R48, R68, R73, R184, R230, R325 to R329,
R350). -/

namespace Sys2Proof.Machine

/-! ### The context block and the slot entry (R325, R328) -/

/-- A loop entry (R325). -/
def HwLoop.bytes (l : HwLoop) : List Byte :=
  leBytes 4 l.count.toNat ++ leBytes 4 l.first.toNat ++ leBytes 4 l.last.toNat ++ leBytes 4 l.active.toNat

/-- The REG byte of a destination (R325). -/
def Dest.code : Dest → Byte
  | .x r => 0#3 ++ r
  | .pair n => 1#3 ++ n.setWidth 4 ++ 0#1
  | .pred p => 2#3 ++ p.setWidth 5

/-- A landing record (R325). -/
def LandRec.bytes (parked : Bool) (r : LandRec) : List Byte :=
  leBytes 8 r.value.toNat ++ [r.dest.code, BitVec.ofNat 8 r.rem,
    0#5 ++ BitVec.ofBool parked ++ BitVec.ofBool r.sq ++ 1#1] ++ List.replicate 5 0

/-- Bytes filled with zeros to a length. -/
def padTo (n : Nat) (l : List Byte) : List Byte := l ++ List.replicate (n - l.length) 0

/-- The context block from the block's state, grid ownership and owned sequence entries (R325). -/
def Block.bytes (b : Block) (owner : Bool) (seqs : List (Option (BitVec 32))) : List Byte :=
  let words (l : List Word) : List Byte := l.flatMap fun w => leBytes 8 w.toNat
  words b.x.toList
    ++ b.d.toList.flatMap (fun d => words d.toList)
    ++ b.mp.toList.flatMap (fun m => leBytes 4 m.toNat)
    ++ leBytes 2 b.p.toNat ++ leBytes 2 b.k.toNat
    ++ leBytes 4 (b.trapped.toNat + 2 * b.triggered.toNat + 4 * owner.toNat + 8 * b.stopped.toNat)
    ++ words [b.now.setWidth 64, b.nowc.setWidth 64, b.specd.setWidth 64, b.pc, b.pendingTarget, b.flags.setWidth 64,
              b.tvec, b.epc, b.btarg, b.cause.setWidth 64, b.faddr]
    ++ b.outer.bytes ++ b.inner.bytes ++ b.pOuter.bytes ++ b.pInner.bytes
    ++ padTo 64 (words b.rstk)
    ++ leBytes 4 (b.rstk.length + 16 * b.spilled) ++ leBytes 4 0
    ++ b.base.toList.flatMap (fun w => leBytes 4 w.toNat) ++ leBytes 4 (b.baseExt.getD 0).toNat ++ leBytes 4 0
    ++ padTo 512 (b.parked.flatMap (LandRec.bytes true) ++ b.land.flatMap (LandRec.bytes false))
    ++ words b.arrive.toList ++ words [b.sync]
    ++ leBytes 4 (leBits (seqs.map Option.isSome))
    ++ seqs.flatMap (fun e => leBytes 4 (e.getD 0).toNat)
    ++ List.replicate 60 0
where
  /-- The number whose bits, from bit 0 up, are these. -/
  leBits : List Bool → Nat
    | [] => 0
    | a :: r => a.toNat + 2 * leBits r

/-- The sequence entries of a core that a context owns, by number (R73, R325). -/
def Core.ownedSeqs (k : Core) (c : Fin 4) : List (Option (BitVec 32)) :=
  k.seqs.toList.map fun e => if e.owner = some c then some e.ptr else none

/-- The context block of a context (R325). -/
def State.blockBytes (s : State) (c : CtxId) : List Byte :=
  let k := s.core c.core
  (s.ctx c).toBlock.bytes (decide (k.grid.owner = some c.ctx)) (k.ownedSeqs c.ctx)

/-- The code of a slot's state (R69, R328). -/
def SlotState.code : SlotState → Nat
  | .free => 0
  | .filling => 1
  | .full => 2
  | .draining => 3

/-- A slot entry of the save image (R328). -/
def SigSlot.bytes (v : SigSlot) : List Byte :=
  leBytes 8 v.tag ++ leBytes 8 v.claim.toNat ++ leBytes 8 v.rows.toNat ++ leBytes 8 (v.st.code + 4 * v.held.toNat)

/-! ### Memories cut out and put back -/

namespace Memory

/-- A store without the bytes of a range. -/
def clear (m : Memory) (a n : Nat) : Memory := m.filter fun c => decide (c.1 < a ∨ a + n ≤ c.1)

/-- The bytes of a range, counted from its start. -/
def slice (m : Memory) (a n : Nat) : Memory :=
  (m.filter fun c => decide (a ≤ c.1 ∧ c.1 < a + n)).map fun c => (c.1 - a, c.2)

/-- A range replaced by bytes counted from its start. -/
def place (m : Memory) (a n : Nat) (b : Memory) : Memory := b.foldl (fun m c => m.set (a + c.1) c.2) (m.clear a n)

end Memory

namespace Owners

/-- The keys of a range, counted from its start. -/
def slice (o : Owners) (a n : Nat) : Owners :=
  (o.filter fun c => decide (a ≤ c.1 ∧ c.1 < a + n)).map fun c => (c.1 - a, c.2)

/-- The keys of a range replaced by keys counted from its start. -/
def place (o : Owners) (a n : Nat) (b : Owners) : Owners :=
  b.foldl (fun o c => o.set (a + c.1) c.2) (o.filter fun c => decide (c.1 < a ∨ a + n ≤ c.1))

end Owners

/-! ### Saving (R327, R328) -/

/-- The first byte of a context's spill area (R99). -/
def spillArea (c : Fin 4) : Nat := 0x3C000 + 0x1000 * c.val

/-- A context as it is saved: its waits are tested again after restore, and a `sync` that it has only reached is reached
anew (R326). -/
def Ctx.forSave (x : Ctx) : Ctx :=
  { x with leaving := false, wait := none, gacqAt := none, syncSeen := none, syncAt := none,
           sync := if x.syncSeen.isSome then x.sync - 1 else x.sync }

/-- A stream command as it is pushed again: at its resume point, not taken, and working (R327). -/
def StreamCmd.forSave (q : StreamCmd) : StreamCmd := { q.resumed with taken := false, retry := false }

/-- What is saved with a context of a core (R327, R328). -/
def Core.saveCtx (k : Core) (c : Fin 4) : SavedCtx :=
  { ctx := (k.ctxs[c.val]'c.isLt).forSave, slot := c,
    spill := Memory.slice k.cp (spillArea c) 0x1000, spillOwner := Owners.slice k.cpOwner (spillArea c) 0x1000,
    seqs := (List.finRange 32).filterMap fun i =>
      if (k.seqs[i.val]'i.isLt).owner = some c then some (i, (k.seqs[i.val]'i.isLt).ptr) else none }

/-- Whether a context of a core is of a kernel, at one of some places. -/
def Core.isOf (k : Core) (kid : Nat) (places : List Nat) (c : Fin 4) : Bool :=
  let x := k.ctxs[c.val]'c.isLt
  x.live && x.kid == kid && places.contains x.place

/-- The contexts that own a grid or have commands in it. -/
def Grid.users (g : Grid) : List (Fin 4) :=
  g.owner.toList ++ (g.queue.filter fun q => !q.isMark).map (·.ctx) ++ g.loading.toList.map (·.1.ctx)
    ++ g.run.toList.map (·.ctx)

/-- A grid as it goes with some of its users (R184, R328). -/
def Grid.only (g : Grid) (mine : Fin 4 → Bool) : Grid :=
  { g with
    owner := g.owner.filter mine, grant := none, queue := g.queue.filter fun q => mine q.ctx
    loading := g.loading.filter fun q => mine q.1.ctx, run := g.run.filter fun r => mine r.ctx }

/-- The 1,184 bytes of an accumulator row in a save or checkpoint image (R219). -/
def AccRow.bytes (a : AccRow) : List Byte :=
  a.c.toList.flatMap (fun c => leBytes 8 c.toNat) ++ a.c.toList.map (fun c => c.extractLsb' 64 8)
    ++ leBytes 16 a.inv.toNat ++ leBytes 2 a.anchor.toNat ++ leBytes 1 a.mark.toNat ++ List.replicate 13 0

/-- The bytes of a signal in a save image: its samples, and an entry for each slot (R328). -/
def Signal.imageSize (g : Signal) : Nat := g.plan.nslots * (g.plan.rows * 256 + 32)

/-- The bytes of a context in a save image: its block, its signals, its spill area (R328). -/
def Ctx.imageSize (x : Ctx) : Nat := 2048 + ((x.sigs.toList.filterMap id).map Signal.imageSize).sum + 0x1000

/-- What a kernel leaves of a core at one of its places (R327, R328, R350). -/
def State.saveCore (s : State) (n : CoreId) (kid place : Nat) : SavedCore :=
  let k := s.core n
  let mine := k.isOf kid [place]
  let cs := (List.finRange 4).filter mine
  let w := (k.windows.find? fun w => w.kid == kid && w.place == place).getD
    { kid := kid, place := place, wbase := 0, imgEnd := 0, plBase := 0, plSize := 0, routines := [], shadowBase := 0,
      shadowSize := 0 }
  let rows := ((List.range 1024).zip k.acc.toList).filter fun r => r.2.kids.contains kid
  { place := place, cycle := s.cycle, ctxs := cs.map k.saveCtx,
    size := ((cs.map fun c => (k.ctxs[c.val]'c.isLt).imageSize)).sum + (rows.map (·.2.bytes.length)).sum + w.plSize
      + w.shadowSize + w.imgEnd + 24,
    streams := (List.finRange 6).flatMap fun e =>
      let eng := k.engines[e.val]'e.isLt
      ((eng.current.toList ++ eng.queue).filter fun q => mine q.ctx).map fun q => (e, q.forSave),
    remotes := k.remote.filter fun r => mine r.ctx,
    grid := if k.grid.users.any mine then some (k.grid.only mine) else none,
    afeed := k.mx.afeed.filter fun r => r.kid == kid && r.place == place,
    calls := (k.mx.away ++ k.mx.resumed).filter fun r => mine r.item.ctx,
    rows := rows,
    plane := Memory.slice k.plane w.plBase w.plSize,
    plLines := (k.plLines.filter fun l => decide (w.plBase / 8192 ≤ l.1 ∧ l.1 < (w.plBase + w.plSize) / 8192)).map
      fun l => (l.1 - w.plBase / 8192, l.2),
    cp := Memory.slice k.cp w.wbase (w.imgEnd + 32), cpOwner := Owners.slice k.cpOwner w.wbase (w.imgEnd + 32) }

/-- A core without a kernel's contexts at some of its places: their commands, windows, grid and rows go (R328). -/
def Core.dropKernel (k : Core) (kid : Nat) (places : List Nat) : Core :=
  let gone := k.isOf kid places
  let k1 := (List.finRange 4).foldl (fun k c => if gone c then (k.dropSeqs c).withdrawStreams c else k) k
  let g := k.grid
  { k1 with
    ctxs := Vector.ofFn fun c : Fin 4 => if gone c then {} else k.ctxs[c.val]'c.isLt
    remote := k.remote.filter fun r => !gone r.ctx
    acc := k.acc.map fun a => { a with kids := a.kids.filter (· != kid) }
    windows := k.windows.filter fun w => !(w.kid == kid && places.contains w.place)
    grid := if g.users.any gone then
        (let g' := g.only fun c => !gone c
         if g.run.any fun r => gone r.ctx then g'.dropOps else g')
      else g
    mx := { k.mx with
      afeed := k.mx.afeed.filter fun r => !(r.kid == kid && places.contains r.place)
      away := k.mx.away.filter fun r => !gone r.item.ctx
      resumed := k.mx.resumed.filter fun r => !gone r.item.ctx } }

/-! ### Restoring (R326 to R329) -/

/-- A cycle number counted on from the cycle of a save. -/
def shiftCycle (saved now t : Nat) : Nat := t + now - saved

/-- A grid taken up again at another time, its contexts renamed (R184). -/
def Grid.restored (g : Grid) (saved now : Nat) (f : Fin 4 → Fin 4) : Grid :=
  let sh := shiftCycle saved now
  { g with
    owner := g.owner.map f
    lastCtx := g.lastCtx.map f
    queue := g.queue.map fun c => { c with ctx := f c.ctx }
    loading := g.loading.map fun c => ({ c.1 with ctx := f c.1.ctx }, sh c.2)
    run := g.run.map fun r => { r with ctx := f r.ctx, owed := r.owed.map fun o => (f o.1, o.2) }
    tiles := g.tiles.map fun t =>
      { t with att := t.att.map (fun a => { a with done := sh a.done }), attDone := sh t.attDone }
    ports := g.ports.map fun p =>
      { p with reqs := p.reqs.map (fun r => { r with ctx := f r.ctx })
               coming := p.coming.map fun r =>
                 { r with cyc := sh r.cyc, caller := r.caller.map (fun c => (f c.1, c.2)), src := (f r.src.1, r.src.2) }
               rows := p.rows.map fun r => { r with caller := r.caller.map (fun c => (f c.1, c.2)), src := (f r.src.1, r.src.2) } } }

/-- A suspended call taken up again (R230). -/
def MxCall.restored (r : MxCall) (saved now : Nat) (f : Fin 4 → Fin 4) : MxCall :=
  { r with item := { r.item with ctx := f r.item.ctx }, newScales := r.newScales.map fun q => (shiftCycle saved now q.1, q.2) }

/-- A saved context in its new place; the writes that it holds are those of the context there (R345, R350). -/
def Core.putCtx (k : Core) (n : CoreId) (c : Fin 4) (v : SavedCtx) : Core :=
  let x := { v.ctx with heldPosts := v.ctx.heldPosts.map fun h =>
    { h with post := { h.post with src := { core := n, ctx := c } } } }
  { k with
    ctxs := k.ctxs.set c.val x c.isLt
    cp := Memory.place k.cp (spillArea c) 0x1000 v.spill
    cpOwner := Owners.place k.cpOwner (spillArea c) 0x1000 v.spillOwner
    seqs := v.seqs.foldl (fun a e => a.set e.1.val { ptr := e.2, owner := some c } e.1.isLt) k.seqs }

/-- The routine words of a kernel written to their places (R221, R328). -/
def Core.putRoutines (k : Core) (w : Window) (rs : List Routine) : Core :=
  { k with mx := { k.mx with
      store := w.routines.foldl (fun st r =>
        putWords st r.2.1 (((rs.find? fun q => q.entry == r.1).map (·.words)).getD [])) k.mx.store } }

/-- A core's engines with saved commands pushed behind those in their queues, in their order. -/
def Core.pushStreams (k : Core) (l : List (Fin 6 × StreamCmd)) : Core :=
  { k with engines := Vector.ofFn fun e : Fin 6 =>
      let eng := k.engines[e.val]'e.isLt
      { eng with queue := eng.queue ++ (l.filter fun q => q.1 == e).map (·.2) } }

/-- What a kernel left of a core put back on core `n`: `slots` are the numbers of its contexts in their order, `xs` the contexts with
their signals placed, `w` its new window (R54, R326 to R328). -/
def Core.restore (k : Core) (n : CoreId) (v : SavedCore) (slots : List (Fin 4)) (xs : List Ctx) (w : Window) (rs : List Routine)
    (now : Nat) : Core :=
  let f (c : Fin 4) : Fin 4 := (((v.ctxs.map (·.slot)).zip slots).find? fun p => p.1 == c).map (·.2) |>.getD c
  let saved := (v.ctxs.zip xs).map fun p => { p.1 with ctx := p.2 }
  let k1 := (slots.zip saved).foldl (fun k p => k.putCtx n p.1 p.2) k
  let k2 := { k1 with
    windows := k1.windows ++ [w]
    remote := k1.remote ++ v.remotes.map fun (r : Remote) => { r with ctx := f r.ctx }
    grid := match v.grid with
      | some g => g.restored v.cycle now f
      | none => k1.grid
    mx := { k1.mx with
      afeed := (v.afeed.map fun (r : FeedRow) => { r with src := (f r.src.1, r.src.2) }) ++ k1.mx.afeed
      resumed := k1.mx.resumed ++ v.calls.map fun (r : MxCall) => r.restored v.cycle now f }
    plane := Memory.place k1.plane w.plBase w.plSize v.plane
    plLines := k1.plLines.filter (fun (l : Nat × Fin 4 × Nat) => !decide (w.plBase / 8192 ≤ l.1 ∧ l.1 < (w.plBase + w.plSize) / 8192))
      ++ v.plLines.map fun (l : Nat × Fin 4 × Nat) => (l.1 + w.plBase / 8192, f l.2.1, l.2.2)
    cp := Memory.place k1.cp w.wbase (w.imgEnd + 32) v.cp
    cpOwner := Owners.place k1.cpOwner w.wbase (w.imgEnd + 32) v.cpOwner }
  ((k2.pushStreams (v.streams.map fun (q : Fin 6 × StreamCmd) => (q.1, { q.2 with ctx := f q.2.ctx }))).putRows (v.rows.map fun (r : Nat × AccRow) =>
    (r.1, { r.2 with caller := r.2.caller.map fun c => (if c.2 = w.kid then f c.1 else c.1, c.2) }))).putRoutines w rs

/-- The fault of a result, if it is one. -/
def faultOf {α : Type} (e : Except UnitFault α) : Option UnitFault :=
  match e with
  | .ok _ => none
  | .error f => some f

/-- The first fault of the row item that list entry `i` of a command yields (R313). -/
def State.entryFault (s : State) (n : CoreId) (q : StreamCmd) (i first : Nat) : Option UnitFault :=
  match s.listEntry n q i with
  | .error f => some f
  | .ok ((row, _), _) =>
    if q.kind = .sscatter && row == .zero then none
    else (List.range ((recOf q.rec1).itemUnits - first)).findSome? fun e => faultOf (s.rowUnit n q row i (first + e) none)

/-- The fault that a stream or Yarrow command meets at its resume point (R313, R329). -/
def State.pointFault (s : State) (n : CoreId) (q : StreamCmd) : Option UnitFault :=
  let r := recOf q.rec1
  let x := s.ctx (q.ctxId n)
  let src (j e : Nat) : Option UnitFault := faultOf (s.unitSrc n q.ctx r q.a.toNat (q.ix.getD []) j e none)
  match q.kind with
  | .sload => (List.range r.winUnits).findSome? fun e => src q.j e
  | .sstore => faultOf (s.unitDest n x.dom r q.a.toNat (q.ix.getD []) q.j q.e none)
  | .sloadPl => src q.j q.e
  | .scopy => (src q.j q.e).orElse fun _ => faultOf (s.copyDest n q)
  | .sgather | .sscatter => s.entryFault n q q.j q.e
  | .sreduce => (List.range q.count).findSome? fun i => s.entryFault n q i 0

/-- A suspended command of a restored context retries at once: when it meets no translation fault it works again and its
pending fault is discarded (R329). -/
def State.retryRestored (s : State) (n : CoreId) (e : Fin 6) (i : Nat) : State :=
  let eng := s.engine n e
  match eng.queue[i]? with
  | none => s
  | some q =>
    if q.susp.isSome && !(s.pointFault n q).any (fun f => isTranslationFault f.1) then
      (s.onCore n fun k => { k with
        engines := k.engines.set e.val { eng with queue := eng.queue.set i { q with susp := none } } e.isLt }).onCtx
        (q.ctxId n) fun x => { x with faults := x.faults.filter fun f => f.id != q.id }
    else s

/-- The suspended commands of a core's restored contexts retry (R329). -/
def State.retryAll (s : State) (n : CoreId) (cs : List (Fin 4)) : State :=
  (List.finRange 6).foldl (fun s e =>
    (List.range (s.engine n e).queue.length).foldl (fun s i =>
      if ((s.engine n e).queue[i]?).any fun q => cs.contains q.ctx then s.retryRestored n e i else s) s) s

/-! ### When a kernel can be saved (R326, R327, R350) -/

/-- The contexts of a kernel. -/
def State.ctxsOf (s : State) (kid : Nat) : List CtxId := allCtxs.filter fun c => (s.ctx c).live && (s.ctx c).kid == kid

/-- Whether a core's engines are quiet for a kernel: no write of a command is outstanding, no copy has a unit still to write, its
matrix calls and routine loads are over or suspended; and of the grid's commands all or none are the kernel's, or its `grun` stands at
their head, stopped (R184, R327). -/
def Core.quietFor (k : Core) (kid : Nat) : Bool :=
  let mine (c : Fin 4) : Bool := (k.ctxs[c.val]'c.isLt).live && (k.ctxs[c.val]'c.isLt).kid == kid
  k.engines.all (fun e => !e.sent.any (fun q => mine q.ctx)
      && !e.current.any fun q => mine q.ctx && (q.kind == .scopy || q.kind == .sloadPl) && !q.reqs.isEmpty)
    && !k.mx.queue.any (fun i => i.kid == kid) && !k.mx.run.any (fun r => r.item.kid == kid)
    && !k.mx.loading.any (fun l => l.1.kid == kid) && !k.mx.effects.any (fun e => e.kid == kid)
    && (k.grid.users.all mine || !k.grid.users.any mine || k.grid.run.any fun r => mine r.ctx)

/-- Whether a context can be taken: between two bundles, with no access outstanding and no rerun to complete; a stopped one keeps the
fault of an access for the bundle that it resumes at (R322, R326, R338, R350). -/
def Ctx.takeable (x : Ctx) : Bool :=
  !x.ended && x.read.isNone && (x.readFault.isNone || x.stopped) && !x.closing && x.trapWait.isNone && !x.inRerun && x.retiring.isNone
    && !x.stall

/-- Whether the contexts of a kernel can be taken: each between two bundles, nothing in flight, engines quiet. -/
def State.quiet (s : State) (kid : Nat) : Bool :=
  (s.ctxsOf kid).all (fun c => (s.ctx c).takeable && (s.core c.core).quietFor kid) && !s.posted.any fun p => p.kid == kid

/-- A running call of a context that is to be taken, stalled in its pass or `wt`, is suspended (R230). -/
def State.suspendCalls (s : State) (kid : Nat) : State :=
  (s.ctxsOf kid).foldl (fun s c =>
    let k := s.core c.core
    if s.quiescing c && k.mxStalled && k.mx.run.any (fun r => r.item.kid == kid && r.item.ctx == c.ctx) then
      s.onMx c.core fun m => { m with run := none, away := m.away ++ m.run.toList }
    else s) s

/-- The cores of a kernel's contexts of one die with the places that stand on them, each once. -/
def State.coresOf (s : State) (kid die : Nat) : List (CoreId × Nat) :=
  ((s.ctxsOf kid).filter fun c => (s.ctx c).die == die).foldl (fun l c =>
    let p := (c.core, (s.ctx c).place)
    if l.contains p then l else l ++ [p]) []

/-- What pre-emption saves of a kernel: a list for each of its dies (R328). -/
def State.savedOf (s : State) (kid : Nat) : List (List SavedCore) :=
  let dies := ((s.ctxsOf kid).map fun c => (s.ctx c).die).foldl max 0
  (List.range (dies + 1)).map fun j => (s.coresOf kid j).map fun p => s.saveCore p.1 kid p.2

/-- The bytes of a save image that have a layout (R328). -/
def imageSize (l : List (List SavedCore)) : Nat := ((l.flatten).map (·.size)).sum

/-- A kernel saved and taken off its cores, to wait ahead of its queue's records from this cycle on (R47, R328). -/
def State.saveKernel (s : State) (kid : Nat) : State :=
  let places := (List.range 80)
  let saved := s.savedOf kid
  let s1 := { s with
    cores := s.cores.map fun k => k.dropKernel kid places
    kernels := s.kernels.map fun k => if k.kid = kid then { k with saved := saved, since := s.cycle, raised := 0 } else k }
  match s.kernel? kid with
  | none => s1
  | some k => s1.setQueue k.queue { s1.queue k.queue with waiting := (s1.queue k.queue).waiting ++ [kid] }

/-- Every context of a kernel is to be taken (R47). -/
def State.beginPreempt (s : State) (kid : Nat) : State :=
  (s.ctxsOf kid).foldl (fun s c => s.onCtx c fun x => { x with leaving := true }) s

end Sys2Proof.Machine
end

