-- ==== Sys2Proof/Machine/Placement.lean ====
section
/-! DEFINITION. Launch queues, the placement unit, the completion of kernels, and the posting of launch records (R33 to R36, R46,
R47, R52 to R54, R95, R100, R165, R216, R221, R271, R274 to R277, R335, R337, R344). An event whose condition does not hold leaves
the state as it is. -/

namespace Sys2Proof.Machine

/-! ### Launch queues (R274, R275) -/

/-- How many records wait between HEAD and TAIL (R274). -/
def Queue.count (q : Queue) : Nat := (q.tail - q.head).toNat

/-- The number of records that a ring holds (R274). -/
def Queue.size (q : Queue) : Nat := 2 ^ q.rsize.toNat

/-- The address of record `i` (R274). -/
def Queue.slot (q : Queue) (i : BitVec 32) : Word := q.rbase + BitVec.ofNat 64 (64 * (i.toNat % q.size))

/-- Whether a queue has a record that waits at the head of its ring, the queue not stopped (R46, R335). -/
def Queue.waits (q : Queue) : Bool := q.head != q.tail && !q.stop

/-- The effective level of a queue whose head has risen by so many levels (R46). -/
def Queue.effective (q : Queue) (raised : Nat) : Nat := min 23 (q.level.toNat + raised)

/-- A queue whose head record is a new one, or is to be read and checked anew (R46, R275, R335). -/
def Queue.renewed (q : Queue) : Queue := { q with since := none, raised := 0, got := [], record := none }

/-- DETAIL of a launch-queue record: reason, queue, record index (R335). -/
def queueDetail (reason : Nat) (q : BitVec 7) (i : BitVec 32) : Word :=
  BitVec.ofNat 8 reason ++ 0#17 ++ q ++ i

/-- A record of a launch queue to its domain: SOURCE 7, CORE 0, CTX 0, EPC 0 (R335). -/
def State.postQueue (s : State) (d : DomNum) (cause : BitVec 8) (detail : Word) : State :=
  s.post d (recordWord cause d 0 0 7 0 false 0) detail

/-- A queue stops on a fault (R335). -/
def State.stopQueue (s : State) (q : BitVec 7) (cause : BitVec 8) (reason : Nat) : State :=
  let v := s.queue q
  (s.setQueue q { v.renewed with stop := true }).postQueue v.dom cause (queueDetail reason q v.head)

/-- How many levels a wait since a cycle has raised a head, one at a time (R46). -/
def raisedBy (now since raised : Nat) : Nat := if raised < (now - since) / 2 ^ 20 then raised + 1 else raised

/-- The record of a queue as it waits: it begins to when it is the head, and each full 2^20 cycles raise it by one; behind a pre-empted
kernel it is not the head (R46, R47). -/
def Queue.aged (q : Queue) (now : Nat) : Queue :=
  if q.waits then
    if q.waiting ≠ [] then { q with since := none, raised := 0 }
    else match q.since with
    | none => { q with since := some now, raised := 0 }
    | some t => { q with raised := raisedBy now t q.raised }
  else q.renewed

/-- `AGING`: the head of a queue begins to wait, and each full 2^20 cycles of its waiting raise its level by one; a pre-empted kernel
counts from its own pre-emption (R46, R47). -/
def execAging (q : BitVec 7) (s : State) : Out :=
  let v := s.queue q
  let s1 := if v.aged s.cycle = v then s else s.setQueue q (v.aged s.cycle)
  .next (if v.waiting = [] then s1
    else { s1 with kernels := s1.kernels.map fun k =>
      if v.waiting.contains k.kid then { k with raised := raisedBy s.cycle k.since k.raised } else k })

/-! ### Launch records (R275, R276) -/

/-- Whether a record's reserved fields are 0 and NARG is at most 3. -/
def recordOk (b : List Byte) : Bool :=
  decide (imgField b 3 1 < 2) && imgField b 4 12 == 0 && decide (imgField b 32 1 ≤ 3) && imgField b 33 7 == 0

/-- The fields of a record. -/
def launchRecOf (b : List Byte) : LaunchRec :=
  { obj := BitVec.ofNat 16 (imgField b 0 2), kidx := BitVec.ofNat 8 (imgField b 2 1), notify := imgField b 3 1 % 2 == 1,
    done := BitVec.ofNat 64 (imgField b 16 8), seqn := BitVec.ofNat 64 (imgField b 24 8),
    args := (List.range (imgField b 32 1)).map fun i => BitVec.ofNat 64 (imgField b (40 + 8 * i) 8) }

/-- A head record that has been read checked in the order of R276: the reason of its refusal, or the record (R335). -/
def State.checkRecord (s : State) (d : DomNum) (b : List Byte) : Except Nat LaunchRec :=
  if !recordOk b then .error 2
  else
    let r := launchRecOf b
    match s.object? r.obj with
    | none => .error 3
    | some o => if o.dom ≠ d then .error 3 else if o.kernels.length ≤ r.kidx.toNat then .error 4 else .ok r

/-- The bytes of a record from its words that have been read, `none` while one is missing. -/
def Queue.recordBytes (q : Queue) : Option (List Byte) :=
  if (List.range 8).all fun i => q.got.any fun w => w.1 == i then some ((List.range 8).flatMap fun i => listed [] q.got i)
  else none

/-- Word `i` of the head record read: a read that fails in translation refuses the record, and one that meets a poisoned block
stops the queue as well, with code 0x84 (R276, R335, R349; DESIGN CHOICE, log entry 35). -/
def State.readWord (s : State) (q : BitVec 7) (i : Nat) : State :=
  let v := s.queue q
  if v.stop || v.got.any fun w => w.1 == i then s
  else match s.vaRead v.dom (v.slot v.head + BitVec.ofNat 64 (8 * i)) 8 with
    | .ok b => s.setQueue q { v with got := v.got ++ [(i, b)] }
    | .error (c, d) =>
      if c = 0x84 then (s.setQueue q { v.renewed with stop := true }).postQueue v.dom 0x84 d else s.stopQueue q 0x62 5

/-- Whether the head record of a ring was posted by a kernel that has been aborted (R337). -/
def Queue.orphaned (v : Queue) : Bool := v.producers.any fun p => p.1 == v.head && p.2 == 0

/-- A record that has become the head of its ring is read, each aligned word at a time of its own, and checked once, when all of it
has been read (R275, R276); one that is to be discarded is not (R337). -/
def State.readHead (s : State) (q : BitVec 7) : State :=
  let v := s.queue q
  if v.waits && v.record.isNone && !v.orphaned && v.since.any fun t => decide (t < s.cycle) then
    if v.got.isEmpty && !v.en then s.stopQueue q 0x62 1
    else
      let s1 := (List.range 8).foldl (fun s i => if s.readyAt (8 + i) then s.readWord q i else s) s
      let u := s1.queue q
      match u.recordBytes with
      | none => s1
      | some b =>
        match s1.checkRecord u.dom b with
        | .error reason => s1.stopQueue q 0x62 reason
        | .ok r => s1.setQueue q { u with record := some r }
  else s

/-! ### Spatial points (R33, R34, R35, R38) -/

/-- The product of the extents of a kind of level. -/
def extentOf (loops : Vector Level 6) (kind : BitVec 8) : Nat :=
  product ((loops.toList.filter fun l => l.kind == kind).map fun l => l.extent.toNat)

/-- S_die and S_core. -/
def spatial (loops : Vector Level 6) : Nat × Nat := (extentOf loops 3, extentOf loops 2)

/-- The coordinates of a spatial point (j, i): the highest-numbered level varies fastest (R34). -/
def pointCoord (loops : Vector Level 6) (j i : Nat) : Vector (BitVec 32) 6 :=
  let step (a : Vector (BitVec 32) 6 × Nat × Nat) (l : Fin 6) : Vector (BitVec 32) 6 × Nat × Nat :=
    let v := loops[l.val]'l.isLt
    let (co, j, i) := a
    if v.kind = 3 then (co.set l.val (BitVec.ofNat 32 (j % v.extent.toNat)) l.isLt, j / v.extent.toNat, i)
    else if v.kind = 2 then (co.set l.val (BitVec.ofNat 32 (i % v.extent.toNat)) l.isLt, j, i / v.extent.toNat)
    else a
  (([5, 4, 3, 2, 1, 0] : List (Fin 6)).foldl step (Vector.replicate 6 0, j, i)).1

/-- NCOORD of every level (R38). -/
def extents (loops : Vector Level 6) : Vector (BitVec 32) 6 := loops.map fun l => if l.kind = 0 then 1 else l.extent

/-- How many points of a die stand at place `r` = i mod 80 (R35). -/
def pointsAt (ncore r : Nat) : Nat := (ncore + 79 - r) / 80

/-! ### Room on a core (R54, R100, R216, R221, R344) -/

/-- What a kernel needs of each core that it stands on. -/
structure Needs where
  /-- the bytes of each planned signal of a context, in their order (R54) -/
  sigs : List Nat
  imgEnd : Nat
  walign : Nat
  plane : Nat
  palign : Nat
  routines : List Routine
  /-- bytes of one shadow copy but for the contexts, and for each context; none for a kernel without `ckpt` (R344) -/
  shadow : Option (Nat × Nat)
  deriving DecidableEq, Repr

/-- The bytes of a planned signal's slots (R54). -/
def Plan.bytes (p : Plan) : Nat := p.nslots * p.rows * 256

/-- Whether a bundle of a code image holds `ckpt`, from word `i` on (R344). `fuel` bounds the bundles. -/
def usesCkpt (code : List Lane) : Nat → Nat → Bool
  | 0, _ => false
  | fuel + 1, i =>
    match code[i]? with
    | none => false
    | some h =>
      let hd := headerOf h
      let at3 := i + 1 + ((List.range 3).filter fun j => hd.pres.getLsbD j).length
      (hd.pres.getLsbD 3 && (code[at3]?).any (fun w => opOf w == 0x06)) || usesCkpt code fuel (i + max 1 hd.words)

/-- What a kernel of an object needs (R54, R99, R100, R216, R221, R344). -/
def Object.needs (o : Object) (k : BitVec 8) : Needs :=
  let im := (o.kernels[k.toNat]?).getD { code := [], plan := [], loops := Vector.replicate 6 {} }
  { sigs := im.plan.map Plan.bytes, imgEnd := o.imgEnd k.toNat,
    walign := (o.cpImages k.toNat).foldl (fun a c => max a c.align) 4096, plane := o.planeRegion k.toNat,
    palign := (o.planeImages k.toNat).foldl (fun a c => max a c.align) 8192,
    routines := o.routines k,
    shadow := if usesCkpt im.code im.code.length 0 then
        some (1184 * 1024, 2048 + (im.plan.map fun p => p.nslots * (p.rows * 256 + 32)).sum)
      else none }

/-- A free place of `size` bytes among used ranges, below `limit`; which of the places is a free choice (R100, R216; log
entry 15). -/
def freePlace (used : List (Nat × Nat)) (size align limit draw : Nat) : Option Nat :=
  let starts := (0 :: used.map fun u => alignUp (u.1 + u.2) align).filter fun a =>
    decide (a + size ≤ limit) && !used.any fun u => overlaps a size u.1 u.2
  starts[draw % starts.length]?

/-- The bases of routines one after another (R221). -/
def routineBases : Nat → List Routine → List (BitVec 5 × Nat × Nat)
  | _, [] => []
  | a, r :: rs => (r.entry, a, r.words.length) :: routineBases (a + r.words.length) rs

/-- The window of a kernel at a place, on a core with room for it and its `c` contexts there (R28, R35, R100, R216, R221, R344). -/
def Core.window (k : Core) (kid place c : Nat) (n : Needs) (draw : Nat) : Option Window :=
  let cp := k.windows.map fun w => (w.wbase, w.imgEnd + 32)
  let pl := k.windows.flatMap fun w => [(w.plBase, w.plSize), (w.shadowBase, w.shadowSize)]
  let rt := k.windows.flatMap fun w => w.routines.map fun r => r.2
  let words := (n.routines.map (·.words.length)).sum
  let shadow := match n.shadow with
    | none => 0
    | some (a, b) => 2 * alignUp (a + c * b) 16384
  match freePlace cp (n.imgEnd + 32) n.walign 0x3C000 draw, freePlace pl n.plane n.palign (24 * 2 ^ 20) draw,
      freePlace rt words 1 256 draw with
  | some wb, some pb, some rb =>
    match freePlace ((pb, n.plane) :: pl) shadow 8192 (24 * 2 ^ 20) draw with
    | none => none
    | some sb =>
      some { kid := kid, place := place, wbase := wb, imgEnd := n.imgEnd, plBase := pb, plSize := n.plane,
             routines := routineBases rb n.routines, shadowBase := sb, shadowSize := shadow }
  | _, _, _ => none

/-- The ranges of the signal store that the signals of a core's contexts take (R54). -/
def Core.sigRanges (k : Core) : List (Nat × Nat) :=
  (k.ctxs.toList.filter (·.live)).flatMap fun x => (x.sigs.toList.filterMap id).map fun g => (g.base, g.plan.bytes)

/-- Places in the 4 MiB signal store for signals of these sizes, each contiguous from a 256-byte boundary (R54). -/
def placeSigs (used : List (Nat × Nat)) (draw : Nat) : List Nat → Option (List Nat)
  | [] => some []
  | n :: r =>
    match freePlace used n 256 (4096 * 1024) draw with
    | none => none
    | some a => (placeSigs ((a, n) :: used) draw r).map fun l => a :: l

/-- A signal table with the first bytes of its signals, in ascending signal number (R54). -/
def basedSigs (sigs : Vector (Option Signal) 64) (bases : List Nat) : Vector (Option Signal) 64 :=
  Vector.ofFn fun i : Fin 64 =>
    (sigs[i.val]'i.isLt).map fun g => { g with base := bases.getD (((sigs.toList.take i.val).filterMap id).length) 0 }

/-- A context with the first bytes of its signals, in its shadow copies as well (R54). -/
def Ctx.based (x : Ctx) (bases : List Nat) : Ctx :=
  let move (h : Shadow) : Shadow := { h with sigs := basedSigs h.sigs bases }
  { x with sigs := basedSigs x.sigs bases, shadow0 := x.shadow0.map move, shadow1 := x.shadow1.map move }

/-- Contexts with places for their signals among the used ranges of a signal store (R54). -/
def placeCtxs (draw : Nat) : List (Nat × Nat) → List Ctx → Option (List Ctx)
  | _, [] => some []
  | used, x :: r =>
    let sizes := (x.sigs.toList.filterMap id).map fun g => g.plan.bytes
    match placeSigs used draw sizes with
    | none => none
    | some l => (placeCtxs draw (l.zip sizes ++ used) r).map fun xs => x.based l :: xs

/-- The free contexts of a core; a retired core has none (R347). -/
def Core.freeCtxs (k : Core) : List (Fin 4) :=
  if k.retired then [] else (List.finRange 4).filter fun c => !(k.ctxs[c.val]'c.isLt).live

/-- Whether a core has signal store, window and plane room for these contexts of a kernel (R54, R100, R216, R221). -/
def Core.hasRoom (k : Core) (xs : List Ctx) (n : Needs) (draw : Nat) : Bool :=
  (placeCtxs draw k.sigRanges xs).isSome && (k.window 0 0 xs.length n draw).isSome

/-! ### The choice of dies, clusters and contexts (R35) -/

/-- One candidate for each item, all different: the first in the order tried; `none` when there is no such choice. -/
def assign (ok : Nat → Nat → Bool) : List Nat → List Nat → Option (List (Nat × Nat))
  | [], _ => some []
  | g :: gs, cands =>
    cands.findSome? fun c => if ok g c then (assign ok gs (cands.erase c)).map fun l => (g, c) :: l else none

/-- A core by die, cluster of the die and position (R6, R7). -/
def coreAt (die cl p : Nat) : CoreId := ⟨(80 * die + 4 * cl + p) % 320, Nat.mod_lt _ (by decide)⟩

/-- Where a kernel goes: for each of its dies the clusters of its groups, as (j, (die, [(group, cluster)])). -/
abbrev Places := List (Nat × Nat × List (Nat × Nat))

/-- The clusters of a die for the groups of a kernel: `ok j r k` says that core `k` takes the contexts of place `r` of the
kernel's die `j`. -/
def State.clustersOf (s : State) (j die ncore : Nat) (ok : Nat → Nat → Core → Bool) : Option (List (Nat × Nat)) :=
  let groups := (List.range 20).filter fun g => pointsAt ncore (4 * g) != 0
  assign (fun g cl => (List.range 4).all fun p =>
      pointsAt ncore (4 * g + p) == 0 || ok j (4 * g + p) (s.core (coreAt die cl p)))
    groups (rotated (List.range 20) s.pick)

/-- A placement of a kernel's points, when there is one (R35). -/
def State.findPlaces (s : State) (ndie ncore : Nat) (ok : Nat → Nat → Core → Bool) : Option Places :=
  match assign (fun j die => (s.clustersOf j die ncore ok).isSome) (List.range ndie) (rotated (List.range 4) s.pick) with
  | none => none
  | some l => some (l.map fun (j, die) => (j, die, (s.clustersOf j die ncore ok).getD []))

/-- The cores of a placement with the kernel's die and place that each takes. -/
def coresOfPlan (ncore : Nat) (p : Places) : List (Nat × Nat × CoreId) :=
  p.flatMap fun (j, die, gs) => gs.flatMap fun (g, cl) =>
    ((List.range 4).filter fun i => pointsAt ncore (4 * g + i) != 0).map fun i => (j, 4 * g + i, coreAt die cl i)

/-! ### Placing a record (R36, R54, R95, R216, R277) -/

/-- The bytes of images in a byte store. -/
def putImages (m : Memory) (base : Nat) (l : List (Nat × List Byte)) : Memory :=
  l.foldl (fun m p => Memory.setBytes m (base + p.1) p.2) m

/-- The arguments of a launch, 0 beyond NARG (R100, R277). -/
def argBytes (args : List Word) : List Byte := padTo 24 (args.flatMap fun a => leBytes 8 a.toNat)

/-- A core on which the loader has made a kernel's window, images, arguments and plane region, and has written the spill areas of
its contexts (R36, R100, R216, R258, R277). The values of the bytes between images and of the spill areas are not stated: they are
handed over (log entry 5). -/
def Core.loadKernel (k : Core) (o : Object) (kidx key : Nat) (args : List Word) (w : Window) (slots : List (Fin 4)) : Core :=
  let imgs := placedFrom 0 (o.cpImages kidx)
  let ab := argBytes args
  let blank := slots.foldl (fun a c => Owners.place a (spillArea c) 0x1000 []) (Owners.place k.cpOwner w.wbase (w.imgEnd + 32) [])
  { k with
    windows := k.windows ++ [w]
    cp := Memory.setBytes (putImages k.cp w.wbase imgs) (w.wbase + w.imgEnd) ab
    cpOwner := Owners.setN (imgs.foldl (fun a p => Owners.setN a (w.wbase + p.1) p.2.length key) blank)
      (w.wbase + w.imgEnd) ab.length key
    plane := putImages (Memory.clear k.plane w.plBase w.plSize) w.plBase (placedFrom 0 (o.planeImages kidx))
    plLines := k.plLines.filter fun l => !decide (w.plBase / 8192 ≤ l.1 ∧ l.1 < (w.plBase + w.plSize) / 8192) }

/-- The signal table that the loader fills (R54). -/
def sigTable (plan : List Plan) : Vector (Option Signal) 64 :=
  plan.foldl (fun v p => v.set p.sig.toNat (some (Signal.init p)) p.sig.isLt) (Vector.replicate 64 none)

/-- A context at its creation (R38, R45, R54, R57, R95). -/
def newCtx (kid : Nat) (d : DomNum) (prio : BitVec 5) (im : KImage) (j i : Nat) : Ctx :=
  { live := true, kid := kid, dom := d, prio := prio, die := j, point := i, coord := pointCoord im.loops j i,
    ncoord := extents im.loops, sigs := sigTable im.plan }

/-- Contexts put into a core. -/
def Core.putNew (k : Core) (l : List (Fin 4 × Ctx)) : Core :=
  l.foldl (fun k p => { k with ctxs := k.ctxs.set p.1.val p.2 p.1.isLt }) k

/-- The contexts that a new kernel has at a place of its die `j` (R35, R38). -/
def newCtxs (kid : Nat) (d : DomNum) (prio : BitVec 5) (im : KImage) (ncore j place : Nat) : List Ctx :=
  (List.range (pointsAt ncore place)).map fun t => newCtx kid d prio im j (place + 80 * t)

/-- Whether a core takes the contexts of a new kernel at a place of its die `j`: free contexts, and room (R35, R54, R100, R216,
R221). -/
def Core.takesNew (k : Core) (kid : Nat) (d : DomNum) (prio : BitVec 5) (im : KImage) (n : Needs) (j place draw : Nat) : Bool :=
  let xs := newCtxs kid d prio im (spatial im.loops).2 j place
  decide (xs.length ≤ k.freeCtxs.length) && k.hasRoom xs n draw

/-- A kernel of a record made at its places (R35, R36, R40, R277). -/
def State.makeKernel (s : State) (q : BitVec 7) (r : LaunchRec) (o : Object) (im : KImage) (p : Places) : State :=
  let v := s.queue q
  let n := o.needs r.kidx
  let ncore := (spatial im.loops).2
  let kid := s.kidSeq
  let put (s : State) (a : Nat × Nat × CoreId) : State :=
    let (j, place, c) := a
    let new := newCtxs kid v.dom v.level im ncore j place
    s.onCore c fun k =>
      match k.window kid place new.length n s.pick, placeCtxs s.pick k.sigRanges new with
      | some w, some xs =>
        let slots := (rotated k.freeCtxs s.pick).take new.length
        (k.loadKernel o r.kidx.toNat (s.domain v.dom).key r.args w slots).putNew (slots.zip xs)
      | _, _ => k
  let s1 := (coresOfPlan ncore p).foldl put s
  { s1 with
    kidSeq := kid + 1, cmdSeq := s1.cmdSeq + 1
    kernels := s1.kernels ++
      [{ kid := kid, obj := r.obj, kidx := r.kidx, dom := v.dom, queue := q, recIdx := v.head, prio := v.level,
         args := r.args, done := r.done, seqn := r.seqn, notify := r.notify, order := s1.cmdSeq, aborted := false,
         saved := [] }] }

/-- A record or pre-empted kernel has been placed: its queue has been served, and the unit chooses anew (R46). Only a placement
counts as serving for the round-robin, not a record refused or discarded (DESIGN CHOICE, log entry 49). -/
def State.served (s : State) (q : BitVec 7) (v : Queue) : State :=
  { s.setQueue q v with lastQueue := q, chosen := none }

/-- The record at the head leaves the ring, and the queue returns to its configured level (R46, R275). -/
def Queue.advance (v : Queue) : Queue :=
  { v.renewed with head := v.head + 1, producers := v.producers.filter fun p => p.1 != v.head }

/-! ### Producers (R52, R53, R271) -/

/-- Whether a context has triggered, and every write ordered before that has performed (R52, R271). -/
def State.triggerDone (s : State) (c : CtxId) : Bool :=
  let x := s.ctx c
  let k := s.core c.core
  let before (id : Nat) : Bool := decide (id < x.trigAt)
  x.triggered
    && !s.posted.any (fun p => p.src == c && p.kid == x.kid && before p.id)
    && !k.remote.any (fun r => r.ctx == c.ctx && before r.id)
    && !(k.streamsOf c.ctx).any (fun q => q.kind.writesMemory && before q.id)

/-- Whether the contexts that pre-emption has taken of a kernel have triggered, and none of their commands ordered before that
writes still (R52, R271). -/
def SavedCore.triggerDone (v : SavedCore) : Bool :=
  v.ctxs.all fun c =>
    let before (x : Fin 4) (id : Nat) : Bool := x == c.slot && decide (id < c.ctx.trigAt)
    c.ctx.triggered && !v.remotes.any (fun r => before r.ctx r.id)
      && !v.streams.any fun q => q.2.kind.writesMemory && before q.2.ctx q.2.id

/-- Whether a producing kernel allows its dependant: every context has triggered or been released, and the writes ordered before
that have performed (R52, R271). -/
def State.producerDone (s : State) (kid : Nat) : Bool :=
  match s.kernel? kid with
  | none => true
  | some k =>
    k.saved.flatten.all SavedCore.triggerDone && (s.ctxsOf kid).all s.triggerDone
      && !s.posted.any fun p => p.kid == kid && !p.late && !((s.ctx p.src).live && (s.ctx p.src).kid == kid)

/-! ### Pre-emption (R47) -/

/-- Whether the save pool of a kernel's domain has room for its image (R328; log entry 34). -/
def State.poolHolds (s : State) (k : Kernel) : Bool :=
  Config.savePoolHolds k.dom (((s.kernels.filter fun m => m.dom == k.dom).map fun m => imageSize m.saved)).sum
    (imageSize (s.savedOf k.kid))

/-- The kernel to pre-empt for a record of an effective level: PRIO below it, room for its image, the lowest PRIO first, and among
those the most recently placed (R47, R328). -/
def State.victim (s : State) (eff : Nat) : Option Nat :=
  let best (b : Option Kernel) (k : Kernel) : Option Kernel :=
    if k.saved.isEmpty && !k.aborted && decide (k.prio.toNat < eff) && !(s.ctxsOf k.kid).isEmpty && s.poolHolds k then
      match b with
      | none => some k
      | some m => if k.prio < m.prio ∨ (k.prio = m.prio ∧ m.order < k.order) then some k else b
    else b
  (s.kernels.foldl best none).map (·.kid)

/-- Pre-emption for want of free contexts: it begins with the next victim, if there is one (R47). -/
def State.preempt (s : State) (eff ndie ncore : Nat) : State :=
  if (s.findPlaces ndie ncore fun _ r k => decide (pointsAt ncore r ≤ k.freeCtxs.length)).isSome then s
  else match s.victim eff with
    | none => s
    | some kid => s.beginPreempt kid

/-! ### Serving a queue (R46) -/

/-- The producer for which a queue's head record still waits (R52). -/
def State.producerWaits (s : State) (v : Queue) : Bool :=
  (v.producers.find? fun p => p.1 == v.head).any fun p => p.2 != 0 && !s.producerDone p.2

/-- A checked record at the head: it is refused against R33, is placed, or waits for room (R33, R46, R47, R335). -/
def State.serveRecord (s : State) (q : BitVec 7) (r : LaunchRec) (o : Object) (im : KImage) : State :=
  let v := s.queue q
  let (nd, nc) := spatial im.loops
  let n := o.needs r.kidx
  if 4 < nd ∨ 320 < nc then s.stopQueue q 0x63 1
  else match s.findPlaces nd nc fun j i k => k.takesNew s.kidSeq v.dom v.level im n j i s.pick with
    | some p => (s.makeKernel q r o im p).served q v.advance
    | none => s.preempt (v.effective v.raised) nd nc

/-- What a kernel left of a core put on core `m`, which has room for it; suspended commands retry (R54, R100, R326 to R329). -/
def State.putSaved (s : State) (m : CoreId) (kid : Nat) (v : SavedCore) (n : Needs) : State :=
  let k := s.core m
  match k.window kid v.place v.ctxs.length n s.pick, placeCtxs s.pick k.sigRanges (v.ctxs.map (·.ctx)) with
  | some w, some xs =>
    let slots := (rotated k.freeCtxs s.pick).take v.ctxs.length
    (s.setCore m (k.restore m v slots xs w n.routines s.cycle)).retryAll m slots
  | _, _ => s

/-- A pre-empted kernel placed again: every core takes what it left, and suspended commands retry (R47, R68, R73, R326 to
R329). -/
def State.restoreKernel (s : State) (k : Kernel) (o : Object) (ncore : Nat) (p : Places) : State :=
  let n := o.needs k.kidx
  let saved (j place : Nat) : Option SavedCore := ((k.saved[j]?).getD []).find? fun v => v.place == place
  let put (s : State) (a : Nat × Nat × CoreId) : State :=
    match saved a.1 a.2.1 with
    | none => s
    | some v =>
      s.putSaved a.2.2 k.kid v n
  let s1 := (coresOfPlan ncore p).foldl put s
  { s1 with
    cmdSeq := s1.cmdSeq + 1
    kernels := s1.kernels.map fun m => if m.kid = k.kid then { m with saved := [], order := s1.cmdSeq } else m }

/-- Whether a core takes what a kernel left of another: contexts, room, the numbers of its sequence entries, the grid when the kernel
holds one, and room for its A rows with none there of a kernel that stands on the core (R73, R178, R184). -/
def Core.takes (k : Core) (v : Option SavedCore) (n : Needs) (draw : Nat) : Bool :=
  match v with
  | none => true
  | some v =>
    decide (v.ctxs.length ≤ k.freeCtxs.length) && k.hasRoom (v.ctxs.map (·.ctx)) n draw
      && v.ctxs.all (fun c => c.seqs.all fun e => (k.seqs[e.1.val]'e.1.isLt).owner.isNone)
      && (v.grid.isNone || (k.grid.users.isEmpty && k.grid.queue.isEmpty && k.grid.idle))
      && (v.afeed.isEmpty || (decide (v.afeed.length + k.mx.afeed.length ≤ 16)
        && !k.mx.afeed.any fun r => k.ctxs.any fun x => x.live && x.kid == r.kid))

/-- A pre-empted kernel at the head of its queue (R47). -/
def State.serveWaiting (s : State) (q : BitVec 7) (k : Kernel) (o : Object) (im : KImage) : State :=
  let v := s.queue q
  let (nd, nc) := spatial im.loops
  let n := o.needs k.kidx
  let saved (j place : Nat) : Option SavedCore := ((k.saved[j]?).getD []).find? fun v => v.place == place
  match s.findPlaces nd nc fun j r c => c.takes (saved j r) n s.pick with
  | some p => (s.restoreKernel k o nc p).served q { v with waiting := v.waiting.filter (· != k.kid), since := none, raised := 0 }
  | none => s.preempt (v.effective k.raised) nd nc

/-- The record of a queue served: one of an aborted producer is discarded, and one whose object is gone is refused (R46, R335, R337;
log entry 35). -/
def State.serveHead (s : State) (q : BitVec 7) : State :=
  let v := s.queue q
  if v.orphaned then { s.setQueue q v.advance with chosen := none }
  else match v.record with
    | none => { s with chosen := none }
    | some r =>
      if s.producerWaits v then { s with chosen := none }
      else match s.object? r.obj with
        | none => s.stopQueue q 0x62 3
        | some o =>
          match o.kernels[r.kidx.toNat]? with
          | none => s.stopQueue q 0x62 3
          | some im => s.serveRecord q r o im

/-- The chosen head served: a pre-empted kernel of its queue, or its record (R46, R47). -/
def State.serve (s : State) (q : BitVec 7) (kid : Option Nat) : State :=
  match kid with
  | none => s.serveHead q
  | some kid =>
    match s.kernel? kid with
    | none => { s.setQueue q { s.queue q with waiting := (s.queue q).waiting.filter (· != kid) } with chosen := none }
    | some k =>
      match s.object? k.obj, s.image? k with
      | some o, some im => s.serveWaiting q k o im
      | _, _ => s

/-- The head that a queue offers, with its effective level: its earliest pre-empted kernel, or its record once it has been read and
checked and no producer holds it, or is to be discarded (R46, R47, R52, R275, R276). -/
def State.offer (s : State) (q : BitVec 7) : Option (Option Nat × Nat) :=
  let v := s.queue q
  match v.waiting with
  | kid :: _ => some (some kid, v.effective (((s.kernel? kid).map (·.raised)).getD 0))
  | [] =>
    if v.waits && (v.orphaned || (v.record.isSome && !s.producerWaits v)) then some (none, v.effective v.raised) else none

/-- The head that the placement unit chooses: the highest effective level, round-robin after the queue served last (R46). -/
def State.choose? (s : State) : Option (BitVec 7 × Option Nat) :=
  let order := (List.range 128).map fun i => s.lastQueue + 1 + BitVec.ofNat 7 i
  let heads := order.filterMap fun q => (s.offer q).map fun o => (q, o)
  let top := heads.foldl (fun m h => max m h.2.2) 0
  (heads.find? fun h => h.2.2 == top).map fun h => (h.1, h.2.1)

/-- Whether what has been chosen can still be served: its queue still has it (R46, R335, R337). -/
def State.stillChosen (s : State) (c : BitVec 7 × Option Nat) : Bool :=
  match c.2 with
  | some kid => (s.queue c.1).waiting.contains kid
  | none => (s.queue c.1).waits && (s.queue c.1).record.isSome

/-- What the placement unit serves: what it has chosen, until that is placed, and otherwise a new choice (R46). A record that waits
for its producer is not kept chosen (DESIGN CHOICE, log entry 49). -/
def State.serveNext (s : State) : State :=
  match s.chosen.filter s.stillChosen with
  | some c => s.serve c.1 c.2
  | none =>
    match s.choose? with
    | none => { s with chosen := none }
    | some c => { s with chosen := some c }.serve c.1 c.2

/-- The kernel whose contexts pre-emption is taking. -/
def State.leaving? (s : State) : Option Nat :=
  ((allCtxs.find? fun c => (s.ctx c).live && (s.ctx c).leaving)).map fun c => (s.ctx c).kid

/-- `LAUNCH_PLACEMENT`: head records are read; a kernel being taken is saved once it is quiet; otherwise the placement unit serves
what it has chosen (R46, R47, R275, R276, R326, R327). -/
def execLaunchPlacement (s : State) : Out :=
  .next (
    if s.bootst ≠ 1 then s
    else
      let s := ((List.range 128).map (BitVec.ofNat 7)).foldl State.readHead s
      match s.leaving? with
      | some kid =>
        let s1 := s.suspendCalls kid
        if s1.quiet kid then s1.saveKernel kid else s1
      | none => s.serveNext)

/-! ### Completion (R40, R277) -/

/-- The reason of fault 0x66 for a completion write that fails (R335); a walk that meets a poisoned entry has reason 4 (DESIGN CHOICE,
log entry 35). -/
def doneReason (cause : BitVec 8) : Nat :=
  if cause = 0x50 ∨ cause = 0x53 then 1
  else if cause = 0x51 ∨ cause = 0x52 then 2
  else if cause = 0x54 ∨ cause = 0x55 then 3
  else if cause = 0x57 then 5 else 4

/-- What a completed kernel signals: MSI-X of its queue, when it asks for it (R277). -/
def Kernel.vector (k : Kernel) : Option (BitVec 7) := if k.notify then some k.queue else none

/-- The end of a kernel: SEQN is written to DONE as a `gst` of the domain performing at `sys`, and MSI-X is signalled. When the write
fails, the signal follows the record 0x66 (R277, R335). A port that is down counts as an error of the host (DESIGN CHOICE, log
entry 35). -/
def State.writeDone (s : State) (k : Kernel) : State :=
  let signal (s : State) : State := { s with msix := s.msix ++ (k.vector.map BitVec.toNat).toList }
  let fails (reason : Nat) : State :=
    { s with monq := s.monq ++ [{ dom := k.dom, w0 := recordWord 0x66 k.dom 0 0 7 0 false 0,
                                  w1 := queueDetail reason k.queue k.recIdx, notify := k.vector }] }
  if k.done = 0 then signal s
  else match s.translate none k.dom k.done 8 0x54 Need.write with
    | .error c => fails (doneReason c)
    | .ok pa =>
      if s.linkDown pa || (paHost pa && s.pick % 2 == 1) then fails 4
      else signal (s.devWrite (s.domain k.dom).key pa (leBytes 8 k.seqn.toNat))

/-- A kernel is over: its windows are free and it is no longer known. -/
def State.forgetKernel (s : State) (kid : Nat) : State :=
  { s with
    kernels := s.kernels.filter fun k => k.kid != kid
    cores := s.cores.map fun k => { k with windows := k.windows.filter fun w => w.kid != kid } }

/-- Whether a matrix call of a kernel runs or has effects that are still to land (R337). -/
def State.arrayBusy (s : State) (kid : Nat) : Bool :=
  s.cores.any fun k => k.mx.run.any (fun r => r.item.kid == kid) || k.mx.effects.any fun e => e.kid == kid

/-- The record that ABORT writes once everything else of the kernel is over (R337). -/
def State.abortRecord (s : State) (k : Kernel) : State :=
  match k.record with
  | some (w0, w1) => s.post k.dom w0 w1
  | none => s

/-- `KERNEL_COMPLETE`: every context is free and every write has performed at `sys`: SEQN is written to DONE and MSI-X
signalled; an aborted kernel writes and signals nothing, and the record of its ABORT follows (R40, R277, R337). -/
def execKernelComplete (k : Nat) (s : State) : Out :=
  .next (match s.kernel? k with
    | none => s
    | some v =>
      if !v.saved.isEmpty || !(s.ctxsOf k).isEmpty || s.posted.any (fun p => p.kid == k) then s
      else if v.aborted then (if s.arrayBusy k then s else (s.abortRecord v).forgetKernel k)
      else (s.writeDone v).forgetKernel k)

/-! ### Posting by `launch` (R165, R275, R276) -/

/-- The head of a posting queue leaves it: the `launch` performs (R152, R165). -/
def State.launchPerformed (s : State) (c : CtxId) (r : LaunchReq) : State :=
  (s.onCtx c fun x => { x with posting := x.posting.drop 1 }).performed c r.kp r.id

/-- A `launch` is refused: it posts nothing, and its fault is held (R306, R331, R335). -/
def State.launchFault (s : State) (c : CtxId) (r : LaunchReq) (cause : BitVec 8) (detail : Word) : State :=
  (s.launchPerformed c r).hold c { id := r.id, kp := r.kp, cause := cause, source := 3, unit := 0, detail := detail }

/-- `LAUNCH_POST`: the head of a context's posting queue waits for the context's earlier stores and for room in the ring, is
checked, and copies its record into slot TAIL (R165, R275, R276, R331, R335). While the ring is full it reads and checks its record
anew each time, and posts the bytes read last (DESIGN CHOICE, log entry 49). A rerun posts nothing that its interval has posted before
(DEDUCED from R346, log entry 40). -/
def execLaunchPost (c : CtxId) (s : State) : Out :=
  let x := s.ctx c
  .next (match x.posting with
    | [] => s
    | r :: _ =>
      let v := s.queue r.queue
      let refuse (reason : Nat) : State := s.launchFault c r 0x65 (queueDetail reason r.queue v.tail)
      let inInterval : Bool := x.ckpting && decide (x.epoch ≤ r.id)
      if s.posted.any fun p => p.kind.isStore && p.src == c && p.kid == x.kid && decide (p.id < r.id) then s
      else if inInterval && x.launched then s.launchPerformed c r
      else if !v.en || !v.src then refuse 1
      else if v.dom ≠ x.dom then refuse 2
      else match s.vaRead x.dom r.addr 64 with
        | .error (cause, d) => s.launchFault c r cause d
        | .ok b =>
          if !recordOk b then refuse 3
          else if v.count = v.size then s
          else match s.vaWrite v.dom (v.slot v.tail) b with
            | .error (cause, d) => s.launchFault c r cause d
            | .ok s1 =>
              ((s1.setQueue r.queue { v with tail := v.tail + 1, producers := v.producers ++ [(v.tail, x.kid)] }).launchPerformed c r).onCtx c fun y =>
                { y with launched := y.launched || inInterval })

/-! ### TAIL and STOP (R274, R275, R335) -/

/-- `TAIL_WRITE`: of a host-fed queue; an overrun stops the queue and is ignored; TAIL of a device-fed queue is read only (R274,
R275, R335). -/
def execTailWrite (q : BitVec 7) (v : BitVec 32) (s : State) : Out :=
  let u := s.queue q
  .next (if s.bootst ≠ 1 || u.src then s
    else if u.size < (v - u.head).toNat then s.stopQueue q 0x64 0
    else s.setQueue q { u with tail := v })

/-- `STOP_CLEAR`: the head record is checked again (R274, R335). -/
def execStopClear (q : BitVec 7) (s : State) : Out :=
  .next (if s.bootst ≠ 1 || !(s.queue q).stop then s else s.setQueue q { (s.queue q).renewed with stop := false })

end Sys2Proof.Machine
end

