-- ==== Sys2Proof/Machine/Tenants.lean ====
section
/-! DEFINITION. The mailbox commands of domains, queues and contexts, invalidation, and domain reset (R98, R251 to R256, R274,
R281, R282, R285, R323 to R325, R337). -/

namespace Sys2Proof.Machine

/-! ### Range entries and roots (R250 to R253) -/

/-- Whether the monitor admits a range entry: reserved bits and codes 0, an interleave of R235, SPAN 0 outside the package, PBASE
aligned to S and G, no stack exceeded, and, where it is valid, bounds on page boundaries (R250 to R252). -/
def rangeOk (e : RangeEntry) : Bool :=
  let a := e.attr.toNat
  let g := 2 ^ (8 + field a 15 12)
  let sp := 2 ^ field a 11 8
  let pb := e.pbase.toNat
  let off := pb % 2 ^ 48
  let o := e.vlimit.toNat - e.vbase.toNat
  let top := off + o / g / sp * g + (if o / g % sp = 0 then o % g else g - 1)
  field a 63 16 == 0 && field a 7 5 == 0 && decide (field a 15 12 ≤ 9 ∧ field a 11 8 ≤ 3)
    && (field a 0 0 == 0
      || (e.vbase.toNat % 4096 == 0 && e.vlimit.toNat % 4096 == 4095 && decide (e.vbase.toNat < e.vlimit.toNat)))
    && decide (pb < 2 ^ 52) && off % g == 0
    && (if paExt pb then sp == 1 && pb / 2 ^ 48 % 8 == 0 && decide (off + o < 2 ^ 48)
        else pb / 2 ^ 48 % 8 % sp == 0 && decide (top < 0x165A0BC000))

/-- Whether an address can be a page-table root: a table's frame, of a store that is not reserved (R250, R253). -/
def rootOk (r : Word) : Bool :=
  r.toNat % 4096 == 0 && decide (r.toNat < 2 ^ 52) && !(paExt r.toNat && r.toNat / 2 ^ 48 % 8 != 0)

/-- Range entries written over others. -/
def putRanges (v : Vector RangeEntry 64) (l : List (BitVec 6 × RangeEntry)) : Vector RangeEntry 64 :=
  l.foldl (fun v p => v.set p.1.toNat p.2 p.1.isLt) v

/-- Device memory that range entries and a page table give to a domain: the monitor has written every byte of it that another domain wrote
last, with values that are not stated (R258; log entry 5). -/
def State.handOver (s : State) (d : DomNum) (entries : List RangeEntry) (root : Option Word) : State :=
  let pages := (root.map fun r => s.tableLeaves 0 4 r.toNat).getD []
  let given (pa : Nat) : Bool := entries.any (rangeReaches · pa) || pages.any fun p => decide (p.2.1 ≤ pa ∧ pa < p.2.1 + p.2.2)
  { s with memOwner := s.memOwner.filter fun o => o.2 == (s.domain d).key || !given o.1 }

/-! ### CREATE (R257, R258, R285, R323) -/

/-- The range entries of a domain that has none. -/
def noRanges : Vector RangeEntry 64 := Vector.replicate 64 { vbase := 0, vlimit := 0, pbase := 0, attr := 0 }

/-- The creation parameters as they are measured (R284). -/
def specBytes (d : DomainSpec) : List Byte :=
  let entry (e : RangeEntry) : List Byte := [e.vbase, e.vlimit, e.pbase, e.attr].flatMap fun w => leBytes 8 w.toNat
  leBytes 1 d.dom.toNat ++ leBytes 8 d.root.toNat ++ d.ranges.flatMap (fun p => leBytes 1 p.1.toNat ++ entry p.2)
    ++ leBytes 1 d.signed.toNat ++ d.digests.flatMap (fun k => leBytes 48 k.toNat)
    ++ leBytes 8 d.fqAddr.toNat ++ leBytes 1 d.fqSize.toNat ++ d.windows.flatMap (leBytes 2)

/-- The bytes of the HDM range (R26, R272). -/
def hdmSize : Nat := 768 * 10 ^ 9

/-- Whether the operands of CREATE are in range: the domain free, entries and root admitted, at most four digests, FQSIZE 2 to
16, windows of the HDM range that no other domain holds (R272, R285, R323). -/
def State.specOk (s : State) (d : DomainSpec) : Bool :=
  !(s.domain d.dom).live && d.ranges.all (fun p => rangeOk p.2) && rootOk d.root && decide (d.digests.length ≤ 4)
    && decide (2 ≤ d.fqSize.toNat ∧ d.fqSize.toNat ≤ 16)
    && d.windows.all fun w => decide (w * 2 ^ 30 < hdmSize) && !s.domains.toList.any fun e => e.live && e.windows.contains w

/-- The header of a fault queue at creation (R323). -/
def fqHeader (size : BitVec 8) : List Byte := leBytes 8 0 ++ [size] ++ leBytes 7 0

/-- A measurement recorded (R284). -/
def State.measure (s : State) (i : BitVec 8) (v : BitVec 384) : State :=
  { s with measures := s.measures.filter (fun m => m.1 != i) ++ [(i, v)] }

/-- A domain created, with new keys, its fault queue empty and its parameters measured (R257, R284, R285, R323). -/
def State.newDomain (s : State) (d : DomainSpec) : State :=
  let s1 := (s.setDomain d.dom
    { live := true, key := s.keySeq, ranges := putRanges noRanges d.ranges, root := d.root, signed := d.signed,
      digests := d.digests, fqAddr := d.fqAddr, fqSize := d.fqSize, windows := d.windows }).measure
        (16 + d.dom.setWidth 8) (Config.sha384 (specBytes d))
  { s1 with keySeq := s.keySeq + 1 }

/-- `CREATE` (R285). -/
def execCreate (spec : DomainSpec) (s : State) : Out :=
  sessionMailbox (fun s =>
    if s.specOk spec then
      match ((s.newDomain spec).handOver spec.dom (spec.ranges.map (·.2)) (some spec.root)).vaWrite spec.dom spec.fqAddr (fqHeader spec.fqSize) with
      | .ok s1 => s1.answer 0
      | .error _ => s.answer 5
    else s.answer 5) s

/-! ### Domain reset (R337) -/

/-- A context ended at once: what it had in flight, parked, pending and held is discarded (R337). -/
def Ctx.kill (x : Ctx) (cycle : Nat) : Ctx :=
  { x with
    toBlock := { x.toBlock with
      land := [], parked := [], trapped := false, stopped := false, triggered := true, outer := {}, inner := {},
      pOuter := {}, pInner := {}, rstk := [], spilled := 0, delay := .none, bdone := false }
    ended := true, endedAt := cycle, halting := false, faults := [], hold := [], heldPosts := [], posting := [], read := none,
    readFault := none, tick := none, trigs := [], wait := none, syncSeen := none, syncAt := none, gacqAt := none,
    stall := false, leaving := false, rerunning := false, retiring := none, xfer := .none, jump := none, admitted := false,
    trapWait := none, closing := false }

/-- A grid that stops for an ended context: results in flight and remaining iterations are discarded, and ownership is released
(R308, R337). -/
def Grid.stopFor (g : Grid) (c : Fin 4) : Grid := (g.dropCtx c).ownAs c false

/-- A context of a core ended by a domain reset: its commands are withdrawn; a running matrix call goes on to the end of its
micro-operation (R337). -/
def Core.kill (k : Core) (c : Fin 4) (cycle : Nat) : Core :=
  let k1 := (k.dropSeqs c).withdrawStreams c
  { k1 with
    ctxs := k1.ctxs.set c.val ((k1.ctxs[c.val]'c.isLt).kill cycle) c.isLt
    remote := k1.remote.filter fun r => r.ctx != c
    grid := k1.grid.stopFor c
    mx := { k1.mx with
      queue := k1.mx.queue.filter fun m => m.ctx != c
      resumed := k1.mx.resumed.filter fun r => r.item.ctx != c
      away := k1.mx.away.filter fun r => r.item.ctx != c
      loading := k1.mx.loading.filter fun m => m.1.ctx != c } }

/-- A kernel ended by ABORT or DESTROY, with the launches that it posted; the units of its stream commands that have not performed
never do (R337). -/
def State.killKernel (s : State) (kid : Nat) : State :=
  let s1 := (s.ctxsOf kid).foldl (fun s c => s.onCore c.core fun k => k.kill c.ctx s.cycle) s
  { s1 with
    posted := s1.posted.filter fun p => !(p.kid == kid && p.eng.isSome)
    kernels := s1.kernels.map fun k => if k.kid = kid then { k with aborted := true, saved := [] } else k
    queues := s1.queues.map fun q =>
      { q with waiting := q.waiting.filter (· != kid)
               producers := q.producers.map fun p => if p.2 = kid then (p.1, 0) else p } }

/-- A stopped context of a domain, as CTXGET, RESUME and ABORT name it (R324). -/
def State.stoppedIn (s : State) (d : DomNum) (c : CtxId) : Bool :=
  s.hasDomain d && (s.ctx c).live && (s.ctx c).stopped && (s.ctx c).dom == d

/-- The record that ABORT of a context leaves to be written when all of its kernel's work is over (R337). -/
def abortWords (dom : DomNum) (c : CtxId) (k : Kernel) : Word × Word :=
  (recordWord 0xA1 dom (BitVec.ofNat 2 c.ctx.val) (BitVec.ofNat 9 c.core.val) 7 0 false 0, queueDetail 0 k.queue k.recIdx)

/-- `ABORT`: every context of the kernel ends, and a record 0xA1 follows once its work is over (R324, R337). -/
def execAbort (dom : DomNum) (c : CtxId) (s : State) : Out :=
  sessionMailbox (fun s =>
    if s.stoppedIn dom c then
      let kid := (s.ctx c).kid
      let s1 := s.killKernel kid
      ({ s1 with kernels := s1.kernels.map fun (k : Kernel) =>
          if k.kid = kid then { k with record := some (abortWords dom c k) } else k }).answer 0
    else s.answer 4) s

/-- `RESUME`: EPC and BTARG are written and the parked state is reinstated; never after a return-stack fault (R321, R324). -/
def execResume (dom : DomNum) (c : CtxId) (epc btarg : Word) (s : State) : Out :=
  sessionMailbox (fun s =>
    if s.stoppedIn dom c then
      let x := s.ctx c
      if x.cause = 0x13 ∨ x.cause = 0x14 then s.answer 5
      else (s.setCtx c (x.resume epc btarg)).answer 0
    else s.answer 4) s

/-- `CTXGET`: the context block is written to memory of the domain (R324, R325). -/
def execCtxget (dom : DomNum) (c : CtxId) (addr : Word) (s : State) : Out :=
  sessionMailbox (fun s =>
    if s.stoppedIn dom c then
      match s.vaWrite dom addr (s.blockBytes c) with
      | .ok s1 => s1.answer 0
      | .error _ => s.answer 5
    else s.answer 4) s

/-- `DESTROY`: the domain's queues are disabled and their records discarded, its kernels end; the keys go when all of its
work is over (R285, R337). -/
def execDestroy (dom : DomNum) (s : State) : Out :=
  sessionMailbox (fun s =>
    if s.hasDomain dom then
      let s1 : State := { s with queues := s.queues.map fun (q : Queue) =>
        if q.dom = dom then { q.renewed with en := false, head := q.tail, producers := [] } else q }
      let s2 := (s1.kernels.filter fun k => k.dom == dom).foldl (fun (s : State) k => s.killKernel k.kid) s1
      s2.setDomain dom { s2.domain dom with dying := true }
    else s.answer 4) s

/-- A core of which nothing is a domain's any more: translations, rows, grid, A rows (R169, R219, R255, R258). -/
def Core.forgetDomain (k : Core) (d : DomNum) : Core :=
  { k with
    acc := k.acc.map fun a => if a.dom = some d then { a with dom := none } else a
    ranges := k.ranges.filter fun x => x.dom != d
    pages := k.pages.filter fun x => x.dom != d
    grid := { k.grid with
      dom := if k.grid.dom = some d then none else k.grid.dom
      queue := k.grid.queue.filter fun q => q.op != .clear d }
    mx := { k.mx with afeed := k.mx.afeed.filter fun r => r.dom != d } }

/-- The end of a DESTROY, once no kernel of the domain is left and no write of it is in flight: its objects, fault records,
measurement and keys go, nothing on a core is its any more, and the command is done (R257, R282, R285, R337). -/
def State.finishDestroy (s : State) (d : DomNum) : State :=
  let v := s.domain d
  if v.dying && !s.kernels.any (fun k => k.dom == d) && !s.posted.any (fun p => p.dom == d) then
    ({ s.setDomain d {} with
      cores := s.cores.map fun (k : Core) => k.forgetDomain d
      objects := s.objects.filter fun o => o.dom != d
      monq := s.monq.filter fun r => r.dom != d
      measures := s.measures.filter fun m => m.1 != 16 + d.setWidth 8 }).answer 0
  else s

/-! ### Translations (R251, R253, R256) -/

/-- `MAP`: range entries and the page-table root are written, and the memory that they give is handed over; until an invalidation performs,
an access may still use what they replace (R251, R253, R256, R258, R282). -/
def execMap (dom : DomNum) (entries : List (BitVec 6 × RangeEntry)) (root : Option Word) (s : State) : Out :=
  sessionMailbox (fun s =>
    if s.hasDomain dom then
      if entries.all (fun p => rangeOk p.2) && root.all rootOk then
        let v := s.domain dom
        ((s.setDomain dom { v with
          ranges := putRanges v.ranges entries
          root := root.getD v.root
          stale := (v.ranges, v.root) :: v.stale }).handOver dom (entries.map (·.2)) root).answer 0
      else s.answer 5
    else s.answer 4) s

/-- `INVAL`: an invalidation begins; a translation read before it is older than the number it takes (R256, R282). The command is answered
as it begins, not when it has performed (DESIGN CHOICE, log entry 7). -/
def execInval (dom : DomNum) (s : State) : Out :=
  sessionMailbox (fun s =>
    if s.hasDomain dom then ((s.setDomain dom { s.domain dom with inval := some (s.cmdSeq + 1) }).bump).answer 0
    else s.answer 4) s

/-- Whether a context of a domain has an access whose translation is older than a number: one whose value it waits for, or one that
it holds (R256). -/
def Ctx.oldAccess (x : Ctx) (d : DomNum) (n : Nat) : Bool :=
  x.dom == d && (x.read.any (fun r => decide (r.born < n)) || x.hold.any (fun h => decide (h.born < n))
    || x.heldPosts.any fun h => decide (h.post.born < n))

/-- Whether an engine's command has units to read, or goes on, under a translation of a domain older than a number (R255, R256). -/
def StreamCmd.oldRun (q : StreamCmd) (d : DomNum) (n : Nat) : Bool :=
  let old (x : Option Xlat) : Bool := x.any fun x => x.dom == d && decide (x.born < n)
  old q.run || old q.run2 || old q.runIx

/-- Whether an access translated under an older mapping of a domain has still to perform (R256). -/
def State.oldAccess (s : State) (d : DomNum) (n : Nat) : Bool :=
  s.posted.any (fun p => p.dom == d && decide (p.born < n))
    || allCtxs.any (fun c => (s.ctx c).live && (s.ctx c).oldAccess d n)
    || s.kernels.any (fun k => k.saved.flatten.any fun v => v.ctxs.any fun c => c.ctx.oldAccess d n)
    || s.cores.any fun k => k.engines.any fun e => e.current.any fun q =>
        q.oldRun d n || ((k.ctxs[q.ctx.val]'q.ctx.isLt).dom == d && q.reqs.any fun r => decide (r.born < n))

/-- `INVALIDATION_PERFORM`: every access translated under an older mapping has performed, and no cache holds a translation of the
domain any more (R256). -/
def execInvalidationPerform (dom : DomNum) (s : State) : Out :=
  let v := s.domain dom
  .next (match v.inval with
    | none => s
    | some n =>
      if s.oldAccess dom n then s
      else { s.setDomain dom { v with inval := none, stale := [] } with
        cores := s.cores.map fun (k : Core) =>
          { k with ranges := k.ranges.filter fun x => x.dom != dom, pages := k.pages.filter fun x => x.dom != dom } })

/-! ### Queues, power, slot tables -/

/-- The records of a queue that is given to another domain: they carry their own, and are discarded, each with code 0xA0 in the log and a
record to its domain (R336; DESIGN CHOICE, log entry 36: that a record is found as the queue changes hands). -/
def State.strayRecords (s : State) (q : BitVec 7) (d : DomNum) : State :=
  let v := s.queue q
  if v.dom = d then s
  else
    let ids := (List.range (v.tail - v.head).toNat).map fun i => v.head + BitVec.ofNat 32 i
    let s1 := s.setQueue q { v.renewed with head := v.tail, producers := [] }
    if (s.domain v.dom).live then
      ids.foldl (fun s i => { s with log := s.log ++ [(v.dom, d)] }.postQueue v.dom 0xA0 (queueDetail 0 q i)) s1
    else s1

/-- The SYS fields of a queue block (R274). -/
def Queue.configured (q : Queue) (c : QueueCfg) : Queue :=
  { q with
    rbase := c.rbase, en := c.word1.getLsbD 63, src := c.word1.getLsbD 62, dom := c.word1.extractLsb' 56 6
    level := c.word1.extractLsb' 51 5, rsize := c.word1.extractLsb' 47 4 }

/-- Whether the operands of QCFG are admitted: no reserved bit or code, and the ring aligned to its size (R274, R282). -/
def cfgOk (c : QueueCfg) : Bool :=
  c.word1.extractLsb' 0 47 == 0 && decide ((c.word1.extractLsb' 51 5).toNat ≤ 23)
    && decide (4 ≤ (c.word1.extractLsb' 47 4).toNat)
    && c.rbase.toNat % (64 * 2 ^ (c.word1.extractLsb' 47 4).toNat) == 0

/-- `QCFG` (R274, R282, R336). -/
def execQcfg (q : BitVec 7) (cfg : QueueCfg) (s : State) : Out :=
  sessionMailbox (fun s =>
    if !cfgOk cfg then s.answer 5
    else if !s.hasDomain (cfg.word1.extractLsb' 56 6) then s.answer 4
    else
      let s1 := s.strayRecords q (cfg.word1.extractLsb' 56 6)
      (s1.setQueue q ((s1.queue q).configured cfg)).answer 0) s

/-- `POWER`: PLIM, 1,200 W to 2,400 W (R281, R282). -/
def execPower (plim : BitVec 32) (s : State) : Out :=
  sessionMailbox (fun s =>
    if 1200 ≤ plim.toNat ∧ plim.toNat ≤ 2400 then ({ s with plim := plim }).answer 0 else s.answer 5) s

/-- The 16 entries of a SLOTTAB value over those of a half of a table (R98). -/
def putSlots (t : Vector (BitVec 3) 32) (v : Word) (half : Bool) : Vector (BitVec 3) 32 :=
  Vector.ofFn fun i : Fin 32 =>
    if decide (16 ≤ i.val) == half then v.extractLsb' (3 * (i.val % 16)) 3 else t[i.val]'i.isLt

/-- Whether a SLOTTAB value has no reserved bit or code (R44, R98, R282). -/
def slotsOk (v : Word) : Bool :=
  v.extractLsb' 48 14 == 0 && (List.range 16).all fun i => decide ((v.extractLsb' (3 * i) 3).toNat ≤ 4)

/-- `SLOT`: a half of the slot table is staged; the second half stages the mode and lets the whole take effect (R44, R98,
R282). -/
def execSlot (n : CoreId) (v : Word) (s : State) : Out :=
  sessionMailbox (fun s =>
    if !slotsOk v then s.answer 5
    else
      let k := s.core n
      let half := v.getLsbD 62
      (s.setCore n { k with
        staged := putSlots k.staged v half
        half := half
        stagedStrict := if half then v.getLsbD 63 else k.stagedStrict
        stagedAt := if half then some s.cycle else k.stagedAt }).answer 0) s

/-- `MAILBOX_OPCODE_REFUSED`: an opcode that no table names is refused with status 5 (R282). -/
def execMailboxOpcodeRefused (op : BitVec 32) (s : State) : Out :=
  mailbox (fun s => if 1 ≤ op.toNat ∧ op.toNat ≤ 0x0C then s else s.answer 5) s

end Sys2Proof.Machine
end

