-- ==== Sys2Proof/Machine/HostPort.lean ====
section
/-! DEFINITION. The host port: BAR0, CXL.mem, SPDM, start-up, power, device links, errors of host accesses, and the posting of
fault records (R268, R272, R273, R278 to R281, R283, R284, R322, R323, R338, R339). An event whose condition does not hold leaves
the state as it is. -/

namespace Sys2Proof.Machine

/-! ### BAR0 (R273, R274, R278, R279, R282) -/

/-- The header of a capability entry: NEXT, VER 1, ID (R278, R279). -/
def capHeader (next id : Nat) : List Byte := [BitVec.ofNat 8 id, 1] ++ leBytes 2 next

/-- The eight bytes of a port; the peer fields read 0 unless it is up (R279). -/
def Port.bytes (p : Port) : List Byte :=
  if p.state = 2 then [p.state, p.peerPort] ++ leBytes 2 p.peerPart.toNat ++ leBytes 4 0 else p.state :: leBytes 7 0

/-- The capability list: the entries 1 to 5 one after another (R278, R279; log entry 20). -/
def State.capBytes (s : State) : List Byte :=
  capHeader 0x10 1 ++ leBytes 2 0x4820 ++ [0xB0, 0xA1, 3, Config.firmwareMinor, s.bootst] ++ leBytes 5 0
    ++ capHeader 0x18 2 ++ leBytes 2 128 ++ [24, 64]
    ++ capHeader 0xA8 3 ++ leBytes 4 16 ++ leBytes 8 0xF00000000000 ++ s.ports.toList.flatMap Port.bytes
    ++ capHeader 0xC0 4 ++ leBytes 4 s.plim.toNat ++ leBytes 4 s.clk.toNat ++ leBytes 8 s.throt.toNat
    ++ leBytes 4 s.nRetired.toNat
    ++ capHeader 0 5 ++ leBytes 2 Config.doeInstance.toNat ++ [0x13, 0]

/-- The 32 bytes of a launch-queue block (R274). -/
def Queue.bytes (q : Queue) : List Byte :=
  let w1 : Word := BitVec.ofBool q.en ++ BitVec.ofBool q.src ++ q.dom ++ q.level ++ q.rsize ++ 0#47
  leBytes 8 q.rbase.toNat ++ leBytes 8 w1.toNat ++ leBytes 8 q.tail.toNat
    ++ leBytes 8 (q.head.toNat + 2 ^ 32 * q.stop.toNat)

/-- Whether the mailbox is still at a command: a DESTROY (R282, R285). Every other command is over within its event. -/
def State.mailboxBusy (s : State) : Bool := s.domains.any (·.dying)

/-- A byte of BAR0 as the host reads it; the start word reads 1 until the monitor has written the status (R273, R282). -/
def State.barByte (s : State) (off : Nat) : Byte :=
  if off < 0x1000 then s.capBytes.getD off 0
  else if off = 0x1000 then (if s.mailboxBusy then 1 else 0)
  else if 0x1004 ≤ off ∧ off < 0x1008 then (leBytes 4 s.mbStatus.toNat).getD (off - 0x1004) 0
  else if 0x10000 ≤ off ∧ off < 0x11000 then (s.queue (BitVec.ofNat 7 ((off - 0x10000) / 32))).bytes.getD (off % 32) 0
  else 0

/-- `REGISTER_WRITE`: a location without a behaviour of its own, reserved or read only, ignores the write (R273, R274, R279). -/
def execRegisterWrite (_off : BitVec 17) (_v : BitVec 32) (s : State) : Out := .next s

/-! ### CXL.mem (R268, R272) -/

/-- The domain to which the 1 GiB window of an address of the HDM range is bound (R26, R272). -/
def State.windowOwner (s : State) (addr : Word) : Option DomNum :=
  if hdmSize ≤ addr.toNat then none
  else ((List.range 64).map (BitVec.ofNat 6)).find? fun d =>
    (s.domain d).live && (s.domain d).windows.contains (addr.toNat / 2 ^ 30)

/-- An answer to the host. -/
def State.reply (s : State) (r : HostResp) : State := { s with hostOut := s.hostOut ++ [r] }

/-- `CXL_MEM_READ`: translated under the domain of its window, with R; refused, or meeting a poisoned block, it returns
poison; an unbound window reads as zeros (R268, R272, R349). -/
def execCxlMemRead (addr : Word) (len : BitVec 7) (s : State) : Out :=
  .next (if s.bootst ≠ 1 then s
    else match s.windowOwner addr with
      | none => s.reply (.data (List.replicate len.toNat 0))
      | some d =>
        match s.vaRead d addr len.toNat with
        | .ok b => s.reply (.data b)
        | .error _ => s.reply .poison)

/-- The physical bytes of fault-queue headers that the host cannot write: PROD, FQSIZE and the reserved ones (R323). -/
def State.headerFixed (s : State) : List Nat :=
  ((List.range 64).map (BitVec.ofNat 6)).flatMap fun d =>
    let v := s.domain d
    if v.live then
      (match s.vaRange d Need.read v.fqAddr 16 with
       | .error _ => []
       | .ok ps =>
         let at0 := ps.flatMap fun p => (List.range p.2).map fun i => p.1 + i
         at0.take 4 ++ at0.drop 8)
    else []

/-- Bytes written to pieces, those of fault-queue headers ignored (R26, R323). -/
def State.hostPieces (s : State) (key : Nat) (ps : List (Nat × Nat)) (b : List Byte) : State :=
  let fixed := s.headerFixed
  let at0 := ps.flatMap fun p => (List.range p.2).map fun i => p.1 + i
  if at0.any fixed.contains then
    (at0.zip b).foldl (fun s p => if fixed.contains p.1 then s else s.devWrite key p.1 [p.2]) s
  else s.writePieces key ps b

/-- `CXL_MEM_WRITE`: translated under the domain of its window, with W; refused, or where it would leave a part of a poisoned block, it
is discarded and reported as an error; in an unbound window it is discarded; PROD and FQSIZE of a fault queue ignore it (R268, R272,
R323, R339). -/
def execCxlMemWrite (addr : Word) (data : List Byte) (s : State) : Out :=
  .next (if s.bootst ≠ 1 then s
    else match s.windowOwner addr with
      | none => s.reply .discarded
      | some d =>
        match s.vaTarget d Need.write addr data.length with
        | .ok ps => (s.hostPieces (s.domain d).key ps data).reply .written
        | .error _ => s.reply .refused)

/-- An access of the host to its own memory, which is coherent with the device's (R259, R268; log entry 39). -/
def State.hostAccess (s : State) (a : HostAccess) : State :=
  match a with
  | .store pa b => if paHost (2 ^ 51 + pa) then { s with mem := Memory.setBytes s.mem (2 ^ 51 + pa) b } else s
  | .load pa n => if paHost (2 ^ 51 + pa) then s.reply (.data (Memory.getBytes s.mem (2 ^ 51 + pa) n)) else s

/-! ### SPDM (R284; codes and order of requests: log entry 10) -/

/-- An SPDM request over DOE: allowed in a state, it is answered with its response, and otherwise with an error; nothing
answers before start-up is over (R283, R284). -/
def spdmRequest (allowed : SpdmState → Bool) (next : SpdmState → SpdmState) (code : Nat) (data : State → List Byte)
    (s : State) : Out :=
  .next (if s.bootst = 0 then s
    else if allowed s.spdm then
      { s.reply (.spdm code (data s ++ Config.spdmResponse s.draws)) with spdm := next s.spdm }
    else s.reply (.spdm 0x7F (Config.spdmResponse s.draws)))

/-- Whether the connection has been negotiated. -/
def SpdmState.open (p : SpdmState) : Bool := p == .negotiated || p == .secure

/-- `GET_VERSION`: it starts a connection anew. -/
def execGetVersion (s : State) : Out := spdmRequest (fun _ => true) (fun _ => .version) 0x04 (fun _ => []) s

/-- `GET_CAPABILITIES`. -/
def execGetCapabilities (s : State) : Out :=
  spdmRequest (· == .version) (fun _ => .capabilities) 0x61 (fun _ => []) s

/-- `NEGOTIATE_ALGORITHMS`. -/
def execNegotiateAlgorithms (s : State) : Out :=
  spdmRequest (· == .capabilities) (fun _ => .negotiated) 0x63 (fun _ => []) s

/-- `GET_DIGESTS`. -/
def execGetDigests (s : State) : Out := spdmRequest SpdmState.open id 0x01 (fun _ => []) s

/-- `GET_CERTIFICATE`. -/
def execGetCertificate (s : State) : Out := spdmRequest SpdmState.open id 0x02 (fun _ => []) s

/-- `CHALLENGE`. -/
def execChallenge (s : State) : Out := spdmRequest SpdmState.open id 0x03 (fun _ => []) s

/-- The measurements that a request names: their number for index 0, all for 255, or one (R284). -/
def State.measured (s : State) (i : BitVec 8) : List Byte :=
  if i = 0 then [BitVec.ofNat 8 s.measures.length]
  else (s.measures.filter fun m => i == 255 || m.1 == i).flatMap fun m => m.1 :: leBytes 48 m.2.toNat

/-- `GET_MEASUREMENTS`. -/
def execGetMeasurements (idx : BitVec 8) (s : State) : Out :=
  spdmRequest SpdmState.open id 0x60 (fun s => s.measured idx) s

/-- `KEY_EXCHANGE`: a session's handshake opens. -/
def execKeyExchange (s : State) : Out := spdmRequest (· == .negotiated) (fun _ => .handshake) 0x64 (fun _ => []) s

/-- `FINISH`: the session is secure. -/
def execFinish (s : State) : Out := spdmRequest (· == .handshake) (fun _ => .secure) 0x65 (fun _ => []) s

/-- `END_SESSION`. -/
def execEndSession (s : State) : Out := spdmRequest (· == .secure) (fun _ => .negotiated) 0x6C (fun _ => []) s

/-! ### Start-up (R283) -/

/-- `BOOT`: ROM is measured, then each stage that is verified, before it runs; BOOTST tells how start-up ended (R283,
R284). -/
def execBoot (firstOk monitorOk trainOk : Bool) (s : State) : Out :=
  let m (i : BitVec 8) (s : State) : State := s.measure i (Config.sha384 (Config.bootImage i.toNat))
  .next (if s.bootst ≠ 0 then s
    else
      let s1 := m 1 s
      if !firstOk then { s1 with bootst := 2 }
      else
        let s2 := m 2 s1
        if !monitorOk then { s2 with bootst := 3 }
        else
          let s3 := m 3 s2
          { s3 with bootst := if trainOk then 1 else 4 })

/-! ### Power (R281) -/

/-- The clock after a sample: halved at once above 2,600 W; lowered by a step above PLIM, to no less than 425 MHz; raised by a step
after a millisecond below PLIM − 50 W, to no more than 850 MHz (R281). That each sample lowers it once is a DESIGN CHOICE (log entry
17). -/
def State.nextClock (s : State) (avgMs avgFast : BitVec 32) : Nat × Nat :=
  let c := s.clk.toNat
  if 2600 < avgFast.toNat then (c / 2, 0)
  else if s.plim.toNat < avgMs.toNat then (if c ≤ 425 then c else max 425 (c - 25), 0)
  else if avgMs.toNat + 50 < s.plim.toNat then
    if 99 ≤ s.belowFor then (min 850 (c + 25), 0) else (c, s.belowFor + 1)
  else (c, 0)

/-- `POWER_SAMPLE`: one sample of 10 µs: averages over 1 ms and 100 µs, and the HBM idle cycles inserted (R281). -/
def execPowerSample (avgMs avgFast idle : BitVec 32) (s : State) : Out :=
  let (c, b) := s.nextClock avgMs avgFast
  .next (if s.bootst ≠ 1 then s
    else { s with clk := BitVec.ofNat 32 c, belowFor := b, throt := s.throt + idle.setWidth 64 })

/-! ### Device links (R279, R280, R338) -/

/-- A port. -/
def State.port (s : State) (p : BitVec 4) : Port := s.ports[p.toNat]'(p.isLt)

/-- A port replaced. -/
def State.setPort (s : State) (p : BitVec 4) (v : Port) : State := { s with ports := s.ports.set p.toNat v p.isLt }

/-- `LINK_PORT_UP`: the port is up, its peer one of the ports 0 to 15 (R278, R279). -/
def execLinkPortUp (port : BitVec 4) (peerPort : BitVec 8) (peerPart : BitVec 16) (s : State) : Out :=
  .next (s.setPort port { state := 2, peerPort := peerPort &&& 15, peerPart := peerPart, replays := 0 })

/-- Ports that are down and begin to train; when is the links' own doing (R279; log entry 11). -/
def State.trainPorts (s : State) : State :=
  { s with ports := Vector.ofFn fun i : Fin 16 =>
      let p := s.ports[i.val]'i.isLt
      if p.state == 0 && s.pick.testBit (8 + i.val) then { p with state := 1 } else p }

/-- The first of a command's translated units with an access still to come whose address satisfies a test, and that address. -/
def StreamCmd.unitThat (q : StreamCmd) (hit : Nat → Bool) : Option (UnitReq × Nat) :=
  q.reqs.findSome? fun r => ((r.src ++ r.dst.getD []).find? fun p => hit p.1).map fun p => (r, p.1)

/-- A command in progress of a core's engine fails at the first unit whose access, still to come, goes through a port (R338). -/
def State.failEngine (s : State) (hit : Nat → Bool) (n : CoreId) (e : Fin 6) : State :=
  match (s.engine n e).current with
  | none => s
  | some q =>
    match q.unitThat hit with
    | none => s
    | some (r, pa) => s.failUnit n e q.id r.u (0xA2, linkDetail pa)

/-- The first address of a write in flight that goes through a port. -/
def Posted.hit (p : Posted) (hit : Nat → Bool) : Option Nat :=
  match p.kind with
  | .store => if hit p.pa then some p.pa else none
  | .unit ps _ => (ps.map fun (a : Nat × Nat) => a.1).find? hit
  | _ => none

/-- The writes in flight that go through a port fail (R338). -/
def State.failPosted (s : State) (hit : Nat → Bool) : State :=
  s.posted.foldl (fun s p => match p.hit hit with
    | some pa => s.postFails p 0xA2 (linkDetail pa)
    | none => s) s

/-- A read of a context that goes through a port fails (R338). -/
def State.failRead (s : State) (hit : Nat → Bool) (c : CtxId) : State :=
  match (s.ctx c).read with
  | some r =>
    if !r.atomic && hit r.pa then s.onCtx c fun x => { x with read := none, readFault := some (0xA2, linkDetail r.pa) }
    else s
  | none => s

/-- The commands in progress of every engine of a core that go through a port fail (R338). -/
def State.failEngines (s : State) (hit : Nat → Bool) (n : CoreId) : State :=
  (List.finRange 6).foldl (fun s e => s.failEngine hit n e) s

/-- The aperture accesses to a peer that have not performed fail (R338). -/
def State.failPeer (s : State) (port : BitVec 4) : State :=
  let hit (pa : Nat) : Bool := paAperture pa && paPeer pa == port
  (List.finRange 320).foldl (fun s n => s.failEngines hit n) (allCtxs.foldl (fun s c => s.failRead hit c) (s.failPosted hit))

/-- `LINK_FLIT_CRC_FAIL`: a flit fails its CRC and is replayed; after 16 failed replays the port goes down (R338). -/
def execLinkFlitCrcFail (port : BitVec 4) (s : State) : Out :=
  let p := s.port port
  .next (if p.state ≠ 2 then s
    else if p.replays < 16 then s.setPort port { p with replays := p.replays + 1 }
    else (s.setPort port {}).failPeer port)

/-- `APERTURE_ACCESS_ARRIVAL`: a peer's access to this device's HBM, under the domain bound to the link (R268, R280). Bits 39:0 are a
virtual address of that domain; refused, a read returns poison and a write is discarded (DESIGN CHOICE, log entry 11). -/
def execApertureAccessArrival (port : BitVec 4) (addr : Word) (write : Option (List Byte)) (len : BitVec 7) (s : State) :
    Out :=
  let d := Config.linkDomain port
  let va : Word := (addr.extractLsb' 0 40).setWidth 64
  .next (if s.bootst ≠ 1 || (s.port port).state != 2 then s
    else
      let s := s.setPort port { s.port port with replays := 0 }
      match write with
      | none =>
        match s.vaRange d { r := true, ext0 := true } va len.toNat with
        | .error _ => s.reply .poison
        | .ok ps =>
          if ps.any fun p => s.poisoned p.1 p.2 then s.reply .poison
          else s.reply (.data (ps.flatMap fun p => s.devRead (s.domain d).key p.1 p.2))
      | some b =>
        match s.vaTarget d { w := true, ext0 := true } va b.length with
        | .error _ => s.reply .discarded
        | .ok ps => (s.writePieces (s.domain d).key ps b).reply .written)

/-! ### Errors of host accesses (R339) -/

/-- The host physical address of a piece, as DETAIL holds it (R339). -/
def hostDetail (pa : Nat) : Word := BitVec.ofNat 64 (pa % 2 ^ 48)

/-- The first piece in host memory of a byte range that a domain reads. -/
def State.hostPiece (s : State) (d : DomNum) (va : Word) (n : Nat) : Option Nat :=
  match s.vaRange d Need.read va n with
  | .error _ => none
  | .ok ps => (ps.find? fun p => paHost p.1).map (·.1)

/-- The read of a queue's head record, still to be completed, fails at the host: the queue stops, with code 0xA3 (R335, R339; DESIGN
CHOICE, log entry 35). -/
def State.ringFails (s : State) (q : BitVec 7) : State :=
  let v := s.queue q
  if v.waits && v.record.isNone && !v.orphaned && v.since.isSome then
    match s.hostPiece v.dom (v.slot v.head) 64 with
    | some pa => (s.setQueue q { v.renewed with stop := true }).postQueue v.dom 0xA3 (hostDetail pa)
    | none => s
  else s

/-- The read of the record of a `launch`, or the write of it to the ring, fails at the host (R165, R338, R339). -/
def State.launchFails (s : State) (c : CtxId) : State :=
  let x := s.ctx c
  match x.posting with
  | [] => s
  | r :: _ =>
    let v := s.queue r.queue
    match (s.hostPiece x.dom r.addr 64).orElse fun _ => s.hostPiece x.dom (v.slot v.tail) 64 with
    | some pa => s.launchFault c r 0xA3 (hostDetail pa)
    | none => s

/-- `HOST_ACCESS_ERROR`: an access to host memory returns poison or a completion error, and fails with 0xA3 (R338, R339). -/
def execHostAccessError (src : AccessRef) (_poison : Bool) (s : State) : Out :=
  .next (match src with
    | .read c =>
      match (s.ctx c).read with
      | none => s
      | some r =>
        if !r.atomic && paHost r.pa then
          s.onCtx c fun x => { x with read := none, readFault := some (0xA3, hostDetail r.pa) }
        else s
    | .posted k =>
      match s.posted[k]? with
      | none => s
      | some p =>
        let pas : List Nat := match p.kind with
          | .store => [p.pa]
          | .unit ps _ => ps.map fun (a : Nat × Nat) => a.1
          | _ => []
        match pas.find? paHost with
        | some pa => s.postFails p 0xA3 (hostDetail pa)
        | none => s
    | .stream n e =>
      match (s.engine n e).current with
      | none => s
      | some q =>
        match q.reqs.findSome? fun r => (r.src.find? fun p => paHost p.1).map fun p => (r, p.1) with
        | none => s
        | some (r, pa) => s.failUnit n e q.id r.u (0xA3, hostDetail pa)
    | .ring q => s.ringFails q
    | .launch c => s.launchFails c)

/-! ### Fault records (R322, R323) -/

/-- A record written into its domain's ring, when the ring has room: the record, then PROD, then MSI-X, and that of the launch queue
whose completion write it reports (R277, R322, R323). -/
def State.writeRecord (s : State) (r : FaultRec) : Option State :=
  let v := s.domain r.dom
  match s.vaRead r.dom v.fqAddr 8 with
  | .error _ => none
  | .ok h =>
    let prod := imgField h 0 4
    let cons := imgField h 4 4
    let size := 2 ^ v.fqSize.toNat
    if (prod + 2 ^ 32 - cons) % 2 ^ 32 = size then none
    else
      match s.vaWrite r.dom (v.fqAddr + BitVec.ofNat 64 (16 + 16 * (prod % size))) (leBytes 8 r.w0.toNat ++ leBytes 8 r.w1.toNat) with
      | .error _ => none
      | .ok s1 =>
        match s1.vaWrite r.dom v.fqAddr (leBytes 4 (prod + 1)) with
        | .error _ => none
        | .ok s2 => some { s2 with msix := s2.msix ++ [128 + r.dom.toNat] ++ (r.notify.map BitVec.toNat).toList }

/-- The first waiting record whose domain has room, no earlier one of the domain waiting: the state with it written, and the
records that still wait (R323). -/
def State.nextRecord (s : State) (before : List FaultRec) : List FaultRec → Option State
  | [] => none
  | r :: rest =>
    if before.any fun b => b.dom == r.dom then s.nextRecord (before ++ [r]) rest
    else match s.writeRecord r with
      | some s1 => some { s1 with monq := before ++ rest }
      | none => s.nextRecord (before ++ [r]) rest

/-- `FAULT_RECORD_POST` (R322, R323). -/
def execFaultRecordPost (s : State) : Out := .next ((s.nextRecord [] s.monq).getD s)

end Sys2Proof.Machine
end

