-- ==== Sys2Proof/Machine/Errors.lean ====
section
/-! DEFINITION. Data errors: correction, rollback and reruns, what rollback cannot repair, poisoned blocks, and the move from a
retired core (R340, R341, R346 to R349). -/

namespace Sys2Proof.Machine

/-- The code of a store in DETAIL (R348). -/
def StoreKind.code (k : StoreKind) : Nat :=
  match k with
  | .cpMem => 0
  | .signal => 1
  | .accumulator => 2
  | .plane => 3
  | .hold => 4
  | .registers => 5
  | .shadow => 6
  | .hbm _ => 7

/-- DETAIL of a data error before any rerun (R348). -/
def errorDetail (k : StoreKind) (off : BitVec 48) : Word :=
  BitVec.ofNat 64 (StoreKind.code k * 2 ^ 60 + if k = .registers then 0 else off.toNat)

/-- Whether a single-bit error of a store is corrected: SECDED, or the ECC of HBM; an entry under parity is not (R340). -/
def StoreKind.corrects (k : StoreKind) : Bool := k != .registers

/-- The kernel whose current shadow copies hold a byte of the plane store, and which copy it is (R343, R344). -/
def Core.shadowAt (k : Core) (off : Nat) : Option (Nat × Bool) :=
  (k.windows.find? fun w => decide (w.shadowBase ≤ off ∧ off < w.shadowBase + w.shadowSize)).map fun w =>
    (w.kid, decide (w.shadowSize / 2 ≤ off - w.shadowBase))

/-- Whether a plane line was written by a `sload.pl` that no rerun repeats: its context issued it before its current checkpoint, or
does not checkpoint (R349). -/
def Core.oldLine (k : Core) (line : Nat) : Bool :=
  k.plLines.any fun l =>
    let x := k.ctxs[l.2.1.val]'l.2.1.isLt
    l.1 == line && !(x.live && x.ckpting && decide (x.epoch ≤ l.2.2))

/-- The kernel whose plane region holds a byte of the plane store (R216). -/
def Core.regionAt (k : Core) (off : Nat) : Option Nat :=
  (k.windows.find? fun w => decide (w.plBase ≤ off ∧ off < w.plBase + w.plSize)).map (·.kid)

/-- Whether rollback cannot repair an error for a checkpointing context: the copy that it would restore is the one in
error, or the line in error was written by `sload.pl` before the current checkpoint (R349). -/
def Core.beyondRepair (k : Core) (x : Ctx) (store : StoreKind) (off : Nat) : Bool :=
  match store with
  | .shadow => k.shadowAt off == some (x.kid, x.cur)
  | .plane => k.regionAt off == some x.kid && k.oldLine (off / 8192)
  | _ => false

/-! ### Plane lines that the loader wrote (R216, R349) -/

/-- A plane store with a line of a region as the loader wrote it: the part of each image that lies in it, and zeros. -/
def reloadLine (m : Memory) (base line : Nat) (imgs : List (Nat × List Byte)) : Memory :=
  let lo := 8192 * line
  imgs.foldl (fun m p =>
    let a := base + p.1
    let skip := lo - a
    let part := (p.2.drop skip).take (lo + 8192 - (a + skip))
    if a + skip < lo + 8192 then Memory.setBytes m (a + skip) part else m) (Memory.clear m lo 8192)

/-- A plane line that belongs to the region of a core's kernel, rewritten from the kernel's object (R349). -/
def State.reloadPlane (s : State) (n : CoreId) (line : Nat) : State :=
  match (s.core n).windows.find? fun w => decide (w.plBase ≤ 8192 * line ∧ 8192 * line < w.plBase + w.plSize) with
  | none => s
  | some w =>
    match s.kernel? w.kid with
    | none => s
    | some kn =>
      match s.object? kn.obj with
      | none => s
      | some o => s.onCore n fun k =>
        { k with plane := reloadLine k.plane w.plBase line (placedFrom 0 (o.planeImages kn.kidx.toNat)) }

/-- The plane lines that a context's `sload.pl`s of this interval have overwritten, no earlier one among them (R349; log
entry 40). -/
def Core.linesOf (k : Core) (c : Fin 4) : List Nat :=
  let x := k.ctxs[c.val]'c.isLt
  ((k.plLines.filter fun l => l.2.1 == c && decide (x.epoch ≤ l.2.2)).map (·.1)).filter fun n => !k.oldLine n

/-! ### Rollback and reruns (R346) -/

/-- A context rolled back: the plane lines that its interval has overwritten are the loader's again, and it stands at its current
shadow (R346, R349). -/
def State.rollBack (s : State) (c : CtxId) : State :=
  let k := s.core c.core
  let x := s.ctx c
  let s1 := (k.linesOf c.ctx).foldl (fun s l => s.reloadPlane c.core l) s
  (s1.onCore c.core fun k =>
    { k with plLines := k.plLines.filter fun l => !(l.2.1 == c.ctx && decide (x.epoch ≤ l.2.2)) }).restoreShadow c

/-- The contexts of a rerun rolled back again, for its next run. -/
def State.rerunAgain (s : State) (n : CoreId) (r : Rerun) (ms : List RerunMember) : State :=
  (ms.foldl (fun s m => s.rollBack { core := n, ctx := m.ctx }) s).onCore n fun k =>
    { k with rerun := some { r with members := ms.map fun m => { m with there := false } } }

/-- A context whose pair has agreed: the notice 0x80, and it goes on at its boundary with what its second run holds (R346). -/
def State.agreed (s : State) (c : CtxId) (detail : Word) : State :=
  let x := s.ctx c
  let restored := (x.shadow.map (·.blk.pc)).getD x.pc
  (s.onCtx c fun x => { x with rerunning := false }).post x.dom
    (recordWord 0x80 x.dom (BitVec.ofNat 2 c.ctx.val) (BitVec.ofNat 9 c.core.val) 0 0 false restored) detail

/-- A context that a data error stops: 0x81 (R341, R348, R349). -/
def State.errorStop (s : State) (c : CtxId) (detail : Word) : State :=
  let x := s.ctx c
  (s.setCtx c { x with halting := false, read := none, readFault := none, trapWait := none, closing := false,
                       rerunning := false, retiring := none }).takeTrap c
    { cause := 0x81, source := 0, faddr := detail, epc := x.pc, btarg := x.pendingTarget }

/-- What the retirement of its core does to a context: one that does not checkpoint stops; one that does stands at its shadow and
waits for its move; a stopped one that checkpoints waits for its move as it stands (R322, R346, R347; log entry 40). -/
def State.retireCtx (s : State) (detail : Word) (c : CtxId) : State :=
  let x := s.ctx c
  if !x.live || x.ended || x.retiring.isSome then s
  else if x.stopped then (if x.ckpting then s.setCtx c { x with retiring := some detail } else s)
  else if !x.ckpting then s.errorStop c detail
  else (s.rollBack c).onCtx c fun x => { x with rerunning := false, retiring := some detail }

/-- A core is retired (R346, R347). -/
def State.retire (s : State) (n : CoreId) (detail : Word) : State :=
  let s1 := (List.finRange 4).foldl (fun s c => s.retireCtx detail { core := n, ctx := c }) s
  { s1.onCore n fun k => { k with retired := true, rerun := none } with
    nRetired := if (s.core n).retired then s1.nRetired else s1.nRetired + 1 }

/-- A rerun goes on once every context in it has reached its boundary: the second run, the agreement of the pair, the next
pair, or the retirement of the core (R346). -/
def State.pairTurn (s : State) (n : CoreId) : State :=
  match (s.core n).rerun with
  | none => s
  | some r =>
    let ms := (s.core n).rerunners r
    if ms.isEmpty then s.onCore n fun k => { k with rerun := none }
    else if !ms.all (·.there) then s
    else if r.run = 1 then s.rerunAgain n { r with run := 2 } ms
    else if !r.err && ms.all fun m => m.gbusy1 == m.gbusy2 && m.sig1 == m.sig2 then
      (ms.foldl (fun s m => s.agreed { core := n, ctx := m.ctx } (pairDetail r.detail r.pair)) s).onCore n fun k =>
        { k with rerun := none }
    else if r.err && decide (r.pair < 3) then s.rerunAgain n { r with pair := r.pair + 1, run := 1, err := false } ms
    else s.retire n (pairDetail r.detail r.pair)

/-! ### A data error is detected (R340, R346, R349) -/

/-- DETAIL of an error on a core, with the pairs of a rerun that is going on there (R348). -/
def Core.errorPairs (k : Core) (detail : Word) : Word :=
  match k.rerun with
  | some r => pairDetail detail r.pair
  | none => detail

/-- A context is rolled back and joins the rerun of its core (R346). -/
def State.joinRerun (s : State) (c : CtxId) (detail : Word) : State :=
  let s1 := (s.rollBack c).onCtx c fun x => { x with rerunning := true }
  s1.onCore c.core fun k =>
    let r := k.rerun.getD { pair := 1, run := 1, err := false, detail := detail, members := [] }
    { k with rerun := some { r with members := r.members.filter (fun m => m.ctx != c.ctx) ++ [{ ctx := c.ctx }] } }

/-- What an uncorrectable error on a core does to one of its contexts: one that does not checkpoint, or that rollback cannot repair,
stops, with DETAIL `stop`; one that is in no rerun is rolled back; a rerun that is going on counts the error, and a stopped context
stays as it is (R322, R346, R348, R349). -/
def State.errorMeets (s : State) (store : StoreKind) (off : Nat) (detail stop : Word) (c : CtxId) : State :=
  let x := s.ctx c
  let k := s.core c.core
  if !x.live || x.ended || x.stopped then s
  else if !x.ckpting || k.beyondRepair x store off then s.errorStop c stop
  else if x.rerunning || x.retiring.isSome then s
  else s.joinRerun c detail

/-- An uncorrectable error in a store of a core, or its registers: a rerun that is going on there has had an error; a plane line that
the loader wrote is rewritten; the contexts meet it (R346, R349). -/
def State.coreError (s : State) (n : CoreId) (store : StoreKind) (off : Nat) (detail : Word) : State :=
  let line := off / 8192
  let stop := (s.core n).errorPairs detail
  let s1 := s.onCore n fun k => { k with rerun := k.rerun.map fun r => { r with err := true } }
  let s2 := if store = .plane && !(s.core n).oldLine line then s1.reloadPlane n line else s1
  (List.finRange 4).foldl (fun s c => s.errorMeets store off detail stop { core := n, ctx := c }) s2

/-- `UNCORRECTABLE_ERROR`: a data error is detected. One that the store's code corrects is counted per store and per core (R340); one
in HBM poisons its block (R349); any other rolls back every checkpointing context of the core, and stops the others (R346,
R349). -/
def execUncorrectableError (n : CoreId) (store : StoreKind) (off : BitVec 48) (single : Bool) (s : State) : Out :=
  .next (if single && StoreKind.corrects store then
      s.onCore n fun k =>
        { k with corrected := k.corrected.setIfInBounds (StoreKind.code store)
                   ((k.corrected.toList.getD (StoreKind.code store) 0) + 1) }
    else match store with
    | .hbm stack =>
      let b := (stack.val * 2 ^ 48 + off.toNat) / 64
      if s.poison.contains b then s else { s with poison := s.poison ++ [b] }
    | _ => s.coreError n store off.toNat (errorDetail store off))

/-! ### The move from a retired core (R347) -/

/-- The first context of a core that waits for its move. -/
def Core.mover? (k : Core) : Option (Fin 4) :=
  (List.finRange 4).find? fun c => (k.ctxs[c.val]'c.isLt).live && (k.ctxs[c.val]'c.isLt).retiring.isSome

/-- Whether a context of a kernel at a place stays on a retired core: it has stopped, and does not checkpoint. -/
def Core.staying (k : Core) (kid place : Nat) (c : Fin 4) : Bool :=
  k.isOf kid [place] c && (k.ctxs[c.val]'c.isLt).retiring.isNone

/-- A core without the contexts of a kernel at a place that stay on it. -/
def Core.withoutStaying (k : Core) (kid place : Nat) : Core :=
  { k with ctxs := Vector.ofFn fun c : Fin 4 => if k.staying kid place c then {} else k.ctxs[c.val]'c.isLt }

/-- A retired core once the movers of a kernel at a place have left it. -/
def Core.afterMove (k : Core) (kid place : Nat) : Core :=
  let d := (k.withoutStaying kid place).dropKernel kid [place]
  { d with
    ctxs := Vector.ofFn fun c : Fin 4 => if k.staying kid place c then k.ctxs[c.val]'c.isLt else d.ctxs[c.val]'c.isLt
    windows := if (List.finRange 4).any (k.staying kid place) then k.windows else d.windows }

/-- Whether the movers of a kernel can be taken from a core: their writes have performed and their engines are quiet (R326). -/
def State.movable (s : State) (n : CoreId) (kid : Nat) : Bool :=
  (s.core n).quietFor kid && !s.posted.any fun p => p.kid == kid && p.src.core == n

/-- How far from core `n` core `m` is: in its cluster, on its die, or on another. -/
def distance (n m : CoreId) : Nat := (commonScope n m).num

/-- The cores to which what a kernel leaves of core `n` may go, room apart: none that is retired, and one without a window of the kernel
where there is one. While other contexts of the kernel stand in the cluster, or on the die, of core `n`, a core of it is taken where
there is one (R7, R33, R35, R347; DESIGN CHOICE, log entry 15). -/
def State.homes (s : State) (n : CoreId) (kid : Nat) : List CoreId :=
  let others := (s.ctxsOf kid).filter fun c => c.core != n
  let alive := (List.finRange 320).filter fun m => m != n && !(s.core m).retired
  let free := alive.filter fun m => !(s.core m).windows.any fun w => w.kid == kid
  let near (d : Nat) (l : List CoreId) : List CoreId :=
    let l' := l.filter fun m => decide (distance n m ≤ d)
    if others.any (fun c => decide (distance n c.core ≤ d)) && !l'.isEmpty then l' else l
  near 1 (near 2 (if free.isEmpty then alive else free))

/-- The moved contexts of a kernel on a core go on from their shadows, each with its notice; a pre-emption that waits for them goes on
waiting (R347, R350). -/
def State.arrived (s : State) (m : CoreId) (kid : Nat) (leaving : Bool) : State :=
  (List.finRange 4).foldl (fun s c =>
    let i : CtxId := { core := m, ctx := c }
    let x := s.ctx i
    match x.retiring with
    | some d => if x.live && x.kid == kid then
        (s.onCtx i fun x => { x with retiring := none, leaving := leaving }).notice i 0x82 d
      else s
    | none => s) s

/-- The movers of a kernel at a place moved from a retired core to another, with the notices (R326, R328, R347). -/
def State.moveTo (s : State) (n m : CoreId) (kid place : Nat) (v : SavedCore) (needs : Needs) : State :=
  let leaving := (s.ctxsOf kid).any fun c => (s.ctx c).leaving
  ((s.onCore n fun k => k.afterMove kid place).putSaved m kid v needs).arrived m kid leaving

/-- The contexts of a retired core leave it, those of one kernel at one place at a time, once they are quiet and another core takes
them; which one is a free choice (R347; log entry 15). -/
def State.leaveRetired (s : State) (n : CoreId) : State :=
  let k := s.core n
  match k.mover? with
  | none => s
  | some c =>
    let x := k.ctxs[c.val]'c.isLt
    match s.kernel? x.kid with
    | none => s
    | some kn =>
      match s.object? kn.obj with
      | none => s
      | some o =>
        if s.movable n x.kid then
          let needs := o.needs kn.kidx
          let v := (s.onCore n fun k => k.withoutStaying x.kid x.place).saveCore n x.kid x.place
          match (rotated (s.homes n x.kid) s.pick).find? fun m => (s.core m).takes (some v) needs s.pick with
          | none => s
          | some m => s.moveTo n m x.kid x.place v needs
        else s

end Sys2Proof.Machine
end

