-- ==== Sys2Proof/Machine/Scalar.lean ====
section
/-! DEFINITION. The meanings of the scalar, select, compare and predicate instructions (R114 to R124, R137). -/

namespace Sys2Proof.Machine

/-! ### Arithmetic, logic and shifts (R117, R118) -/

/-- Signed quotient truncated toward zero; all ones for a zero divisor, and −2^63 for −2^63 by −1 (R118). -/
def divSigned (a b : Word) : Word := if b = 0 then BitVec.allOnes 64 else BitVec.ofInt 64 (a.toInt.tdiv b.toInt)

/-- Signed remainder with the sign of the dividend; the dividend for a zero divisor (R118). -/
def remSigned (a b : Word) : Word := if b = 0 then a else BitVec.ofInt 64 (a.toInt.tmod b.toInt)

/-- Unsigned quotient; all ones for a zero divisor (R118). -/
def divUnsigned (a b : Word) : Word := if b = 0 then BitVec.allOnes 64 else BitVec.ofNat 64 (a.toNat / b.toNat)

/-- Unsigned remainder; the dividend for a zero divisor (R118). -/
def remUnsigned (a b : Word) : Word := if b = 0 then a else BitVec.ofNat 64 (a.toNat % b.toNat)

/-- Bits 127:64 of the signed product (R117). -/
def mulHighSigned (a b : Word) : Word := BitVec.ofInt 64 (a.toInt * b.toInt / 2 ^ 64)

/-- Bits 127:64 of the unsigned product (R117). -/
def mulHighUnsigned (a b : Word) : Word := BitVec.ofNat 64 (a.toNat * b.toNat / 2 ^ 64)

/-- The shift amount: bits 5:0 of xB (R117). -/
def shiftAmount (b : Word) : Nat := (b.extractLsb' 0 6).toNat

/-- `nop` (R137); in slot E its tokens act as those of any command that performs at its issue (R109, R151). -/
def execNop (g : Pred) (q : Bool) (x : Option Ext) (s : State) : Out :=
  match x with
  | none => .next s
  | some t => issue (.nop g q x) g (fun s => s.performedNow t.kp) s

/-- `add` (R117), latency 1. -/
def execAdd (g : Pred) (q : Bool) (d a b : Reg) (s : State) : Out :=
  scalar g q d 1 (fun x => x.rx a + x.rx b) s

/-- `sub` (R117), latency 1. -/
def execSub (g : Pred) (q : Bool) (d a b : Reg) (s : State) : Out :=
  scalar g q d 1 (fun x => x.rx a - x.rx b) s

/-- `mul` (R117), latency 3. -/
def execMul (g : Pred) (q : Bool) (d a b : Reg) (s : State) : Out :=
  scalar g q d 3 (fun x => x.rx a * x.rx b) s

/-- `mulh` (R117), latency 3. -/
def execMulh (g : Pred) (q : Bool) (d a b : Reg) (s : State) : Out :=
  scalar g q d 3 (fun x => mulHighSigned (x.rx a) (x.rx b)) s

/-- `mulhn` (R117), latency 3. -/
def execMulhn (g : Pred) (q : Bool) (d a b : Reg) (s : State) : Out :=
  scalar g q d 3 (fun x => mulHighUnsigned (x.rx a) (x.rx b)) s

/-- `div` (R118), latency 12. -/
def execDiv (g : Pred) (q : Bool) (d a b : Reg) (s : State) : Out :=
  scalar g q d 12 (fun x => divSigned (x.rx a) (x.rx b)) s

/-- `divn` (R118), latency 12. -/
def execDivn (g : Pred) (q : Bool) (d a b : Reg) (s : State) : Out :=
  scalar g q d 12 (fun x => divUnsigned (x.rx a) (x.rx b)) s

/-- `rem` (R118), latency 12. -/
def execRem (g : Pred) (q : Bool) (d a b : Reg) (s : State) : Out :=
  scalar g q d 12 (fun x => remSigned (x.rx a) (x.rx b)) s

/-- `remn` (R118), latency 12. -/
def execRemn (g : Pred) (q : Bool) (d a b : Reg) (s : State) : Out :=
  scalar g q d 12 (fun x => remUnsigned (x.rx a) (x.rx b)) s

/-- `min` (R117), latency 1. -/
def execMin (g : Pred) (q : Bool) (d a b : Reg) (s : State) : Out :=
  scalar g q d 1 (fun x => if (x.rx a).sle (x.rx b) then x.rx a else x.rx b) s

/-- `max` (R117), latency 1. -/
def execMax (g : Pred) (q : Bool) (d a b : Reg) (s : State) : Out :=
  scalar g q d 1 (fun x => if (x.rx a).sle (x.rx b) then x.rx b else x.rx a) s

/-- `minn` (R117), latency 1. -/
def execMinn (g : Pred) (q : Bool) (d a b : Reg) (s : State) : Out :=
  scalar g q d 1 (fun x => if (x.rx a).ule (x.rx b) then x.rx a else x.rx b) s

/-- `maxn` (R117), latency 1. -/
def execMaxn (g : Pred) (q : Bool) (d a b : Reg) (s : State) : Out :=
  scalar g q d 1 (fun x => if (x.rx a).ule (x.rx b) then x.rx b else x.rx a) s

/-- `and` (R117), latency 1. -/
def execAnd (g : Pred) (q : Bool) (d a b : Reg) (s : State) : Out :=
  scalar g q d 1 (fun x => x.rx a &&& x.rx b) s

/-- `or` (R117), latency 1. -/
def execOr (g : Pred) (q : Bool) (d a b : Reg) (s : State) : Out :=
  scalar g q d 1 (fun x => x.rx a ||| x.rx b) s

/-- `xor` (R117), latency 1. -/
def execXor (g : Pred) (q : Bool) (d a b : Reg) (s : State) : Out :=
  scalar g q d 1 (fun x => x.rx a ^^^ x.rx b) s

/-- `andn` (R117), latency 1. -/
def execAndn (g : Pred) (q : Bool) (d a b : Reg) (s : State) : Out :=
  scalar g q d 1 (fun x => x.rx a &&& ~~~(x.rx b)) s

/-- `shl` (R117), latency 1. -/
def execShl (g : Pred) (q : Bool) (d a b : Reg) (s : State) : Out :=
  scalar g q d 1 (fun x => x.rx a <<< shiftAmount (x.rx b)) s

/-- `shr` (R117), latency 1. -/
def execShr (g : Pred) (q : Bool) (d a b : Reg) (s : State) : Out :=
  scalar g q d 1 (fun x => x.rx a >>> shiftAmount (x.rx b)) s

/-- `sra` (R117), latency 1. -/
def execSra (g : Pred) (q : Bool) (d a b : Reg) (s : State) : Out :=
  scalar g q d 1 (fun x => (x.rx a).sshiftRight (shiftAmount (x.rx b))) s

/-! ### Immediates and constants (R119, R120) -/

/-- `addi` (R119). -/
def execAddi (g : Pred) (q : Bool) (d a : Reg) (i : BitVec 10) (s : State) : Out :=
  scalar g q d 1 (fun x => x.rx a + sext10 i) s

/-- `shli` (R119). -/
def execShli (g : Pred) (q : Bool) (d a : Reg) (i : BitVec 6) (s : State) : Out :=
  scalar g q d 1 (fun x => x.rx a <<< i.toNat) s

/-- `shri` (R119). -/
def execShri (g : Pred) (q : Bool) (d a : Reg) (i : BitVec 6) (s : State) : Out :=
  scalar g q d 1 (fun x => x.rx a >>> i.toNat) s

/-- `srai` (R119). -/
def execSrai (g : Pred) (q : Bool) (d a : Reg) (i : BitVec 6) (s : State) : Out :=
  scalar g q d 1 (fun x => (x.rx a).sshiftRight i.toNat) s

/-- `movi` (R120). -/
def execMovi (g : Pred) (q : Bool) (d : Reg) (i : BitVec 15) (s : State) : Out :=
  scalar g q d 1 (fun _ => sext15 i) s

/-- `lhi` (R120): it reads xD as any other operand. -/
def execLhi (g : Pred) (q : Bool) (d : Reg) (i : BitVec 15) (s : State) : Out :=
  scalar g q d 1 (fun x => (x.rx d <<< 15) ||| i.setWidth 64) s

/-! ### Extensions and counts (R121) -/

/-- The number of one bits (R121). -/
def popCount (a : Word) : Word :=
  BitVec.ofNat 64 (((List.range 64).filter (fun i => a.getLsbD i)).length)

/-- The number of zero bits below the lowest one bit, 64 for 0 (R121). -/
def trailingZeros (a : Word) : Word :=
  BitVec.ofNat 64 (((List.range 64).takeWhile (fun i => !a.getLsbD i)).length)

/-- The number of zero bits above the highest one bit, 64 for 0 (R121). -/
def leadingZeros (a : Word) : Word :=
  BitVec.ofNat 64 (((List.range 64).takeWhile (fun i => !a.getLsbD (63 - i))).length)

/-- `sx.i8` (R121). -/
def execSxI8 (g : Pred) (q : Bool) (d a : Reg) (s : State) : Out :=
  scalar g q d 1 (fun x => (((x.rx a).extractLsb' 0 8).signExtend 64)) s

/-- `sx.i16` (R121). -/
def execSxI16 (g : Pred) (q : Bool) (d a : Reg) (s : State) : Out :=
  scalar g q d 1 (fun x => (((x.rx a).extractLsb' 0 16).signExtend 64)) s

/-- `sx.i32` (R121). -/
def execSxI32 (g : Pred) (q : Bool) (d a : Reg) (s : State) : Out :=
  scalar g q d 1 (fun x => (((x.rx a).extractLsb' 0 32).signExtend 64)) s

/-- `zx.n8` (R121). -/
def execZxN8 (g : Pred) (q : Bool) (d a : Reg) (s : State) : Out :=
  scalar g q d 1 (fun x => (((x.rx a).extractLsb' 0 8).setWidth 64)) s

/-- `zx.n16` (R121). -/
def execZxN16 (g : Pred) (q : Bool) (d a : Reg) (s : State) : Out :=
  scalar g q d 1 (fun x => (((x.rx a).extractLsb' 0 16).setWidth 64)) s

/-- `zx.n32` (R121). -/
def execZxN32 (g : Pred) (q : Bool) (d a : Reg) (s : State) : Out :=
  scalar g q d 1 (fun x => (((x.rx a).extractLsb' 0 32).setWidth 64)) s

/-- `clz` (R121). -/
def execClz (g : Pred) (q : Bool) (d a : Reg) (s : State) : Out :=
  scalar g q d 1 (fun x => leadingZeros (x.rx a)) s

/-- `ctz` (R121). -/
def execCtz (g : Pred) (q : Bool) (d a : Reg) (s : State) : Out :=
  scalar g q d 1 (fun x => trailingZeros (x.rx a)) s

/-- `popc` (R121). -/
def execPopc (g : Pred) (q : Bool) (d a : Reg) (s : State) : Out :=
  scalar g q d 1 (fun x => popCount (x.rx a)) s

/-! ### Select, compares and predicate operations (R122 to R124) -/

/-- `sel` (R122). -/
def execSel (g : Pred) (q : Bool) (d a b : Reg) (f : Pred) (s : State) : Out :=
  scalar g q d 1 (fun x => if x.rp f then x.rx a else x.rx b) s

/-- `cmp.eq` (R123). -/
def execCmpEq (g : Pred) (q : Bool) (pd : PredPair) (a b : Reg) (s : State) : Out :=
  compare g q pd (fun x => x.rx a == x.rx b) s

/-- `cmp.ne` (R123). -/
def execCmpNe (g : Pred) (q : Bool) (pd : PredPair) (a b : Reg) (s : State) : Out :=
  compare g q pd (fun x => x.rx a != x.rx b) s

/-- `cmp.lt` (R123). -/
def execCmpLt (g : Pred) (q : Bool) (pd : PredPair) (a b : Reg) (s : State) : Out :=
  compare g q pd (fun x => (x.rx a).slt (x.rx b)) s

/-- `cmp.le` (R123). -/
def execCmpLe (g : Pred) (q : Bool) (pd : PredPair) (a b : Reg) (s : State) : Out :=
  compare g q pd (fun x => (x.rx a).sle (x.rx b)) s

/-- `cmp.ltn` (R123). -/
def execCmpLtn (g : Pred) (q : Bool) (pd : PredPair) (a b : Reg) (s : State) : Out :=
  compare g q pd (fun x => (x.rx a).ult (x.rx b)) s

/-- `cmp.len` (R123). -/
def execCmpLen (g : Pred) (q : Bool) (pd : PredPair) (a b : Reg) (s : State) : Out :=
  compare g q pd (fun x => (x.rx a).ule (x.rx b)) s

/-- `cmpi.eq` (R123). -/
def execCmpiEq (g : Pred) (q : Bool) (pd : PredPair) (a : Reg) (i : BitVec 10) (s : State) : Out :=
  compare g q pd (fun x => x.rx a == sext10 i) s

/-- `cmpi.ne` (R123). -/
def execCmpiNe (g : Pred) (q : Bool) (pd : PredPair) (a : Reg) (i : BitVec 10) (s : State) : Out :=
  compare g q pd (fun x => x.rx a != sext10 i) s

/-- `cmpi.lt` (R123). -/
def execCmpiLt (g : Pred) (q : Bool) (pd : PredPair) (a : Reg) (i : BitVec 10) (s : State) : Out :=
  compare g q pd (fun x => (x.rx a).slt (sext10 i)) s

/-- `cmpi.le` (R123). -/
def execCmpiLe (g : Pred) (q : Bool) (pd : PredPair) (a : Reg) (i : BitVec 10) (s : State) : Out :=
  compare g q pd (fun x => (x.rx a).sle (sext10 i)) s

/-- `cmpi.ltn` (R123). -/
def execCmpiLtn (g : Pred) (q : Bool) (pd : PredPair) (a : Reg) (i : BitVec 10) (s : State) : Out :=
  compare g q pd (fun x => (x.rx a).ult (sext10 i)) s

/-- `cmpi.len` (R123). -/
def execCmpiLen (g : Pred) (q : Bool) (pd : PredPair) (a : Reg) (i : BitVec 10) (s : State) : Out :=
  compare g q pd (fun x => (x.rx a).ule (sext10 i)) s

/-- `pand` (R124). -/
def execPand (g : Pred) (q : Bool) (d a b : Pred) (s : State) : Out :=
  predicate g q d (fun x => x.rp a && x.rp b) s

/-- `por` (R124). -/
def execPor (g : Pred) (q : Bool) (d a b : Pred) (s : State) : Out :=
  predicate g q d (fun x => x.rp a || x.rp b) s

/-- `pxor` (R124). -/
def execPxor (g : Pred) (q : Bool) (d a b : Pred) (s : State) : Out :=
  predicate g q d (fun x => x.rp a != x.rp b) s

/-- `pmov` (R124). -/
def execPmov (g : Pred) (q : Bool) (d a : Pred) (s : State) : Out :=
  predicate g q d (fun x => x.rp a) s

end Sys2Proof.Machine
end

