-- ==== Sys2Proof/Machine/Dispatch.lean ====
section
/-! DEFINITION. The dispatch: one arm per constructor of `Instr`, each a direct call of its meaning. -/

namespace Sys2Proof.Machine

/-- What an instruction, micro-operation or event does to a state. -/
def exec (i : Instr) (s : State) : Host.Outcome State Fault Refusal :=
  match i with
  | .nop g q x => Sys2Proof.Machine.execNop g q x s
  | .add g q d a b => Sys2Proof.Machine.execAdd g q d a b s
  | .sub g q d a b => Sys2Proof.Machine.execSub g q d a b s
  | .addi g q d a imm => Sys2Proof.Machine.execAddi g q d a imm s
  | .mul g q d a b => Sys2Proof.Machine.execMul g q d a b s
  | .mulh g q d a b => Sys2Proof.Machine.execMulh g q d a b s
  | .mulhn g q d a b => Sys2Proof.Machine.execMulhn g q d a b s
  | .div g q d a b => Sys2Proof.Machine.execDiv g q d a b s
  | .divn g q d a b => Sys2Proof.Machine.execDivn g q d a b s
  | .rem g q d a b => Sys2Proof.Machine.execRem g q d a b s
  | .remn g q d a b => Sys2Proof.Machine.execRemn g q d a b s
  | .min g q d a b => Sys2Proof.Machine.execMin g q d a b s
  | .max g q d a b => Sys2Proof.Machine.execMax g q d a b s
  | .minn g q d a b => Sys2Proof.Machine.execMinn g q d a b s
  | .maxn g q d a b => Sys2Proof.Machine.execMaxn g q d a b s
  | .and g q d a b => Sys2Proof.Machine.execAnd g q d a b s
  | .or g q d a b => Sys2Proof.Machine.execOr g q d a b s
  | .xor g q d a b => Sys2Proof.Machine.execXor g q d a b s
  | .andn g q d a b => Sys2Proof.Machine.execAndn g q d a b s
  | .shl g q d a b => Sys2Proof.Machine.execShl g q d a b s
  | .shr g q d a b => Sys2Proof.Machine.execShr g q d a b s
  | .sra g q d a b => Sys2Proof.Machine.execSra g q d a b s
  | .shli g q d a imm => Sys2Proof.Machine.execShli g q d a imm s
  | .shri g q d a imm => Sys2Proof.Machine.execShri g q d a imm s
  | .srai g q d a imm => Sys2Proof.Machine.execSrai g q d a imm s
  | .movi g q d imm => Sys2Proof.Machine.execMovi g q d imm s
  | .lhi g q d imm => Sys2Proof.Machine.execLhi g q d imm s
  | .sxI8 g q d a => Sys2Proof.Machine.execSxI8 g q d a s
  | .sxI16 g q d a => Sys2Proof.Machine.execSxI16 g q d a s
  | .sxI32 g q d a => Sys2Proof.Machine.execSxI32 g q d a s
  | .zxN8 g q d a => Sys2Proof.Machine.execZxN8 g q d a s
  | .zxN16 g q d a => Sys2Proof.Machine.execZxN16 g q d a s
  | .zxN32 g q d a => Sys2Proof.Machine.execZxN32 g q d a s
  | .clz g q d a => Sys2Proof.Machine.execClz g q d a s
  | .ctz g q d a => Sys2Proof.Machine.execCtz g q d a s
  | .popc g q d a => Sys2Proof.Machine.execPopc g q d a s
  | .sel g q d a b f => Sys2Proof.Machine.execSel g q d a b f s
  | .cmpEq g q pd a b => Sys2Proof.Machine.execCmpEq g q pd a b s
  | .cmpNe g q pd a b => Sys2Proof.Machine.execCmpNe g q pd a b s
  | .cmpLt g q pd a b => Sys2Proof.Machine.execCmpLt g q pd a b s
  | .cmpLe g q pd a b => Sys2Proof.Machine.execCmpLe g q pd a b s
  | .cmpLtn g q pd a b => Sys2Proof.Machine.execCmpLtn g q pd a b s
  | .cmpLen g q pd a b => Sys2Proof.Machine.execCmpLen g q pd a b s
  | .cmpiEq g q pd a imm => Sys2Proof.Machine.execCmpiEq g q pd a imm s
  | .cmpiNe g q pd a imm => Sys2Proof.Machine.execCmpiNe g q pd a imm s
  | .cmpiLt g q pd a imm => Sys2Proof.Machine.execCmpiLt g q pd a imm s
  | .cmpiLe g q pd a imm => Sys2Proof.Machine.execCmpiLe g q pd a imm s
  | .cmpiLtn g q pd a imm => Sys2Proof.Machine.execCmpiLtn g q pd a imm s
  | .cmpiLen g q pd a imm => Sys2Proof.Machine.execCmpiLen g q pd a imm s
  | .b g q imm => Sys2Proof.Machine.execB g q imm s
  | .bi g q a => Sys2Proof.Machine.execBi g q a s
  | .jt g q a b n => Sys2Proof.Machine.execJt g q a b n s
  | .call g q imm => Sys2Proof.Machine.execCall g q imm s
  | .calli g q a => Sys2Proof.Machine.execCalli g q a s
  | .ret g q => Sys2Proof.Machine.execRet g q s
  | .loop g d imm => Sys2Proof.Machine.execLoop g d imm s
  | .halt g q => Sys2Proof.Machine.execHalt g q s
  | .trap g q n => Sys2Proof.Machine.execTrap g q n s
  | .rett g q => Sys2Proof.Machine.execRett g q s
  | .pand g q d a b => Sys2Proof.Machine.execPand g q d a b s
  | .por g q d a b => Sys2Proof.Machine.execPor g q d a b s
  | .pxor g q d a b => Sys2Proof.Machine.execPxor g q d a b s
  | .pmov g q d a => Sys2Proof.Machine.execPmov g q d a s
  | .mfs g q d n => Sys2Proof.Machine.execMfs g q d n s
  | .mts g q d n => Sys2Proof.Machine.execMts g q d n s
  | .ldI8 g q d a imm => Sys2Proof.Machine.execLdI8 g q d a imm s
  | .ldN8 g q d a imm => Sys2Proof.Machine.execLdN8 g q d a imm s
  | .ldI16 g q d a imm => Sys2Proof.Machine.execLdI16 g q d a imm s
  | .ldN16 g q d a imm => Sys2Proof.Machine.execLdN16 g q d a imm s
  | .ldI32 g q d a imm => Sys2Proof.Machine.execLdI32 g q d a imm s
  | .ldN32 g q d a imm => Sys2Proof.Machine.execLdN32 g q d a imm s
  | .ld64 g q d a imm => Sys2Proof.Machine.execLd64 g q d a imm s
  | .st8 g q d a imm => Sys2Proof.Machine.execSt8 g q d a imm s
  | .st16 g q d a imm => Sys2Proof.Machine.execSt16 g q d a imm s
  | .st32 g q d a imm => Sys2Proof.Machine.execSt32 g q d a imm s
  | .st64 g q d a imm => Sys2Proof.Machine.execSt64 g q d a imm s
  | .tld g q d n lag u => Sys2Proof.Machine.execTld g q d n lag u s
  | .tst g q d n lag u => Sys2Proof.Machine.execTst g q d n lag u s
  | .rst g q d n pos a u => Sys2Proof.Machine.execRst g q d n pos a u s
  | .gld g q d a imm => Sys2Proof.Machine.execGld g q d a imm s
  | .gst g q d a imm => Sys2Proof.Machine.execGst g q d a imm s
  | .aadd g q d a b => Sys2Proof.Machine.execAadd g q d a b s
  | .amin g q d a b => Sys2Proof.Machine.execAmin g q d a b s
  | .amax g q d a b => Sys2Proof.Machine.execAmax g q d a b s
  | .aswp g q d a b => Sys2Proof.Machine.execAswp g q d a b s
  | .acas g q d a b f => Sys2Proof.Machine.execAcas g q d a b f s
  | .acadd g q a b => Sys2Proof.Machine.execAcadd g q a b s
  | .drainCl g q => Sys2Proof.Machine.execDrainCl g q s
  | .drainDie g q => Sys2Proof.Machine.execDrainDie g q s
  | .drainDev g q => Sys2Proof.Machine.execDrainDev g q s
  | .drainSys g q => Sys2Proof.Machine.execDrainSys g q s
  | .tick g q x => Sys2Proof.Machine.execTick g q x s
  | .spec g q n x => Sys2Proof.Machine.execSpec g q n x s
  | .commit g q d n x => Sys2Proof.Machine.execCommit g q d n x s
  | .sclr g q n x => Sys2Proof.Machine.execSclr g q n x s
  | .sstat g q d n x => Sys2Proof.Machine.execSstat g q d n x s
  | .ckpt g d x => Sys2Proof.Machine.execCkpt g d x s
  | .gacq g q x => Sys2Proof.Machine.execGacq g q x s
  | .grel g q x => Sys2Proof.Machine.execGrel g q x s
  | .gcfg g q n x => Sys2Proof.Machine.execGcfg g q n x s
  | .grun g q a x => Sys2Proof.Machine.execGrun g q a x s
  | .gset g q t a f x => Sys2Proof.Machine.execGset g q t a f x s
  | .mxload g q n x => Sys2Proof.Machine.execMxload g q n x s
  | .mxp g q n a x => Sys2Proof.Machine.execMxp g q n a x s
  | .mxcall g q n x => Sys2Proof.Machine.execMxcall g q n x s
  | .sload g q e n pos k a x => Sys2Proof.Machine.execSload g q e n pos k a x s
  | .sloadPl g q e k a b x => Sys2Proof.Machine.execSloadPl g q e k a b x s
  | .sstore g q e n off k a x => Sys2Proof.Machine.execSstore g q e n off k a x s
  | .scopy g q e k j a b x => Sys2Proof.Machine.execScopy g q e k j a b x s
  | .sgather g q e n pos k a b oor x => Sys2Proof.Machine.execSgather g q e n pos k a b oor x s
  | .sreduce g q w e n pos k a b red dis oor x => Sys2Proof.Machine.execSreduce g q w e n pos k a b red dis oor x s
  | .sscatter g q e n off k a b oor x => Sys2Proof.Machine.execSscatter g q e n off k a b oor x s
  | .spos g q n a x => Sys2Proof.Machine.execSpos g q n a x s
  | .dset g q k w a x => Sys2Proof.Machine.execDset g q k w a x s
  | .dget g q d k w x => Sys2Proof.Machine.execDget g q d k w x s
  | .dclr g q k x => Sys2Proof.Machine.execDclr g q k x s
  | .kwait g q x => Sys2Proof.Machine.execKwait g q x s
  | .kpoll g q d x => Sys2Proof.Machine.execKpoll g q d x s
  | .trig g q x => Sys2Proof.Machine.execTrig g q x s
  | .launch g q a b x => Sys2Proof.Machine.execLaunch g q a b x s
  | .arriveCl g q x => Sys2Proof.Machine.execArriveCl g q x s
  | .arriveDie g q x => Sys2Proof.Machine.execArriveDie g q x s
  | .arriveDev g q x => Sys2Proof.Machine.execArriveDev g q x s
  | .waitCl g q x => Sys2Proof.Machine.execWaitCl g q x s
  | .waitDie g q x => Sys2Proof.Machine.execWaitDie g q x s
  | .waitDev g q x => Sys2Proof.Machine.execWaitDev g q x s
  | .sync g q x => Sys2Proof.Machine.execSync g q x s
  | .emptyBundle => Sys2Proof.Machine.execEmptyBundle s
  | .slotTableEffect n => Sys2Proof.Machine.execSlotTableEffect n s
  | .tickStep c => Sys2Proof.Machine.execTickStep c s
  | .gridGrant n => Sys2Proof.Machine.execGridGrant n s
  | .configurationLoad n => Sys2Proof.Machine.execConfigurationLoad n s
  | .gsetApply n => Sys2Proof.Machine.execGsetApply n s
  | .grunStart n => Sys2Proof.Machine.execGrunStart n s
  | .gridWord n => Sys2Proof.Machine.execGridWord n s
  | .attarComplete n t => Sys2Proof.Machine.execAttarComplete n t s
  | .grunPerform n => Sys2Proof.Machine.execGrunPerform n s
  | .readoutSnapshot n p => Sys2Proof.Machine.execReadoutSnapshot n p s
  | .readoutRowDeliver n p => Sys2Proof.Machine.execReadoutRowDeliver n p s
  | .routineLoad n => Sys2Proof.Machine.execRoutineLoad n s
  | .routineCallStart n => Sys2Proof.Machine.execRoutineCallStart n s
  | .mEnd => Sys2Proof.Machine.execMEnd s
  | .fmt f => Sys2Proof.Machine.execFmt f s
  | .bindA m => Sys2Proof.Machine.execBindA m s
  | .bindB p st => Sys2Proof.Machine.execBindB p st s
  | .bindAcc p st => Sys2Proof.Machine.execBindAcc p st s
  | .scl p => Sys2Proof.Machine.execScl p s
  | .pass c => Sys2Proof.Machine.execPass c s
  | .passParam p => Sys2Proof.Machine.execPassParam p s
  | .lp c => Sys2Proof.Machine.execLp c s
  | .lpParam p => Sys2Proof.Machine.execLpParam p s
  | .el => Sys2Proof.Machine.execEl s
  | .padd p v => Sys2Proof.Machine.execPadd p v s
  | .zacc n => Sys2Proof.Machine.execZacc n s
  | .anch n a => Sys2Proof.Machine.execAnch n a s
  | .tok => Sys2Proof.Machine.execTok s
  | .wt k => Sys2Proof.Machine.execWt k s
  | .arrayCycle n => Sys2Proof.Machine.execArrayCycle n s
  | .accumulateLand n => Sys2Proof.Machine.execAccumulateLand n s
  | .streamCommandTake n e => Sys2Proof.Machine.execStreamCommandTake n e s
  | .fillWindow n e => Sys2Proof.Machine.execFillWindow n e s
  | .indexLookup n e => Sys2Proof.Machine.execIndexLookup n e s
  | .drainSample n e => Sys2Proof.Machine.execDrainSample n e s
  | .copyUnit n e => Sys2Proof.Machine.execCopyUnit n e s
  | .streamRetry n e => Sys2Proof.Machine.execStreamRetry n e s
  | .yarrowGather n e => Sys2Proof.Machine.execYarrowGather n e s
  | .yarrowPool n e => Sys2Proof.Machine.execYarrowPool n e s
  | .yarrowScatterAdd n e => Sys2Proof.Machine.execYarrowScatterAdd n e s
  | .atomicPerform k => Sys2Proof.Machine.execAtomicPerform k s
  | .cellAddPerform k => Sys2Proof.Machine.execCellAddPerform k s
  | .deviceReadReturn c => Sys2Proof.Machine.execDeviceReadReturn c s
  | .deviceWritePerform k => Sys2Proof.Machine.execDeviceWritePerform k s
  | .remoteWritePerform n => Sys2Proof.Machine.execRemoteWritePerform n s
  | .launchPost c => Sys2Proof.Machine.execLaunchPost c s
  | .barrierRelease c => Sys2Proof.Machine.execBarrierRelease c s
  | .syncRestart c => Sys2Proof.Machine.execSyncRestart c s
  | .launchPlacement => Sys2Proof.Machine.execLaunchPlacement s
  | .aging q => Sys2Proof.Machine.execAging q s
  | .contextRelease c => Sys2Proof.Machine.execContextRelease c s
  | .kernelComplete k => Sys2Proof.Machine.execKernelComplete k s
  | .faultRecordPost => Sys2Proof.Machine.execFaultRecordPost s
  | .tailWrite q v => Sys2Proof.Machine.execTailWrite q v s
  | .stopClear q => Sys2Proof.Machine.execStopClear q s
  | .registerWrite off v => Sys2Proof.Machine.execRegisterWrite off v s
  | .load dom addr size => Sys2Proof.Machine.execLoad dom addr size s
  | .unload obj => Sys2Proof.Machine.execUnload obj s
  | .create spec => Sys2Proof.Machine.execCreate spec s
  | .destroy dom => Sys2Proof.Machine.execDestroy dom s
  | .map dom entries root => Sys2Proof.Machine.execMap dom entries root s
  | .inval dom => Sys2Proof.Machine.execInval dom s
  | .invalidationPerform dom => Sys2Proof.Machine.execInvalidationPerform dom s
  | .qcfg q cfg => Sys2Proof.Machine.execQcfg q cfg s
  | .power plim => Sys2Proof.Machine.execPower plim s
  | .slot n v => Sys2Proof.Machine.execSlot n v s
  | .ctxget dom c addr => Sys2Proof.Machine.execCtxget dom c addr s
  | .resume dom c epc btarg => Sys2Proof.Machine.execResume dom c epc btarg s
  | .abort dom c => Sys2Proof.Machine.execAbort dom c s
  | .getVersion => Sys2Proof.Machine.execGetVersion s
  | .getCapabilities => Sys2Proof.Machine.execGetCapabilities s
  | .negotiateAlgorithms => Sys2Proof.Machine.execNegotiateAlgorithms s
  | .getDigests => Sys2Proof.Machine.execGetDigests s
  | .getCertificate => Sys2Proof.Machine.execGetCertificate s
  | .challenge => Sys2Proof.Machine.execChallenge s
  | .getMeasurements idx => Sys2Proof.Machine.execGetMeasurements idx s
  | .keyExchange => Sys2Proof.Machine.execKeyExchange s
  | .finish => Sys2Proof.Machine.execFinish s
  | .endSession => Sys2Proof.Machine.execEndSession s
  | .cxlMemRead addr len => Sys2Proof.Machine.execCxlMemRead addr len s
  | .cxlMemWrite addr data => Sys2Proof.Machine.execCxlMemWrite addr data s
  | .boot firstOk monitorOk trainOk => Sys2Proof.Machine.execBoot firstOk monitorOk trainOk s
  | .powerSample avgMs avgFast idle => Sys2Proof.Machine.execPowerSample avgMs avgFast idle s
  | .linkFlitCrcFail port => Sys2Proof.Machine.execLinkFlitCrcFail port s
  | .hostAccessError src poison => Sys2Proof.Machine.execHostAccessError src poison s
  | .uncorrectableError n store off single => Sys2Proof.Machine.execUncorrectableError n store off single s
  | .landingAfterLastEnd n => Sys2Proof.Machine.execLandingAfterLastEnd n s
  | .linkPortUp port peerPort peerPart => Sys2Proof.Machine.execLinkPortUp port peerPort peerPart s
  | .apertureAccessArrival port addr write len => Sys2Proof.Machine.execApertureAccessArrival port addr write len s
  | .mailboxOpcodeRefused op => Sys2Proof.Machine.execMailboxOpcodeRefused op s

end Sys2Proof.Machine
end

