-- ==== Sys2Proof/Machine/Issue.lean ====
section
/-! DEFINITION. A bundle issues: its slots take effect through `exec`, and the context goes on (R110, R112, R134). -/

namespace Sys2Proof.Machine

/-- Instructions executed in order; a fault or refusal ends the list. -/
def execAll : List Instr → State → Out
  | [], s => .next s
  | i :: r, s =>
    match exec i s with
    | .next s' => execAll r s'
    | .fault f => .fault f
    | .refused x => .refused x

/-- The context of a bundle whose checks and waits are over, at the moment its slots take effect: results landed, the
bases of its slots updated, the slots admitted (R103, R110). -/
def State.openBundle (s : State) (c : CtxId) (len : Nat) (slots : List Slot) : State :=
  let b := s.beginBundle c len
  b.setMe { b.me with toBlock := slots.foldl Block.rebase b.me.toBlock, admitted := true, first := s.cmdSeq }

/-- The fault of the access that a bundle makes as it issues: no effect of the bundle stands (R320, R331). -/
def State.bundleXlat (s : State) (c : CtxId) (len : Nat) (slots : List Slot) : Option TrapInfo :=
  let b := s.beginBundle c len
  (liveSlots b.me slots).findSome? fun sl => slotXlat sl.ins b

/-- A bundle of a context issues. When a slot has ended the bundle itself (a `halt`, a `trap`, a rollback) nothing more
happens; otherwise the context goes on. -/
def State.issueBundle (s : State) (c : CtxId) (len : Nat) (slots : List Slot) : Out :=
  if slots = [] then exec .emptyBundle { s with cur := c }
  else match s.bundleXlat c len slots with
    | some t => .next (s.takeTrap c t)
    | none =>
      match execAll ((effectOrder slots).map (·.ins)) (s.openBundle c len slots) with
      | .next s' => .next (if (s'.ctx c).admitted then s'.endBundle c else s')
      | .fault f => .fault f
      | .refused x => .refused x

/-- The contexts of a core prepared in turn; a grid that one of them frees goes to the context that waits first for it (R49). -/
def State.prepareAll (s : State) (n : CoreId) : State :=
  (List.finRange 4).foldl (fun s c => (s.prepare { core := n, ctx := c }).onCore n Core.regrant) s

/-- The extra cycles of the return stacks are over (R131). -/
def State.clearStalls (s : State) (n : CoreId) : State :=
  let k := s.core n
  s.setCore n { k with ctxs := k.ctxs.map fun x => { x with stall := false } }

/-- The turn of a core's control processor: what happens between bundles, and at most one bundle issued (R41, R43); a rerun goes
on once all of its contexts are at their boundaries (R346). -/
def State.cpTurn (s : State) (n : CoreId) : Out :=
  let s1 := (s.pairTurn n).prepareAll n
  let pick := s1.choose n
  let s2 := s1.clearStalls n
  match pick with
  | none => .next s2
  | some ((c, len, slots), tie) =>
    let k := s2.core n
    (s2.setCore n { k with lastTie := tie.getD k.lastTie }).issueBundle { core := n, ctx := c } len slots

end Sys2Proof.Machine
end

