-- ==== Sys2Proof/Machine/Turn.lean ====
section
/-! DEFINITION. One turn of the machine: which events an agent of the part carries out when it is its turn, whose turn comes next,
and how a word is put where the next turn runs it (R2, R9, R40 to R53; log entries 1 to 3). -/

namespace Sys2Proof.Machine

/-! ### Whose turn -/

/-- The phase after a phase within one core, `none` after the control processor's (log entry 1). -/
def Phase.next : Phase → Option Phase
  | .slots => some .array
  | .array => some .readout
  | .readout => some (.engine 0)
  | .engine e => if h : e.val < 5 then some (.engine ⟨e.val + 1, by omega⟩) else some .attar
  | .attar => some .remote
  | .remote => some .grid
  | .grid => some (.tick 0)
  | .tick c => if h : c.val < 3 then some (.tick ⟨c.val + 1, by omega⟩) else some (.post 0)
  | .post c => if h : c.val < 3 then some (.post ⟨c.val + 1, by omega⟩) else some .cp
  | .cp => none
  | .host => some .place
  | .place => some .memory
  | .memory => some .monitor
  | .monitor => none

/-- Whether a phase belongs to the device, not to one core. -/
def Phase.ofDevice : Phase → Bool
  | .host | .place | .memory | .monitor => true
  | _ => false

/-- The turn after a turn: the phases of a core, core after core, then those of the device, and again (log entry 1). -/
def Turn.next (t : Turn) : Turn :=
  match t.phase.next with
  | some p => { t with phase := p }
  | none =>
    if t.phase.ofDevice then { core := 0, phase := .slots }
    else if h : t.core.val + 1 < 320 then { core := ⟨t.core.val + 1, h⟩, phase := .slots }
    else { core := 0, phase := .host }

/-! ### What happens in a turn -/

/-- The events of an engine's turn, when they happen now (R231). -/
def engineEvents (n : CoreId) (e : Fin 6) : List Instr :=
  [.streamCommandTake n e, .streamRetry n e, .indexLookup n e, .fillWindow n e, .drainSample n e, .copyUnit n e,
   .yarrowGather n e, .yarrowPool n e, .yarrowScatterAdd n e]

/-- The events of the grid's turn (R173, R179 to R182). -/
def gridEvents (n : CoreId) : List Instr :=
  [.landingAfterLastEnd n, .gridWord n, .grunPerform n, .gridGrant n, .configurationLoad n, .gsetApply n, .grunStart n,
   .readoutSnapshot n 0, .readoutSnapshot n 1]

/-- The events of a context's turn, those whose time the spec leaves open only when they happen now (R9). -/
def State.postEvents (s : State) (c : CtxId) : List Instr :=
  (if s.readyAt 0 then [.launchPost c] else []) ++ (if s.readyAt 1 then [.deviceReadReturn c] else [])
    ++ [.barrierRelease c, .syncRestart c, .contextRelease c]

/-- The event by which a write in flight goes on (R148, R149, R262). -/
def Posted.event (p : Posted) : Instr :=
  match p.kind with
  | .store | .unit _ _ => .deviceWritePerform p.id
  | .cell => .cellAddPerform p.id
  | _ => .atomicPerform p.id

/-- The writes in flight that go on in this turn (R9, R259). -/
def State.memoryEvents (s : State) : List Instr :=
  ((List.range s.posted.length).zip s.posted).filterMap fun (i, p) => if s.readyAt i then some p.event else none

/-- The events of the placement unit's turn (R46). -/
def State.placeEvents (s : State) : List Instr :=
  ((List.range 128).map fun q => .aging (BitVec.ofNat 7 q)) ++ (if s.readyAt 0 then [.launchPlacement] else [])

/-- The events of the monitor's turn, when they happen now (R256, R277, R323). -/
def State.monitorEvents (s : State) : List Instr :=
  (if s.readyAt 0 then [.faultRecordPost] else [])
    ++ (if s.readyAt 1 then s.kernels.map fun k => .kernelComplete k.kid else [])
    ++ (if s.readyAt 2 then (List.range 64).map fun d => .invalidationPerform (BitVec.ofNat 6 d) else [])

/-- Whether an instruction is an event from outside the part, which the inbox may hold (log entry 2). -/
def isOutside (i : Instr) : Bool :=
  match i with
  | .tailWrite .. | .stopClear .. | .registerWrite .. | .load .. | .unload .. | .create .. | .destroy .. | .map ..
  | .inval .. | .qcfg .. | .power .. | .slot .. | .ctxget .. | .resume .. | .abort .. | .getVersion | .getCapabilities
  | .negotiateAlgorithms | .getDigests | .getCertificate | .challenge | .getMeasurements .. | .keyExchange | .finish
  | .endSession | .cxlMemRead .. | .cxlMemWrite .. | .boot .. | .powerSample .. | .linkFlitCrcFail ..
  | .hostAccessError .. | .uncorrectableError .. | .linkPortUp .. | .apertureAccessArrival .. | .mailboxOpcodeRefused .. =>
    true
  | _ => false

/-- Whether an event is a mailbox command that waits while the mailbox is at another: a LOAD or a QCFG that names a domain being
destroyed is refused meanwhile (R282, R285). -/
def State.waitsForMailbox (s : State) (i : Instr) : Bool :=
  s.mailboxBusy && match i with
  | .load d .. => !(s.domain d).dying
  | .qcfg _ c => !(s.domain (c.word1.extractLsb' 56 6)).dying
  | .unload .. | .create .. | .destroy .. | .map .. | .inval .. | .power .. | .slot .. | .ctxget .. | .resume .. | .abort ..
  | .mailboxOpcodeRefused .. => true
  | _ => false

/-- The first access of the host to its own memory whose cycle has come (R268; log entry 39). -/
def State.hostOwn (s : State) : State :=
  match s.hostMem with
  | [] => s
  | (t, a) :: r => if s.cycle < t then s else ({ s with hostMem := r }).hostAccess a

/-- The host's turn: an access to its own memory, and the first event of the inbox, once its cycle has come and the mailbox is free
for it (R282; log entries 2 and 39). -/
def State.hostTurn (s0 : State) : Out :=
  let s := s0.hostOwn
  match s.inbox with
  | [] => .next s
  | (t, i) :: r =>
    if s.cycle < t || s.waitsForMailbox i then .next s
    else if isOutside i then exec i { s with inbox := r }
    else .next { s with inbox := r }

/-- The micro-operation of the array's turn, or one cycle of the micro-operation that it is busy with (R224, R226). -/
def State.microTurn (s : State) (n : CoreId) : Out :=
  match (s.core n).microNext with
  | some (r, i) => exec i { s with cur := { core := n, ctx := r.item.ctx } }
  | none => .next (s.onMx n Matrix.unbusy)

/-- A computation followed by another. -/
def Out.andThen (o : Out) (f : State → Out) : Out :=
  match o with
  | .next s => f s
  | .fault f => .fault f
  | .refused r => .refused r

/-- The array's turn: loads, the start of a call, one micro-operation, one array cycle, and what lands (R219, R224). -/
def State.arrayTurn (s : State) (n : CoreId) : Out :=
  Out.andThen (execAll [.routineLoad n, .routineCallStart n] s) fun s1 =>
  Out.andThen (s1.microTurn n) fun s2 => execAll [.arrayCycle n, .accumulateLand n] s2

/-- The end of the monitor's turn: a domain that has been destroyed, a core that is being retired, ports that begin to train, the
next cycle (R279, R337, R347). -/
def State.endCycle (s : State) : State :=
  let s1 := if s.readyAt 3 then
      (List.range 64).foldl (fun s d => State.finishDestroy s (BitVec.ofNat 6 d)) s else s
  let s2 := if s.readyAt 4 then (List.finRange 320).foldl State.leaveRetired s1 else s1
  { s2.trainPorts with cycle := s2.cycle + 1 }

/-- What the agent whose turn it is does. -/
def State.turnOut (s : State) : Out :=
  let n := s.turn.core
  match s.turn.phase with
  | .slots => execAll [.slotTableEffect n] s
  | .array => s.arrayTurn n
  | .readout => execAll [.readoutRowDeliver n 0, .readoutRowDeliver n 1] s
  | .engine e => if s.readyAt 0 then execAll (engineEvents n e) s else .next s
  | .attar => execAll ((List.finRange 32).map (.attarComplete n)) s
  | .remote => if s.readyAt 0 then execAll [.remoteWritePerform n] s else .next s
  | .grid => execAll (gridEvents n) s
  | .tick c => execAll [.tickStep { core := n, ctx := c }] s
  | .post c => execAll (s.postEvents { core := n, ctx := c }) s
  | .cp => s.cpTurn n
  | .host => s.hostTurn
  | .place => execAll s.placeEvents s
  | .memory => execAll s.memoryEvents s
  | .monitor => Out.andThen (execAll s.monitorEvents s) fun s => .next s.endCycle

/-- The turn is over: the next agent's follows, with the next free choice (log entry 1). -/
def State.advance (s : State) : State :=
  { s with draws := s.draws + 1, choices := s.choices.tail, turn := s.turn.next }

/-! ### A word where the next turn runs it (log entry 3) -/

/-- A header word for one slot, with EX when an extension word follows (R102). -/
def soleHeader (c : SlotClass) (ex : Bool) : Lane :=
  let slot : Nat := match c with
    | .a => 0
    | .b => 1
    | .m => 2
    | .e => 3
  BitVec.ofNat 32 (2 ^ (28 + slot) + if ex then 2 ^ 23 else 0)

/-- The class by which `decodeTableWord` reads a word, `none` for a micro-word (log entry 6). -/
def wordClass (w : Lane) (x : Option Lane) : Option SlotClass :=
  let ok (r : Except DecodeError Instr) : Bool := match r with
    | .ok _ => true
    | .error _ => false
  let slot : Option SlotClass := [SlotClass.a, .b, .m, .e].find? fun c => ok (decodeSlot c w (if c = .e then x else none))
  if fG w == 0 then slot else if ok (decodeMicro w) then none else slot

/-- A kernel and its object whose code is `code`, on context 0 of core 0, as a load and a launch leave them. -/
def State.placeCode (s : State) (code : List Lane) (routines : List (BitVec 5 × Nat × Nat)) : State :=
  let im : KImage := { code := code, plan := [], loops := Vector.replicate 6 {} }
  let o : Object :=
    { handle := s.objSeq, dom := 0, kernels := [im], grids := [], routs := [], cpdata := [], planes := [], devs := [] }
  let k : Kernel :=
    { kid := s.kidSeq, obj := s.objSeq, kidx := 0, dom := 0, queue := 0, recIdx := 0, prio := 0, args := [], done := 0,
      seqn := 0, notify := false, order := s.cmdSeq, aborted := false, saved := [] }
  let w : Window :=
    { kid := s.kidSeq, place := 0, wbase := 0, imgEnd := 0, plBase := 0, plSize := 8192, routines := routines, shadowBase := 0,
      shadowSize := 0 }
  let c := s.core 0
  { s.setCore 0 { c with
      ctxs := (Vector.replicate 4 {}).set 0 (newCtx s.kidSeq 0 0 im 0 0)
      windows := w :: c.windows } with
    objects := o :: s.objects
    objSeq := s.objSeq + 1
    kernels := k :: s.kernels
    kidSeq := s.kidSeq + 1 }

/-- A slot word, with its extension word, as the only slot of the bundle that core 0 issues next. -/
def State.placeSlot (s : State) (c : SlotClass) (w : Lane) (x : Option Lane) : State :=
  { s.placeCode (soleHeader c x.isSome :: w :: x.toList) [] with turn := { core := 0, phase := .cp } }

/-- A micro-word as the next micro-operation of the call that the array of core 0 runs. -/
def State.placeMicro (s : State) (w : Lane) : State :=
  let item : MxItem :=
    { id := s.cmdSeq, ctx := 0, kid := s.kidSeq, isLoad := false, entry := 0, params := Vector.replicate 8 0, kp := 0,
      fromGrid := false }
  let s1 := s.placeCode [0] [(0, 0, 1)]
  { s1.onMx 0 fun m => { m with run := some { item := item }, loading := none, store := m.store.set 0 w } with
    turn := { core := 0, phase := .array }
    cmdSeq := s.cmdSeq + 1 }

/-- An instruction's bits, as `decodeTableWord` numbers them, where the next turn runs them. -/
def State.placeWord (s : State) (w : Nat) : State :=
  let lo : Lane := BitVec.ofNat 32 w
  let x : Option Lane := if isStreamOp lo then some (BitVec.ofNat 32 (w >>> 32)) else none
  match wordClass lo x with
  | some c => s.placeSlot c lo (if c = .e then x else none)
  | none => s.placeMicro lo

end Sys2Proof.Machine
end

