-- ==== Sys2Proof/Machine/Step.lean ====
section
/-! DEFINITION. One step of the machine: the agent whose turn it is acts, and the next one's turn follows (log entry 1). -/

namespace Sys2Proof.Machine

/-- One step. -/
def step (s : State) : Host.Outcome State Fault Refusal :=
  match s.turnOut with
  | .next s' => .next s'.advance
  | .fault f => .fault f
  | .refused r => .refused r

/-- The state in which the next step runs the instruction of bits `w`, numbered as in `decodeTableWord` (log entry 3). -/
def State.withFetchWord (s : State) (_nbits w : Nat) : State := s.placeWord w

end Sys2Proof.Machine
end

