-- ==== Sys2Proof/Laws/State.lean ====
section
/-! SUPPORT. One lemma for each field of the state and each update of it: what the update leaves, and what it writes. -/

namespace Sys2Proof.Machine

/-! ### `setCore` -/

@[simp] theorem State.setCore_cycle (s : State) (n : CoreId) (k : Core) : (s.setCore n k).cycle = s.cycle := rfl
@[simp] theorem State.setCore_turn (s : State) (n : CoreId) (k : Core) : (s.setCore n k).turn = s.turn := rfl
@[simp] theorem State.setCore_cur (s : State) (n : CoreId) (k : Core) : (s.setCore n k).cur = s.cur := rfl
@[simp] theorem State.setCore_draws (s : State) (n : CoreId) (k : Core) : (s.setCore n k).draws = s.draws := rfl
@[simp] theorem State.setCore_choices (s : State) (n : CoreId) (k : Core) : (s.setCore n k).choices = s.choices := rfl
@[simp] theorem State.setCore_cmdSeq (s : State) (n : CoreId) (k : Core) : (s.setCore n k).cmdSeq = s.cmdSeq := rfl
@[simp] theorem State.setCore_inbox (s : State) (n : CoreId) (k : Core) : (s.setCore n k).inbox = s.inbox := rfl
@[simp] theorem State.setCore_hostMem (s : State) (n : CoreId) (k : Core) : (s.setCore n k).hostMem = s.hostMem := rfl
@[simp] theorem State.setCore_mem (s : State) (n : CoreId) (k : Core) : (s.setCore n k).mem = s.mem := rfl
@[simp] theorem State.setCore_memOwner (s : State) (n : CoreId) (k : Core) : (s.setCore n k).memOwner = s.memOwner := rfl
@[simp] theorem State.setCore_poison (s : State) (n : CoreId) (k : Core) : (s.setCore n k).poison = s.poison := rfl
@[simp] theorem State.setCore_posted (s : State) (n : CoreId) (k : Core) : (s.setCore n k).posted = s.posted := rfl
@[simp] theorem State.setCore_domains (s : State) (n : CoreId) (k : Core) : (s.setCore n k).domains = s.domains := rfl
@[simp] theorem State.setCore_keySeq (s : State) (n : CoreId) (k : Core) : (s.setCore n k).keySeq = s.keySeq := rfl
@[simp] theorem State.setCore_queues (s : State) (n : CoreId) (k : Core) : (s.setCore n k).queues = s.queues := rfl
@[simp] theorem State.setCore_lastQueue (s : State) (n : CoreId) (k : Core) : (s.setCore n k).lastQueue = s.lastQueue := rfl
@[simp] theorem State.setCore_chosen (s : State) (n : CoreId) (k : Core) : (s.setCore n k).chosen = s.chosen := rfl
@[simp] theorem State.setCore_objects (s : State) (n : CoreId) (k : Core) : (s.setCore n k).objects = s.objects := rfl
@[simp] theorem State.setCore_objSeq (s : State) (n : CoreId) (k : Core) : (s.setCore n k).objSeq = s.objSeq := rfl
@[simp] theorem State.setCore_kernels (s : State) (n : CoreId) (k : Core) : (s.setCore n k).kernels = s.kernels := rfl
@[simp] theorem State.setCore_kidSeq (s : State) (n : CoreId) (k : Core) : (s.setCore n k).kidSeq = s.kidSeq := rfl
@[simp] theorem State.setCore_monq (s : State) (n : CoreId) (k : Core) : (s.setCore n k).monq = s.monq := rfl
@[simp] theorem State.setCore_log (s : State) (n : CoreId) (k : Core) : (s.setCore n k).log = s.log := rfl
@[simp] theorem State.setCore_msix (s : State) (n : CoreId) (k : Core) : (s.setCore n k).msix = s.msix := rfl
@[simp] theorem State.setCore_hostOut (s : State) (n : CoreId) (k : Core) : (s.setCore n k).hostOut = s.hostOut := rfl
@[simp] theorem State.setCore_mbStatus (s : State) (n : CoreId) (k : Core) : (s.setCore n k).mbStatus = s.mbStatus := rfl
@[simp] theorem State.setCore_bootst (s : State) (n : CoreId) (k : Core) : (s.setCore n k).bootst = s.bootst := rfl
@[simp] theorem State.setCore_measures (s : State) (n : CoreId) (k : Core) : (s.setCore n k).measures = s.measures := rfl
@[simp] theorem State.setCore_spdm (s : State) (n : CoreId) (k : Core) : (s.setCore n k).spdm = s.spdm := rfl
@[simp] theorem State.setCore_plim (s : State) (n : CoreId) (k : Core) : (s.setCore n k).plim = s.plim := rfl
@[simp] theorem State.setCore_clk (s : State) (n : CoreId) (k : Core) : (s.setCore n k).clk = s.clk := rfl
@[simp] theorem State.setCore_belowFor (s : State) (n : CoreId) (k : Core) : (s.setCore n k).belowFor = s.belowFor := rfl
@[simp] theorem State.setCore_throt (s : State) (n : CoreId) (k : Core) : (s.setCore n k).throt = s.throt := rfl
@[simp] theorem State.setCore_nRetired (s : State) (n : CoreId) (k : Core) : (s.setCore n k).nRetired = s.nRetired := rfl
@[simp] theorem State.setCore_ports (s : State) (n : CoreId) (k : Core) : (s.setCore n k).ports = s.ports := rfl

/-! ### `setCtx` -/

@[simp] theorem State.setCtx_cycle (s : State) (c : CtxId) (x : Ctx) : (s.setCtx c x).cycle = s.cycle := rfl
@[simp] theorem State.setCtx_turn (s : State) (c : CtxId) (x : Ctx) : (s.setCtx c x).turn = s.turn := rfl
@[simp] theorem State.setCtx_cur (s : State) (c : CtxId) (x : Ctx) : (s.setCtx c x).cur = s.cur := rfl
@[simp] theorem State.setCtx_draws (s : State) (c : CtxId) (x : Ctx) : (s.setCtx c x).draws = s.draws := rfl
@[simp] theorem State.setCtx_choices (s : State) (c : CtxId) (x : Ctx) : (s.setCtx c x).choices = s.choices := rfl
@[simp] theorem State.setCtx_cmdSeq (s : State) (c : CtxId) (x : Ctx) : (s.setCtx c x).cmdSeq = s.cmdSeq := rfl
@[simp] theorem State.setCtx_inbox (s : State) (c : CtxId) (x : Ctx) : (s.setCtx c x).inbox = s.inbox := rfl
@[simp] theorem State.setCtx_hostMem (s : State) (c : CtxId) (x : Ctx) : (s.setCtx c x).hostMem = s.hostMem := rfl
@[simp] theorem State.setCtx_mem (s : State) (c : CtxId) (x : Ctx) : (s.setCtx c x).mem = s.mem := rfl
@[simp] theorem State.setCtx_memOwner (s : State) (c : CtxId) (x : Ctx) : (s.setCtx c x).memOwner = s.memOwner := rfl
@[simp] theorem State.setCtx_poison (s : State) (c : CtxId) (x : Ctx) : (s.setCtx c x).poison = s.poison := rfl
@[simp] theorem State.setCtx_posted (s : State) (c : CtxId) (x : Ctx) : (s.setCtx c x).posted = s.posted := rfl
@[simp] theorem State.setCtx_domains (s : State) (c : CtxId) (x : Ctx) : (s.setCtx c x).domains = s.domains := rfl
@[simp] theorem State.setCtx_keySeq (s : State) (c : CtxId) (x : Ctx) : (s.setCtx c x).keySeq = s.keySeq := rfl
@[simp] theorem State.setCtx_queues (s : State) (c : CtxId) (x : Ctx) : (s.setCtx c x).queues = s.queues := rfl
@[simp] theorem State.setCtx_lastQueue (s : State) (c : CtxId) (x : Ctx) : (s.setCtx c x).lastQueue = s.lastQueue := rfl
@[simp] theorem State.setCtx_chosen (s : State) (c : CtxId) (x : Ctx) : (s.setCtx c x).chosen = s.chosen := rfl
@[simp] theorem State.setCtx_objects (s : State) (c : CtxId) (x : Ctx) : (s.setCtx c x).objects = s.objects := rfl
@[simp] theorem State.setCtx_objSeq (s : State) (c : CtxId) (x : Ctx) : (s.setCtx c x).objSeq = s.objSeq := rfl
@[simp] theorem State.setCtx_kernels (s : State) (c : CtxId) (x : Ctx) : (s.setCtx c x).kernels = s.kernels := rfl
@[simp] theorem State.setCtx_kidSeq (s : State) (c : CtxId) (x : Ctx) : (s.setCtx c x).kidSeq = s.kidSeq := rfl
@[simp] theorem State.setCtx_monq (s : State) (c : CtxId) (x : Ctx) : (s.setCtx c x).monq = s.monq := rfl
@[simp] theorem State.setCtx_log (s : State) (c : CtxId) (x : Ctx) : (s.setCtx c x).log = s.log := rfl
@[simp] theorem State.setCtx_msix (s : State) (c : CtxId) (x : Ctx) : (s.setCtx c x).msix = s.msix := rfl
@[simp] theorem State.setCtx_hostOut (s : State) (c : CtxId) (x : Ctx) : (s.setCtx c x).hostOut = s.hostOut := rfl
@[simp] theorem State.setCtx_mbStatus (s : State) (c : CtxId) (x : Ctx) : (s.setCtx c x).mbStatus = s.mbStatus := rfl
@[simp] theorem State.setCtx_bootst (s : State) (c : CtxId) (x : Ctx) : (s.setCtx c x).bootst = s.bootst := rfl
@[simp] theorem State.setCtx_measures (s : State) (c : CtxId) (x : Ctx) : (s.setCtx c x).measures = s.measures := rfl
@[simp] theorem State.setCtx_spdm (s : State) (c : CtxId) (x : Ctx) : (s.setCtx c x).spdm = s.spdm := rfl
@[simp] theorem State.setCtx_plim (s : State) (c : CtxId) (x : Ctx) : (s.setCtx c x).plim = s.plim := rfl
@[simp] theorem State.setCtx_clk (s : State) (c : CtxId) (x : Ctx) : (s.setCtx c x).clk = s.clk := rfl
@[simp] theorem State.setCtx_belowFor (s : State) (c : CtxId) (x : Ctx) : (s.setCtx c x).belowFor = s.belowFor := rfl
@[simp] theorem State.setCtx_throt (s : State) (c : CtxId) (x : Ctx) : (s.setCtx c x).throt = s.throt := rfl
@[simp] theorem State.setCtx_nRetired (s : State) (c : CtxId) (x : Ctx) : (s.setCtx c x).nRetired = s.nRetired := rfl
@[simp] theorem State.setCtx_ports (s : State) (c : CtxId) (x : Ctx) : (s.setCtx c x).ports = s.ports := rfl

/-! ### `setMe` -/

@[simp] theorem State.setMe_cycle (s : State) (x : Ctx) : (s.setMe x).cycle = s.cycle := rfl
@[simp] theorem State.setMe_turn (s : State) (x : Ctx) : (s.setMe x).turn = s.turn := rfl
@[simp] theorem State.setMe_cur (s : State) (x : Ctx) : (s.setMe x).cur = s.cur := rfl
@[simp] theorem State.setMe_draws (s : State) (x : Ctx) : (s.setMe x).draws = s.draws := rfl
@[simp] theorem State.setMe_choices (s : State) (x : Ctx) : (s.setMe x).choices = s.choices := rfl
@[simp] theorem State.setMe_cmdSeq (s : State) (x : Ctx) : (s.setMe x).cmdSeq = s.cmdSeq := rfl
@[simp] theorem State.setMe_inbox (s : State) (x : Ctx) : (s.setMe x).inbox = s.inbox := rfl
@[simp] theorem State.setMe_hostMem (s : State) (x : Ctx) : (s.setMe x).hostMem = s.hostMem := rfl
@[simp] theorem State.setMe_mem (s : State) (x : Ctx) : (s.setMe x).mem = s.mem := rfl
@[simp] theorem State.setMe_memOwner (s : State) (x : Ctx) : (s.setMe x).memOwner = s.memOwner := rfl
@[simp] theorem State.setMe_poison (s : State) (x : Ctx) : (s.setMe x).poison = s.poison := rfl
@[simp] theorem State.setMe_posted (s : State) (x : Ctx) : (s.setMe x).posted = s.posted := rfl
@[simp] theorem State.setMe_domains (s : State) (x : Ctx) : (s.setMe x).domains = s.domains := rfl
@[simp] theorem State.setMe_keySeq (s : State) (x : Ctx) : (s.setMe x).keySeq = s.keySeq := rfl
@[simp] theorem State.setMe_queues (s : State) (x : Ctx) : (s.setMe x).queues = s.queues := rfl
@[simp] theorem State.setMe_lastQueue (s : State) (x : Ctx) : (s.setMe x).lastQueue = s.lastQueue := rfl
@[simp] theorem State.setMe_chosen (s : State) (x : Ctx) : (s.setMe x).chosen = s.chosen := rfl
@[simp] theorem State.setMe_objects (s : State) (x : Ctx) : (s.setMe x).objects = s.objects := rfl
@[simp] theorem State.setMe_objSeq (s : State) (x : Ctx) : (s.setMe x).objSeq = s.objSeq := rfl
@[simp] theorem State.setMe_kernels (s : State) (x : Ctx) : (s.setMe x).kernels = s.kernels := rfl
@[simp] theorem State.setMe_kidSeq (s : State) (x : Ctx) : (s.setMe x).kidSeq = s.kidSeq := rfl
@[simp] theorem State.setMe_monq (s : State) (x : Ctx) : (s.setMe x).monq = s.monq := rfl
@[simp] theorem State.setMe_log (s : State) (x : Ctx) : (s.setMe x).log = s.log := rfl
@[simp] theorem State.setMe_msix (s : State) (x : Ctx) : (s.setMe x).msix = s.msix := rfl
@[simp] theorem State.setMe_hostOut (s : State) (x : Ctx) : (s.setMe x).hostOut = s.hostOut := rfl
@[simp] theorem State.setMe_mbStatus (s : State) (x : Ctx) : (s.setMe x).mbStatus = s.mbStatus := rfl
@[simp] theorem State.setMe_bootst (s : State) (x : Ctx) : (s.setMe x).bootst = s.bootst := rfl
@[simp] theorem State.setMe_measures (s : State) (x : Ctx) : (s.setMe x).measures = s.measures := rfl
@[simp] theorem State.setMe_spdm (s : State) (x : Ctx) : (s.setMe x).spdm = s.spdm := rfl
@[simp] theorem State.setMe_plim (s : State) (x : Ctx) : (s.setMe x).plim = s.plim := rfl
@[simp] theorem State.setMe_clk (s : State) (x : Ctx) : (s.setMe x).clk = s.clk := rfl
@[simp] theorem State.setMe_belowFor (s : State) (x : Ctx) : (s.setMe x).belowFor = s.belowFor := rfl
@[simp] theorem State.setMe_throt (s : State) (x : Ctx) : (s.setMe x).throt = s.throt := rfl
@[simp] theorem State.setMe_nRetired (s : State) (x : Ctx) : (s.setMe x).nRetired = s.nRetired := rfl
@[simp] theorem State.setMe_ports (s : State) (x : Ctx) : (s.setMe x).ports = s.ports := rfl

/-! ### `setMyCore` -/

@[simp] theorem State.setMyCore_cycle (s : State) (k : Core) : (s.setMyCore k).cycle = s.cycle := rfl
@[simp] theorem State.setMyCore_turn (s : State) (k : Core) : (s.setMyCore k).turn = s.turn := rfl
@[simp] theorem State.setMyCore_cur (s : State) (k : Core) : (s.setMyCore k).cur = s.cur := rfl
@[simp] theorem State.setMyCore_draws (s : State) (k : Core) : (s.setMyCore k).draws = s.draws := rfl
@[simp] theorem State.setMyCore_choices (s : State) (k : Core) : (s.setMyCore k).choices = s.choices := rfl
@[simp] theorem State.setMyCore_cmdSeq (s : State) (k : Core) : (s.setMyCore k).cmdSeq = s.cmdSeq := rfl
@[simp] theorem State.setMyCore_inbox (s : State) (k : Core) : (s.setMyCore k).inbox = s.inbox := rfl
@[simp] theorem State.setMyCore_hostMem (s : State) (k : Core) : (s.setMyCore k).hostMem = s.hostMem := rfl
@[simp] theorem State.setMyCore_mem (s : State) (k : Core) : (s.setMyCore k).mem = s.mem := rfl
@[simp] theorem State.setMyCore_memOwner (s : State) (k : Core) : (s.setMyCore k).memOwner = s.memOwner := rfl
@[simp] theorem State.setMyCore_poison (s : State) (k : Core) : (s.setMyCore k).poison = s.poison := rfl
@[simp] theorem State.setMyCore_posted (s : State) (k : Core) : (s.setMyCore k).posted = s.posted := rfl
@[simp] theorem State.setMyCore_domains (s : State) (k : Core) : (s.setMyCore k).domains = s.domains := rfl
@[simp] theorem State.setMyCore_keySeq (s : State) (k : Core) : (s.setMyCore k).keySeq = s.keySeq := rfl
@[simp] theorem State.setMyCore_queues (s : State) (k : Core) : (s.setMyCore k).queues = s.queues := rfl
@[simp] theorem State.setMyCore_lastQueue (s : State) (k : Core) : (s.setMyCore k).lastQueue = s.lastQueue := rfl
@[simp] theorem State.setMyCore_chosen (s : State) (k : Core) : (s.setMyCore k).chosen = s.chosen := rfl
@[simp] theorem State.setMyCore_objects (s : State) (k : Core) : (s.setMyCore k).objects = s.objects := rfl
@[simp] theorem State.setMyCore_objSeq (s : State) (k : Core) : (s.setMyCore k).objSeq = s.objSeq := rfl
@[simp] theorem State.setMyCore_kernels (s : State) (k : Core) : (s.setMyCore k).kernels = s.kernels := rfl
@[simp] theorem State.setMyCore_kidSeq (s : State) (k : Core) : (s.setMyCore k).kidSeq = s.kidSeq := rfl
@[simp] theorem State.setMyCore_monq (s : State) (k : Core) : (s.setMyCore k).monq = s.monq := rfl
@[simp] theorem State.setMyCore_log (s : State) (k : Core) : (s.setMyCore k).log = s.log := rfl
@[simp] theorem State.setMyCore_msix (s : State) (k : Core) : (s.setMyCore k).msix = s.msix := rfl
@[simp] theorem State.setMyCore_hostOut (s : State) (k : Core) : (s.setMyCore k).hostOut = s.hostOut := rfl
@[simp] theorem State.setMyCore_mbStatus (s : State) (k : Core) : (s.setMyCore k).mbStatus = s.mbStatus := rfl
@[simp] theorem State.setMyCore_bootst (s : State) (k : Core) : (s.setMyCore k).bootst = s.bootst := rfl
@[simp] theorem State.setMyCore_measures (s : State) (k : Core) : (s.setMyCore k).measures = s.measures := rfl
@[simp] theorem State.setMyCore_spdm (s : State) (k : Core) : (s.setMyCore k).spdm = s.spdm := rfl
@[simp] theorem State.setMyCore_plim (s : State) (k : Core) : (s.setMyCore k).plim = s.plim := rfl
@[simp] theorem State.setMyCore_clk (s : State) (k : Core) : (s.setMyCore k).clk = s.clk := rfl
@[simp] theorem State.setMyCore_belowFor (s : State) (k : Core) : (s.setMyCore k).belowFor = s.belowFor := rfl
@[simp] theorem State.setMyCore_throt (s : State) (k : Core) : (s.setMyCore k).throt = s.throt := rfl
@[simp] theorem State.setMyCore_nRetired (s : State) (k : Core) : (s.setMyCore k).nRetired = s.nRetired := rfl
@[simp] theorem State.setMyCore_ports (s : State) (k : Core) : (s.setMyCore k).ports = s.ports := rfl

/-! ### `onCore` -/

@[simp] theorem State.onCore_cycle (s : State) (n : CoreId) (f : Core → Core) : (s.onCore n f).cycle = s.cycle := rfl
@[simp] theorem State.onCore_turn (s : State) (n : CoreId) (f : Core → Core) : (s.onCore n f).turn = s.turn := rfl
@[simp] theorem State.onCore_cur (s : State) (n : CoreId) (f : Core → Core) : (s.onCore n f).cur = s.cur := rfl
@[simp] theorem State.onCore_draws (s : State) (n : CoreId) (f : Core → Core) : (s.onCore n f).draws = s.draws := rfl
@[simp] theorem State.onCore_choices (s : State) (n : CoreId) (f : Core → Core) : (s.onCore n f).choices = s.choices := rfl
@[simp] theorem State.onCore_cmdSeq (s : State) (n : CoreId) (f : Core → Core) : (s.onCore n f).cmdSeq = s.cmdSeq := rfl
@[simp] theorem State.onCore_inbox (s : State) (n : CoreId) (f : Core → Core) : (s.onCore n f).inbox = s.inbox := rfl
@[simp] theorem State.onCore_hostMem (s : State) (n : CoreId) (f : Core → Core) : (s.onCore n f).hostMem = s.hostMem := rfl
@[simp] theorem State.onCore_mem (s : State) (n : CoreId) (f : Core → Core) : (s.onCore n f).mem = s.mem := rfl
@[simp] theorem State.onCore_memOwner (s : State) (n : CoreId) (f : Core → Core) : (s.onCore n f).memOwner = s.memOwner := rfl
@[simp] theorem State.onCore_poison (s : State) (n : CoreId) (f : Core → Core) : (s.onCore n f).poison = s.poison := rfl
@[simp] theorem State.onCore_posted (s : State) (n : CoreId) (f : Core → Core) : (s.onCore n f).posted = s.posted := rfl
@[simp] theorem State.onCore_domains (s : State) (n : CoreId) (f : Core → Core) : (s.onCore n f).domains = s.domains := rfl
@[simp] theorem State.onCore_keySeq (s : State) (n : CoreId) (f : Core → Core) : (s.onCore n f).keySeq = s.keySeq := rfl
@[simp] theorem State.onCore_queues (s : State) (n : CoreId) (f : Core → Core) : (s.onCore n f).queues = s.queues := rfl
@[simp] theorem State.onCore_lastQueue (s : State) (n : CoreId) (f : Core → Core) : (s.onCore n f).lastQueue = s.lastQueue := rfl
@[simp] theorem State.onCore_chosen (s : State) (n : CoreId) (f : Core → Core) : (s.onCore n f).chosen = s.chosen := rfl
@[simp] theorem State.onCore_objects (s : State) (n : CoreId) (f : Core → Core) : (s.onCore n f).objects = s.objects := rfl
@[simp] theorem State.onCore_objSeq (s : State) (n : CoreId) (f : Core → Core) : (s.onCore n f).objSeq = s.objSeq := rfl
@[simp] theorem State.onCore_kernels (s : State) (n : CoreId) (f : Core → Core) : (s.onCore n f).kernels = s.kernels := rfl
@[simp] theorem State.onCore_kidSeq (s : State) (n : CoreId) (f : Core → Core) : (s.onCore n f).kidSeq = s.kidSeq := rfl
@[simp] theorem State.onCore_monq (s : State) (n : CoreId) (f : Core → Core) : (s.onCore n f).monq = s.monq := rfl
@[simp] theorem State.onCore_log (s : State) (n : CoreId) (f : Core → Core) : (s.onCore n f).log = s.log := rfl
@[simp] theorem State.onCore_msix (s : State) (n : CoreId) (f : Core → Core) : (s.onCore n f).msix = s.msix := rfl
@[simp] theorem State.onCore_hostOut (s : State) (n : CoreId) (f : Core → Core) : (s.onCore n f).hostOut = s.hostOut := rfl
@[simp] theorem State.onCore_mbStatus (s : State) (n : CoreId) (f : Core → Core) : (s.onCore n f).mbStatus = s.mbStatus := rfl
@[simp] theorem State.onCore_bootst (s : State) (n : CoreId) (f : Core → Core) : (s.onCore n f).bootst = s.bootst := rfl
@[simp] theorem State.onCore_measures (s : State) (n : CoreId) (f : Core → Core) : (s.onCore n f).measures = s.measures := rfl
@[simp] theorem State.onCore_spdm (s : State) (n : CoreId) (f : Core → Core) : (s.onCore n f).spdm = s.spdm := rfl
@[simp] theorem State.onCore_plim (s : State) (n : CoreId) (f : Core → Core) : (s.onCore n f).plim = s.plim := rfl
@[simp] theorem State.onCore_clk (s : State) (n : CoreId) (f : Core → Core) : (s.onCore n f).clk = s.clk := rfl
@[simp] theorem State.onCore_belowFor (s : State) (n : CoreId) (f : Core → Core) : (s.onCore n f).belowFor = s.belowFor := rfl
@[simp] theorem State.onCore_throt (s : State) (n : CoreId) (f : Core → Core) : (s.onCore n f).throt = s.throt := rfl
@[simp] theorem State.onCore_nRetired (s : State) (n : CoreId) (f : Core → Core) : (s.onCore n f).nRetired = s.nRetired := rfl
@[simp] theorem State.onCore_ports (s : State) (n : CoreId) (f : Core → Core) : (s.onCore n f).ports = s.ports := rfl

/-! ### `onGrid` -/

@[simp] theorem State.onGrid_cycle (s : State) (n : CoreId) (f : Grid → Grid) : (s.onGrid n f).cycle = s.cycle := rfl
@[simp] theorem State.onGrid_turn (s : State) (n : CoreId) (f : Grid → Grid) : (s.onGrid n f).turn = s.turn := rfl
@[simp] theorem State.onGrid_cur (s : State) (n : CoreId) (f : Grid → Grid) : (s.onGrid n f).cur = s.cur := rfl
@[simp] theorem State.onGrid_draws (s : State) (n : CoreId) (f : Grid → Grid) : (s.onGrid n f).draws = s.draws := rfl
@[simp] theorem State.onGrid_choices (s : State) (n : CoreId) (f : Grid → Grid) : (s.onGrid n f).choices = s.choices := rfl
@[simp] theorem State.onGrid_cmdSeq (s : State) (n : CoreId) (f : Grid → Grid) : (s.onGrid n f).cmdSeq = s.cmdSeq := rfl
@[simp] theorem State.onGrid_inbox (s : State) (n : CoreId) (f : Grid → Grid) : (s.onGrid n f).inbox = s.inbox := rfl
@[simp] theorem State.onGrid_hostMem (s : State) (n : CoreId) (f : Grid → Grid) : (s.onGrid n f).hostMem = s.hostMem := rfl
@[simp] theorem State.onGrid_mem (s : State) (n : CoreId) (f : Grid → Grid) : (s.onGrid n f).mem = s.mem := rfl
@[simp] theorem State.onGrid_memOwner (s : State) (n : CoreId) (f : Grid → Grid) : (s.onGrid n f).memOwner = s.memOwner := rfl
@[simp] theorem State.onGrid_poison (s : State) (n : CoreId) (f : Grid → Grid) : (s.onGrid n f).poison = s.poison := rfl
@[simp] theorem State.onGrid_posted (s : State) (n : CoreId) (f : Grid → Grid) : (s.onGrid n f).posted = s.posted := rfl
@[simp] theorem State.onGrid_domains (s : State) (n : CoreId) (f : Grid → Grid) : (s.onGrid n f).domains = s.domains := rfl
@[simp] theorem State.onGrid_keySeq (s : State) (n : CoreId) (f : Grid → Grid) : (s.onGrid n f).keySeq = s.keySeq := rfl
@[simp] theorem State.onGrid_queues (s : State) (n : CoreId) (f : Grid → Grid) : (s.onGrid n f).queues = s.queues := rfl
@[simp] theorem State.onGrid_lastQueue (s : State) (n : CoreId) (f : Grid → Grid) : (s.onGrid n f).lastQueue = s.lastQueue := rfl
@[simp] theorem State.onGrid_chosen (s : State) (n : CoreId) (f : Grid → Grid) : (s.onGrid n f).chosen = s.chosen := rfl
@[simp] theorem State.onGrid_objects (s : State) (n : CoreId) (f : Grid → Grid) : (s.onGrid n f).objects = s.objects := rfl
@[simp] theorem State.onGrid_objSeq (s : State) (n : CoreId) (f : Grid → Grid) : (s.onGrid n f).objSeq = s.objSeq := rfl
@[simp] theorem State.onGrid_kernels (s : State) (n : CoreId) (f : Grid → Grid) : (s.onGrid n f).kernels = s.kernels := rfl
@[simp] theorem State.onGrid_kidSeq (s : State) (n : CoreId) (f : Grid → Grid) : (s.onGrid n f).kidSeq = s.kidSeq := rfl
@[simp] theorem State.onGrid_monq (s : State) (n : CoreId) (f : Grid → Grid) : (s.onGrid n f).monq = s.monq := rfl
@[simp] theorem State.onGrid_log (s : State) (n : CoreId) (f : Grid → Grid) : (s.onGrid n f).log = s.log := rfl
@[simp] theorem State.onGrid_msix (s : State) (n : CoreId) (f : Grid → Grid) : (s.onGrid n f).msix = s.msix := rfl
@[simp] theorem State.onGrid_hostOut (s : State) (n : CoreId) (f : Grid → Grid) : (s.onGrid n f).hostOut = s.hostOut := rfl
@[simp] theorem State.onGrid_mbStatus (s : State) (n : CoreId) (f : Grid → Grid) : (s.onGrid n f).mbStatus = s.mbStatus := rfl
@[simp] theorem State.onGrid_bootst (s : State) (n : CoreId) (f : Grid → Grid) : (s.onGrid n f).bootst = s.bootst := rfl
@[simp] theorem State.onGrid_measures (s : State) (n : CoreId) (f : Grid → Grid) : (s.onGrid n f).measures = s.measures := rfl
@[simp] theorem State.onGrid_spdm (s : State) (n : CoreId) (f : Grid → Grid) : (s.onGrid n f).spdm = s.spdm := rfl
@[simp] theorem State.onGrid_plim (s : State) (n : CoreId) (f : Grid → Grid) : (s.onGrid n f).plim = s.plim := rfl
@[simp] theorem State.onGrid_clk (s : State) (n : CoreId) (f : Grid → Grid) : (s.onGrid n f).clk = s.clk := rfl
@[simp] theorem State.onGrid_belowFor (s : State) (n : CoreId) (f : Grid → Grid) : (s.onGrid n f).belowFor = s.belowFor := rfl
@[simp] theorem State.onGrid_throt (s : State) (n : CoreId) (f : Grid → Grid) : (s.onGrid n f).throt = s.throt := rfl
@[simp] theorem State.onGrid_nRetired (s : State) (n : CoreId) (f : Grid → Grid) : (s.onGrid n f).nRetired = s.nRetired := rfl
@[simp] theorem State.onGrid_ports (s : State) (n : CoreId) (f : Grid → Grid) : (s.onGrid n f).ports = s.ports := rfl

/-! ### `onMx` -/

@[simp] theorem State.onMx_cycle (s : State) (n : CoreId) (f : Matrix → Matrix) : (s.onMx n f).cycle = s.cycle := rfl
@[simp] theorem State.onMx_turn (s : State) (n : CoreId) (f : Matrix → Matrix) : (s.onMx n f).turn = s.turn := rfl
@[simp] theorem State.onMx_cur (s : State) (n : CoreId) (f : Matrix → Matrix) : (s.onMx n f).cur = s.cur := rfl
@[simp] theorem State.onMx_draws (s : State) (n : CoreId) (f : Matrix → Matrix) : (s.onMx n f).draws = s.draws := rfl
@[simp] theorem State.onMx_choices (s : State) (n : CoreId) (f : Matrix → Matrix) : (s.onMx n f).choices = s.choices := rfl
@[simp] theorem State.onMx_cmdSeq (s : State) (n : CoreId) (f : Matrix → Matrix) : (s.onMx n f).cmdSeq = s.cmdSeq := rfl
@[simp] theorem State.onMx_inbox (s : State) (n : CoreId) (f : Matrix → Matrix) : (s.onMx n f).inbox = s.inbox := rfl
@[simp] theorem State.onMx_hostMem (s : State) (n : CoreId) (f : Matrix → Matrix) : (s.onMx n f).hostMem = s.hostMem := rfl
@[simp] theorem State.onMx_mem (s : State) (n : CoreId) (f : Matrix → Matrix) : (s.onMx n f).mem = s.mem := rfl
@[simp] theorem State.onMx_memOwner (s : State) (n : CoreId) (f : Matrix → Matrix) : (s.onMx n f).memOwner = s.memOwner := rfl
@[simp] theorem State.onMx_poison (s : State) (n : CoreId) (f : Matrix → Matrix) : (s.onMx n f).poison = s.poison := rfl
@[simp] theorem State.onMx_posted (s : State) (n : CoreId) (f : Matrix → Matrix) : (s.onMx n f).posted = s.posted := rfl
@[simp] theorem State.onMx_domains (s : State) (n : CoreId) (f : Matrix → Matrix) : (s.onMx n f).domains = s.domains := rfl
@[simp] theorem State.onMx_keySeq (s : State) (n : CoreId) (f : Matrix → Matrix) : (s.onMx n f).keySeq = s.keySeq := rfl
@[simp] theorem State.onMx_queues (s : State) (n : CoreId) (f : Matrix → Matrix) : (s.onMx n f).queues = s.queues := rfl
@[simp] theorem State.onMx_lastQueue (s : State) (n : CoreId) (f : Matrix → Matrix) : (s.onMx n f).lastQueue = s.lastQueue := rfl
@[simp] theorem State.onMx_chosen (s : State) (n : CoreId) (f : Matrix → Matrix) : (s.onMx n f).chosen = s.chosen := rfl
@[simp] theorem State.onMx_objects (s : State) (n : CoreId) (f : Matrix → Matrix) : (s.onMx n f).objects = s.objects := rfl
@[simp] theorem State.onMx_objSeq (s : State) (n : CoreId) (f : Matrix → Matrix) : (s.onMx n f).objSeq = s.objSeq := rfl
@[simp] theorem State.onMx_kernels (s : State) (n : CoreId) (f : Matrix → Matrix) : (s.onMx n f).kernels = s.kernels := rfl
@[simp] theorem State.onMx_kidSeq (s : State) (n : CoreId) (f : Matrix → Matrix) : (s.onMx n f).kidSeq = s.kidSeq := rfl
@[simp] theorem State.onMx_monq (s : State) (n : CoreId) (f : Matrix → Matrix) : (s.onMx n f).monq = s.monq := rfl
@[simp] theorem State.onMx_log (s : State) (n : CoreId) (f : Matrix → Matrix) : (s.onMx n f).log = s.log := rfl
@[simp] theorem State.onMx_msix (s : State) (n : CoreId) (f : Matrix → Matrix) : (s.onMx n f).msix = s.msix := rfl
@[simp] theorem State.onMx_hostOut (s : State) (n : CoreId) (f : Matrix → Matrix) : (s.onMx n f).hostOut = s.hostOut := rfl
@[simp] theorem State.onMx_mbStatus (s : State) (n : CoreId) (f : Matrix → Matrix) : (s.onMx n f).mbStatus = s.mbStatus := rfl
@[simp] theorem State.onMx_bootst (s : State) (n : CoreId) (f : Matrix → Matrix) : (s.onMx n f).bootst = s.bootst := rfl
@[simp] theorem State.onMx_measures (s : State) (n : CoreId) (f : Matrix → Matrix) : (s.onMx n f).measures = s.measures := rfl
@[simp] theorem State.onMx_spdm (s : State) (n : CoreId) (f : Matrix → Matrix) : (s.onMx n f).spdm = s.spdm := rfl
@[simp] theorem State.onMx_plim (s : State) (n : CoreId) (f : Matrix → Matrix) : (s.onMx n f).plim = s.plim := rfl
@[simp] theorem State.onMx_clk (s : State) (n : CoreId) (f : Matrix → Matrix) : (s.onMx n f).clk = s.clk := rfl
@[simp] theorem State.onMx_belowFor (s : State) (n : CoreId) (f : Matrix → Matrix) : (s.onMx n f).belowFor = s.belowFor := rfl
@[simp] theorem State.onMx_throt (s : State) (n : CoreId) (f : Matrix → Matrix) : (s.onMx n f).throt = s.throt := rfl
@[simp] theorem State.onMx_nRetired (s : State) (n : CoreId) (f : Matrix → Matrix) : (s.onMx n f).nRetired = s.nRetired := rfl
@[simp] theorem State.onMx_ports (s : State) (n : CoreId) (f : Matrix → Matrix) : (s.onMx n f).ports = s.ports := rfl

/-! ### `onCtx` -/

@[simp] theorem State.onCtx_cycle (s : State) (c : CtxId) (f : Ctx → Ctx) : (s.onCtx c f).cycle = s.cycle := rfl
@[simp] theorem State.onCtx_turn (s : State) (c : CtxId) (f : Ctx → Ctx) : (s.onCtx c f).turn = s.turn := rfl
@[simp] theorem State.onCtx_cur (s : State) (c : CtxId) (f : Ctx → Ctx) : (s.onCtx c f).cur = s.cur := rfl
@[simp] theorem State.onCtx_draws (s : State) (c : CtxId) (f : Ctx → Ctx) : (s.onCtx c f).draws = s.draws := rfl
@[simp] theorem State.onCtx_choices (s : State) (c : CtxId) (f : Ctx → Ctx) : (s.onCtx c f).choices = s.choices := rfl
@[simp] theorem State.onCtx_cmdSeq (s : State) (c : CtxId) (f : Ctx → Ctx) : (s.onCtx c f).cmdSeq = s.cmdSeq := rfl
@[simp] theorem State.onCtx_inbox (s : State) (c : CtxId) (f : Ctx → Ctx) : (s.onCtx c f).inbox = s.inbox := rfl
@[simp] theorem State.onCtx_hostMem (s : State) (c : CtxId) (f : Ctx → Ctx) : (s.onCtx c f).hostMem = s.hostMem := rfl
@[simp] theorem State.onCtx_mem (s : State) (c : CtxId) (f : Ctx → Ctx) : (s.onCtx c f).mem = s.mem := rfl
@[simp] theorem State.onCtx_memOwner (s : State) (c : CtxId) (f : Ctx → Ctx) : (s.onCtx c f).memOwner = s.memOwner := rfl
@[simp] theorem State.onCtx_poison (s : State) (c : CtxId) (f : Ctx → Ctx) : (s.onCtx c f).poison = s.poison := rfl
@[simp] theorem State.onCtx_posted (s : State) (c : CtxId) (f : Ctx → Ctx) : (s.onCtx c f).posted = s.posted := rfl
@[simp] theorem State.onCtx_domains (s : State) (c : CtxId) (f : Ctx → Ctx) : (s.onCtx c f).domains = s.domains := rfl
@[simp] theorem State.onCtx_keySeq (s : State) (c : CtxId) (f : Ctx → Ctx) : (s.onCtx c f).keySeq = s.keySeq := rfl
@[simp] theorem State.onCtx_queues (s : State) (c : CtxId) (f : Ctx → Ctx) : (s.onCtx c f).queues = s.queues := rfl
@[simp] theorem State.onCtx_lastQueue (s : State) (c : CtxId) (f : Ctx → Ctx) : (s.onCtx c f).lastQueue = s.lastQueue := rfl
@[simp] theorem State.onCtx_chosen (s : State) (c : CtxId) (f : Ctx → Ctx) : (s.onCtx c f).chosen = s.chosen := rfl
@[simp] theorem State.onCtx_objects (s : State) (c : CtxId) (f : Ctx → Ctx) : (s.onCtx c f).objects = s.objects := rfl
@[simp] theorem State.onCtx_objSeq (s : State) (c : CtxId) (f : Ctx → Ctx) : (s.onCtx c f).objSeq = s.objSeq := rfl
@[simp] theorem State.onCtx_kernels (s : State) (c : CtxId) (f : Ctx → Ctx) : (s.onCtx c f).kernels = s.kernels := rfl
@[simp] theorem State.onCtx_kidSeq (s : State) (c : CtxId) (f : Ctx → Ctx) : (s.onCtx c f).kidSeq = s.kidSeq := rfl
@[simp] theorem State.onCtx_monq (s : State) (c : CtxId) (f : Ctx → Ctx) : (s.onCtx c f).monq = s.monq := rfl
@[simp] theorem State.onCtx_log (s : State) (c : CtxId) (f : Ctx → Ctx) : (s.onCtx c f).log = s.log := rfl
@[simp] theorem State.onCtx_msix (s : State) (c : CtxId) (f : Ctx → Ctx) : (s.onCtx c f).msix = s.msix := rfl
@[simp] theorem State.onCtx_hostOut (s : State) (c : CtxId) (f : Ctx → Ctx) : (s.onCtx c f).hostOut = s.hostOut := rfl
@[simp] theorem State.onCtx_mbStatus (s : State) (c : CtxId) (f : Ctx → Ctx) : (s.onCtx c f).mbStatus = s.mbStatus := rfl
@[simp] theorem State.onCtx_bootst (s : State) (c : CtxId) (f : Ctx → Ctx) : (s.onCtx c f).bootst = s.bootst := rfl
@[simp] theorem State.onCtx_measures (s : State) (c : CtxId) (f : Ctx → Ctx) : (s.onCtx c f).measures = s.measures := rfl
@[simp] theorem State.onCtx_spdm (s : State) (c : CtxId) (f : Ctx → Ctx) : (s.onCtx c f).spdm = s.spdm := rfl
@[simp] theorem State.onCtx_plim (s : State) (c : CtxId) (f : Ctx → Ctx) : (s.onCtx c f).plim = s.plim := rfl
@[simp] theorem State.onCtx_clk (s : State) (c : CtxId) (f : Ctx → Ctx) : (s.onCtx c f).clk = s.clk := rfl
@[simp] theorem State.onCtx_belowFor (s : State) (c : CtxId) (f : Ctx → Ctx) : (s.onCtx c f).belowFor = s.belowFor := rfl
@[simp] theorem State.onCtx_throt (s : State) (c : CtxId) (f : Ctx → Ctx) : (s.onCtx c f).throt = s.throt := rfl
@[simp] theorem State.onCtx_nRetired (s : State) (c : CtxId) (f : Ctx → Ctx) : (s.onCtx c f).nRetired = s.nRetired := rfl
@[simp] theorem State.onCtx_ports (s : State) (c : CtxId) (f : Ctx → Ctx) : (s.onCtx c f).ports = s.ports := rfl

/-! ### `setDomain` -/

@[simp] theorem State.setDomain_cycle (s : State) (d : DomNum) (x : Domain) : (s.setDomain d x).cycle = s.cycle := rfl
@[simp] theorem State.setDomain_turn (s : State) (d : DomNum) (x : Domain) : (s.setDomain d x).turn = s.turn := rfl
@[simp] theorem State.setDomain_cur (s : State) (d : DomNum) (x : Domain) : (s.setDomain d x).cur = s.cur := rfl
@[simp] theorem State.setDomain_draws (s : State) (d : DomNum) (x : Domain) : (s.setDomain d x).draws = s.draws := rfl
@[simp] theorem State.setDomain_choices (s : State) (d : DomNum) (x : Domain) : (s.setDomain d x).choices = s.choices := rfl
@[simp] theorem State.setDomain_cmdSeq (s : State) (d : DomNum) (x : Domain) : (s.setDomain d x).cmdSeq = s.cmdSeq := rfl
@[simp] theorem State.setDomain_inbox (s : State) (d : DomNum) (x : Domain) : (s.setDomain d x).inbox = s.inbox := rfl
@[simp] theorem State.setDomain_hostMem (s : State) (d : DomNum) (x : Domain) : (s.setDomain d x).hostMem = s.hostMem := rfl
@[simp] theorem State.setDomain_cores (s : State) (d : DomNum) (x : Domain) : (s.setDomain d x).cores = s.cores := rfl
@[simp] theorem State.setDomain_mem (s : State) (d : DomNum) (x : Domain) : (s.setDomain d x).mem = s.mem := rfl
@[simp] theorem State.setDomain_memOwner (s : State) (d : DomNum) (x : Domain) : (s.setDomain d x).memOwner = s.memOwner := rfl
@[simp] theorem State.setDomain_poison (s : State) (d : DomNum) (x : Domain) : (s.setDomain d x).poison = s.poison := rfl
@[simp] theorem State.setDomain_posted (s : State) (d : DomNum) (x : Domain) : (s.setDomain d x).posted = s.posted := rfl
@[simp] theorem State.setDomain_keySeq (s : State) (d : DomNum) (x : Domain) : (s.setDomain d x).keySeq = s.keySeq := rfl
@[simp] theorem State.setDomain_queues (s : State) (d : DomNum) (x : Domain) : (s.setDomain d x).queues = s.queues := rfl
@[simp] theorem State.setDomain_lastQueue (s : State) (d : DomNum) (x : Domain) : (s.setDomain d x).lastQueue = s.lastQueue := rfl
@[simp] theorem State.setDomain_chosen (s : State) (d : DomNum) (x : Domain) : (s.setDomain d x).chosen = s.chosen := rfl
@[simp] theorem State.setDomain_objects (s : State) (d : DomNum) (x : Domain) : (s.setDomain d x).objects = s.objects := rfl
@[simp] theorem State.setDomain_objSeq (s : State) (d : DomNum) (x : Domain) : (s.setDomain d x).objSeq = s.objSeq := rfl
@[simp] theorem State.setDomain_kernels (s : State) (d : DomNum) (x : Domain) : (s.setDomain d x).kernels = s.kernels := rfl
@[simp] theorem State.setDomain_kidSeq (s : State) (d : DomNum) (x : Domain) : (s.setDomain d x).kidSeq = s.kidSeq := rfl
@[simp] theorem State.setDomain_monq (s : State) (d : DomNum) (x : Domain) : (s.setDomain d x).monq = s.monq := rfl
@[simp] theorem State.setDomain_log (s : State) (d : DomNum) (x : Domain) : (s.setDomain d x).log = s.log := rfl
@[simp] theorem State.setDomain_msix (s : State) (d : DomNum) (x : Domain) : (s.setDomain d x).msix = s.msix := rfl
@[simp] theorem State.setDomain_hostOut (s : State) (d : DomNum) (x : Domain) : (s.setDomain d x).hostOut = s.hostOut := rfl
@[simp] theorem State.setDomain_mbStatus (s : State) (d : DomNum) (x : Domain) : (s.setDomain d x).mbStatus = s.mbStatus := rfl
@[simp] theorem State.setDomain_bootst (s : State) (d : DomNum) (x : Domain) : (s.setDomain d x).bootst = s.bootst := rfl
@[simp] theorem State.setDomain_measures (s : State) (d : DomNum) (x : Domain) : (s.setDomain d x).measures = s.measures := rfl
@[simp] theorem State.setDomain_spdm (s : State) (d : DomNum) (x : Domain) : (s.setDomain d x).spdm = s.spdm := rfl
@[simp] theorem State.setDomain_plim (s : State) (d : DomNum) (x : Domain) : (s.setDomain d x).plim = s.plim := rfl
@[simp] theorem State.setDomain_clk (s : State) (d : DomNum) (x : Domain) : (s.setDomain d x).clk = s.clk := rfl
@[simp] theorem State.setDomain_belowFor (s : State) (d : DomNum) (x : Domain) : (s.setDomain d x).belowFor = s.belowFor := rfl
@[simp] theorem State.setDomain_throt (s : State) (d : DomNum) (x : Domain) : (s.setDomain d x).throt = s.throt := rfl
@[simp] theorem State.setDomain_nRetired (s : State) (d : DomNum) (x : Domain) : (s.setDomain d x).nRetired = s.nRetired := rfl
@[simp] theorem State.setDomain_ports (s : State) (d : DomNum) (x : Domain) : (s.setDomain d x).ports = s.ports := rfl

/-! ### `setQueue` -/

@[simp] theorem State.setQueue_cycle (s : State) (q : BitVec 7) (x : Queue) : (s.setQueue q x).cycle = s.cycle := rfl
@[simp] theorem State.setQueue_turn (s : State) (q : BitVec 7) (x : Queue) : (s.setQueue q x).turn = s.turn := rfl
@[simp] theorem State.setQueue_cur (s : State) (q : BitVec 7) (x : Queue) : (s.setQueue q x).cur = s.cur := rfl
@[simp] theorem State.setQueue_draws (s : State) (q : BitVec 7) (x : Queue) : (s.setQueue q x).draws = s.draws := rfl
@[simp] theorem State.setQueue_choices (s : State) (q : BitVec 7) (x : Queue) : (s.setQueue q x).choices = s.choices := rfl
@[simp] theorem State.setQueue_cmdSeq (s : State) (q : BitVec 7) (x : Queue) : (s.setQueue q x).cmdSeq = s.cmdSeq := rfl
@[simp] theorem State.setQueue_inbox (s : State) (q : BitVec 7) (x : Queue) : (s.setQueue q x).inbox = s.inbox := rfl
@[simp] theorem State.setQueue_hostMem (s : State) (q : BitVec 7) (x : Queue) : (s.setQueue q x).hostMem = s.hostMem := rfl
@[simp] theorem State.setQueue_cores (s : State) (q : BitVec 7) (x : Queue) : (s.setQueue q x).cores = s.cores := rfl
@[simp] theorem State.setQueue_mem (s : State) (q : BitVec 7) (x : Queue) : (s.setQueue q x).mem = s.mem := rfl
@[simp] theorem State.setQueue_memOwner (s : State) (q : BitVec 7) (x : Queue) : (s.setQueue q x).memOwner = s.memOwner := rfl
@[simp] theorem State.setQueue_poison (s : State) (q : BitVec 7) (x : Queue) : (s.setQueue q x).poison = s.poison := rfl
@[simp] theorem State.setQueue_posted (s : State) (q : BitVec 7) (x : Queue) : (s.setQueue q x).posted = s.posted := rfl
@[simp] theorem State.setQueue_domains (s : State) (q : BitVec 7) (x : Queue) : (s.setQueue q x).domains = s.domains := rfl
@[simp] theorem State.setQueue_keySeq (s : State) (q : BitVec 7) (x : Queue) : (s.setQueue q x).keySeq = s.keySeq := rfl
@[simp] theorem State.setQueue_lastQueue (s : State) (q : BitVec 7) (x : Queue) : (s.setQueue q x).lastQueue = s.lastQueue := rfl
@[simp] theorem State.setQueue_chosen (s : State) (q : BitVec 7) (x : Queue) : (s.setQueue q x).chosen = s.chosen := rfl
@[simp] theorem State.setQueue_objects (s : State) (q : BitVec 7) (x : Queue) : (s.setQueue q x).objects = s.objects := rfl
@[simp] theorem State.setQueue_objSeq (s : State) (q : BitVec 7) (x : Queue) : (s.setQueue q x).objSeq = s.objSeq := rfl
@[simp] theorem State.setQueue_kernels (s : State) (q : BitVec 7) (x : Queue) : (s.setQueue q x).kernels = s.kernels := rfl
@[simp] theorem State.setQueue_kidSeq (s : State) (q : BitVec 7) (x : Queue) : (s.setQueue q x).kidSeq = s.kidSeq := rfl
@[simp] theorem State.setQueue_monq (s : State) (q : BitVec 7) (x : Queue) : (s.setQueue q x).monq = s.monq := rfl
@[simp] theorem State.setQueue_log (s : State) (q : BitVec 7) (x : Queue) : (s.setQueue q x).log = s.log := rfl
@[simp] theorem State.setQueue_msix (s : State) (q : BitVec 7) (x : Queue) : (s.setQueue q x).msix = s.msix := rfl
@[simp] theorem State.setQueue_hostOut (s : State) (q : BitVec 7) (x : Queue) : (s.setQueue q x).hostOut = s.hostOut := rfl
@[simp] theorem State.setQueue_mbStatus (s : State) (q : BitVec 7) (x : Queue) : (s.setQueue q x).mbStatus = s.mbStatus := rfl
@[simp] theorem State.setQueue_bootst (s : State) (q : BitVec 7) (x : Queue) : (s.setQueue q x).bootst = s.bootst := rfl
@[simp] theorem State.setQueue_measures (s : State) (q : BitVec 7) (x : Queue) : (s.setQueue q x).measures = s.measures := rfl
@[simp] theorem State.setQueue_spdm (s : State) (q : BitVec 7) (x : Queue) : (s.setQueue q x).spdm = s.spdm := rfl
@[simp] theorem State.setQueue_plim (s : State) (q : BitVec 7) (x : Queue) : (s.setQueue q x).plim = s.plim := rfl
@[simp] theorem State.setQueue_clk (s : State) (q : BitVec 7) (x : Queue) : (s.setQueue q x).clk = s.clk := rfl
@[simp] theorem State.setQueue_belowFor (s : State) (q : BitVec 7) (x : Queue) : (s.setQueue q x).belowFor = s.belowFor := rfl
@[simp] theorem State.setQueue_throt (s : State) (q : BitVec 7) (x : Queue) : (s.setQueue q x).throt = s.throt := rfl
@[simp] theorem State.setQueue_nRetired (s : State) (q : BitVec 7) (x : Queue) : (s.setQueue q x).nRetired = s.nRetired := rfl
@[simp] theorem State.setQueue_ports (s : State) (q : BitVec 7) (x : Queue) : (s.setQueue q x).ports = s.ports := rfl

/-! ### `bump` -/

@[simp] theorem State.bump_cycle (s : State) : (s.bump).cycle = s.cycle := rfl
@[simp] theorem State.bump_turn (s : State) : (s.bump).turn = s.turn := rfl
@[simp] theorem State.bump_cur (s : State) : (s.bump).cur = s.cur := rfl
@[simp] theorem State.bump_draws (s : State) : (s.bump).draws = s.draws := rfl
@[simp] theorem State.bump_choices (s : State) : (s.bump).choices = s.choices := rfl
@[simp] theorem State.bump_inbox (s : State) : (s.bump).inbox = s.inbox := rfl
@[simp] theorem State.bump_hostMem (s : State) : (s.bump).hostMem = s.hostMem := rfl
@[simp] theorem State.bump_cores (s : State) : (s.bump).cores = s.cores := rfl
@[simp] theorem State.bump_mem (s : State) : (s.bump).mem = s.mem := rfl
@[simp] theorem State.bump_memOwner (s : State) : (s.bump).memOwner = s.memOwner := rfl
@[simp] theorem State.bump_poison (s : State) : (s.bump).poison = s.poison := rfl
@[simp] theorem State.bump_posted (s : State) : (s.bump).posted = s.posted := rfl
@[simp] theorem State.bump_domains (s : State) : (s.bump).domains = s.domains := rfl
@[simp] theorem State.bump_keySeq (s : State) : (s.bump).keySeq = s.keySeq := rfl
@[simp] theorem State.bump_queues (s : State) : (s.bump).queues = s.queues := rfl
@[simp] theorem State.bump_lastQueue (s : State) : (s.bump).lastQueue = s.lastQueue := rfl
@[simp] theorem State.bump_chosen (s : State) : (s.bump).chosen = s.chosen := rfl
@[simp] theorem State.bump_objects (s : State) : (s.bump).objects = s.objects := rfl
@[simp] theorem State.bump_objSeq (s : State) : (s.bump).objSeq = s.objSeq := rfl
@[simp] theorem State.bump_kernels (s : State) : (s.bump).kernels = s.kernels := rfl
@[simp] theorem State.bump_kidSeq (s : State) : (s.bump).kidSeq = s.kidSeq := rfl
@[simp] theorem State.bump_monq (s : State) : (s.bump).monq = s.monq := rfl
@[simp] theorem State.bump_log (s : State) : (s.bump).log = s.log := rfl
@[simp] theorem State.bump_msix (s : State) : (s.bump).msix = s.msix := rfl
@[simp] theorem State.bump_hostOut (s : State) : (s.bump).hostOut = s.hostOut := rfl
@[simp] theorem State.bump_mbStatus (s : State) : (s.bump).mbStatus = s.mbStatus := rfl
@[simp] theorem State.bump_bootst (s : State) : (s.bump).bootst = s.bootst := rfl
@[simp] theorem State.bump_measures (s : State) : (s.bump).measures = s.measures := rfl
@[simp] theorem State.bump_spdm (s : State) : (s.bump).spdm = s.spdm := rfl
@[simp] theorem State.bump_plim (s : State) : (s.bump).plim = s.plim := rfl
@[simp] theorem State.bump_clk (s : State) : (s.bump).clk = s.clk := rfl
@[simp] theorem State.bump_belowFor (s : State) : (s.bump).belowFor = s.belowFor := rfl
@[simp] theorem State.bump_throt (s : State) : (s.bump).throt = s.throt := rfl
@[simp] theorem State.bump_nRetired (s : State) : (s.bump).nRetired = s.nRetired := rfl
@[simp] theorem State.bump_ports (s : State) : (s.bump).ports = s.ports := rfl

/-! ### `draw` -/

@[simp] theorem State.draw_cycle (s : State) : (s.draw).cycle = s.cycle := rfl
@[simp] theorem State.draw_turn (s : State) : (s.draw).turn = s.turn := rfl
@[simp] theorem State.draw_cur (s : State) : (s.draw).cur = s.cur := rfl
@[simp] theorem State.draw_choices (s : State) : (s.draw).choices = s.choices := rfl
@[simp] theorem State.draw_cmdSeq (s : State) : (s.draw).cmdSeq = s.cmdSeq := rfl
@[simp] theorem State.draw_inbox (s : State) : (s.draw).inbox = s.inbox := rfl
@[simp] theorem State.draw_hostMem (s : State) : (s.draw).hostMem = s.hostMem := rfl
@[simp] theorem State.draw_cores (s : State) : (s.draw).cores = s.cores := rfl
@[simp] theorem State.draw_mem (s : State) : (s.draw).mem = s.mem := rfl
@[simp] theorem State.draw_memOwner (s : State) : (s.draw).memOwner = s.memOwner := rfl
@[simp] theorem State.draw_poison (s : State) : (s.draw).poison = s.poison := rfl
@[simp] theorem State.draw_posted (s : State) : (s.draw).posted = s.posted := rfl
@[simp] theorem State.draw_domains (s : State) : (s.draw).domains = s.domains := rfl
@[simp] theorem State.draw_keySeq (s : State) : (s.draw).keySeq = s.keySeq := rfl
@[simp] theorem State.draw_queues (s : State) : (s.draw).queues = s.queues := rfl
@[simp] theorem State.draw_lastQueue (s : State) : (s.draw).lastQueue = s.lastQueue := rfl
@[simp] theorem State.draw_chosen (s : State) : (s.draw).chosen = s.chosen := rfl
@[simp] theorem State.draw_objects (s : State) : (s.draw).objects = s.objects := rfl
@[simp] theorem State.draw_objSeq (s : State) : (s.draw).objSeq = s.objSeq := rfl
@[simp] theorem State.draw_kernels (s : State) : (s.draw).kernels = s.kernels := rfl
@[simp] theorem State.draw_kidSeq (s : State) : (s.draw).kidSeq = s.kidSeq := rfl
@[simp] theorem State.draw_monq (s : State) : (s.draw).monq = s.monq := rfl
@[simp] theorem State.draw_log (s : State) : (s.draw).log = s.log := rfl
@[simp] theorem State.draw_msix (s : State) : (s.draw).msix = s.msix := rfl
@[simp] theorem State.draw_hostOut (s : State) : (s.draw).hostOut = s.hostOut := rfl
@[simp] theorem State.draw_mbStatus (s : State) : (s.draw).mbStatus = s.mbStatus := rfl
@[simp] theorem State.draw_bootst (s : State) : (s.draw).bootst = s.bootst := rfl
@[simp] theorem State.draw_measures (s : State) : (s.draw).measures = s.measures := rfl
@[simp] theorem State.draw_spdm (s : State) : (s.draw).spdm = s.spdm := rfl
@[simp] theorem State.draw_plim (s : State) : (s.draw).plim = s.plim := rfl
@[simp] theorem State.draw_clk (s : State) : (s.draw).clk = s.clk := rfl
@[simp] theorem State.draw_belowFor (s : State) : (s.draw).belowFor = s.belowFor := rfl
@[simp] theorem State.draw_throt (s : State) : (s.draw).throt = s.throt := rfl
@[simp] theorem State.draw_nRetired (s : State) : (s.draw).nRetired = s.nRetired := rfl
@[simp] theorem State.draw_ports (s : State) : (s.draw).ports = s.ports := rfl

/-! ### `post` -/

@[simp] theorem State.post_cycle (s : State) (d : DomNum) (a b : Word) : (s.post d a b).cycle = s.cycle := rfl
@[simp] theorem State.post_turn (s : State) (d : DomNum) (a b : Word) : (s.post d a b).turn = s.turn := rfl
@[simp] theorem State.post_cur (s : State) (d : DomNum) (a b : Word) : (s.post d a b).cur = s.cur := rfl
@[simp] theorem State.post_draws (s : State) (d : DomNum) (a b : Word) : (s.post d a b).draws = s.draws := rfl
@[simp] theorem State.post_choices (s : State) (d : DomNum) (a b : Word) : (s.post d a b).choices = s.choices := rfl
@[simp] theorem State.post_cmdSeq (s : State) (d : DomNum) (a b : Word) : (s.post d a b).cmdSeq = s.cmdSeq := rfl
@[simp] theorem State.post_inbox (s : State) (d : DomNum) (a b : Word) : (s.post d a b).inbox = s.inbox := rfl
@[simp] theorem State.post_hostMem (s : State) (d : DomNum) (a b : Word) : (s.post d a b).hostMem = s.hostMem := rfl
@[simp] theorem State.post_cores (s : State) (d : DomNum) (a b : Word) : (s.post d a b).cores = s.cores := rfl
@[simp] theorem State.post_mem (s : State) (d : DomNum) (a b : Word) : (s.post d a b).mem = s.mem := rfl
@[simp] theorem State.post_memOwner (s : State) (d : DomNum) (a b : Word) : (s.post d a b).memOwner = s.memOwner := rfl
@[simp] theorem State.post_poison (s : State) (d : DomNum) (a b : Word) : (s.post d a b).poison = s.poison := rfl
@[simp] theorem State.post_posted (s : State) (d : DomNum) (a b : Word) : (s.post d a b).posted = s.posted := rfl
@[simp] theorem State.post_domains (s : State) (d : DomNum) (a b : Word) : (s.post d a b).domains = s.domains := rfl
@[simp] theorem State.post_keySeq (s : State) (d : DomNum) (a b : Word) : (s.post d a b).keySeq = s.keySeq := rfl
@[simp] theorem State.post_queues (s : State) (d : DomNum) (a b : Word) : (s.post d a b).queues = s.queues := rfl
@[simp] theorem State.post_lastQueue (s : State) (d : DomNum) (a b : Word) : (s.post d a b).lastQueue = s.lastQueue := rfl
@[simp] theorem State.post_chosen (s : State) (d : DomNum) (a b : Word) : (s.post d a b).chosen = s.chosen := rfl
@[simp] theorem State.post_objects (s : State) (d : DomNum) (a b : Word) : (s.post d a b).objects = s.objects := rfl
@[simp] theorem State.post_objSeq (s : State) (d : DomNum) (a b : Word) : (s.post d a b).objSeq = s.objSeq := rfl
@[simp] theorem State.post_kernels (s : State) (d : DomNum) (a b : Word) : (s.post d a b).kernels = s.kernels := rfl
@[simp] theorem State.post_kidSeq (s : State) (d : DomNum) (a b : Word) : (s.post d a b).kidSeq = s.kidSeq := rfl
@[simp] theorem State.post_log (s : State) (d : DomNum) (a b : Word) : (s.post d a b).log = s.log := rfl
@[simp] theorem State.post_msix (s : State) (d : DomNum) (a b : Word) : (s.post d a b).msix = s.msix := rfl
@[simp] theorem State.post_hostOut (s : State) (d : DomNum) (a b : Word) : (s.post d a b).hostOut = s.hostOut := rfl
@[simp] theorem State.post_mbStatus (s : State) (d : DomNum) (a b : Word) : (s.post d a b).mbStatus = s.mbStatus := rfl
@[simp] theorem State.post_bootst (s : State) (d : DomNum) (a b : Word) : (s.post d a b).bootst = s.bootst := rfl
@[simp] theorem State.post_measures (s : State) (d : DomNum) (a b : Word) : (s.post d a b).measures = s.measures := rfl
@[simp] theorem State.post_spdm (s : State) (d : DomNum) (a b : Word) : (s.post d a b).spdm = s.spdm := rfl
@[simp] theorem State.post_plim (s : State) (d : DomNum) (a b : Word) : (s.post d a b).plim = s.plim := rfl
@[simp] theorem State.post_clk (s : State) (d : DomNum) (a b : Word) : (s.post d a b).clk = s.clk := rfl
@[simp] theorem State.post_belowFor (s : State) (d : DomNum) (a b : Word) : (s.post d a b).belowFor = s.belowFor := rfl
@[simp] theorem State.post_throt (s : State) (d : DomNum) (a b : Word) : (s.post d a b).throt = s.throt := rfl
@[simp] theorem State.post_nRetired (s : State) (d : DomNum) (a b : Word) : (s.post d a b).nRetired = s.nRetired := rfl
@[simp] theorem State.post_ports (s : State) (d : DomNum) (a b : Word) : (s.post d a b).ports = s.ports := rfl

/-! ### `performed` -/

@[simp] theorem State.performed_cycle (s : State) (c : CtxId) (kp : BitVec 4) (id : Nat) : (s.performed c kp id).cycle = s.cycle := rfl
@[simp] theorem State.performed_turn (s : State) (c : CtxId) (kp : BitVec 4) (id : Nat) : (s.performed c kp id).turn = s.turn := rfl
@[simp] theorem State.performed_cur (s : State) (c : CtxId) (kp : BitVec 4) (id : Nat) : (s.performed c kp id).cur = s.cur := rfl
@[simp] theorem State.performed_draws (s : State) (c : CtxId) (kp : BitVec 4) (id : Nat) : (s.performed c kp id).draws = s.draws := rfl
@[simp] theorem State.performed_choices (s : State) (c : CtxId) (kp : BitVec 4) (id : Nat) : (s.performed c kp id).choices = s.choices := rfl
@[simp] theorem State.performed_cmdSeq (s : State) (c : CtxId) (kp : BitVec 4) (id : Nat) : (s.performed c kp id).cmdSeq = s.cmdSeq := rfl
@[simp] theorem State.performed_inbox (s : State) (c : CtxId) (kp : BitVec 4) (id : Nat) : (s.performed c kp id).inbox = s.inbox := rfl
@[simp] theorem State.performed_hostMem (s : State) (c : CtxId) (kp : BitVec 4) (id : Nat) : (s.performed c kp id).hostMem = s.hostMem := rfl
@[simp] theorem State.performed_mem (s : State) (c : CtxId) (kp : BitVec 4) (id : Nat) : (s.performed c kp id).mem = s.mem := rfl
@[simp] theorem State.performed_memOwner (s : State) (c : CtxId) (kp : BitVec 4) (id : Nat) : (s.performed c kp id).memOwner = s.memOwner := rfl
@[simp] theorem State.performed_poison (s : State) (c : CtxId) (kp : BitVec 4) (id : Nat) : (s.performed c kp id).poison = s.poison := rfl
@[simp] theorem State.performed_posted (s : State) (c : CtxId) (kp : BitVec 4) (id : Nat) : (s.performed c kp id).posted = s.posted := rfl
@[simp] theorem State.performed_domains (s : State) (c : CtxId) (kp : BitVec 4) (id : Nat) : (s.performed c kp id).domains = s.domains := rfl
@[simp] theorem State.performed_keySeq (s : State) (c : CtxId) (kp : BitVec 4) (id : Nat) : (s.performed c kp id).keySeq = s.keySeq := rfl
@[simp] theorem State.performed_queues (s : State) (c : CtxId) (kp : BitVec 4) (id : Nat) : (s.performed c kp id).queues = s.queues := rfl
@[simp] theorem State.performed_lastQueue (s : State) (c : CtxId) (kp : BitVec 4) (id : Nat) : (s.performed c kp id).lastQueue = s.lastQueue := rfl
@[simp] theorem State.performed_chosen (s : State) (c : CtxId) (kp : BitVec 4) (id : Nat) : (s.performed c kp id).chosen = s.chosen := rfl
@[simp] theorem State.performed_objects (s : State) (c : CtxId) (kp : BitVec 4) (id : Nat) : (s.performed c kp id).objects = s.objects := rfl
@[simp] theorem State.performed_objSeq (s : State) (c : CtxId) (kp : BitVec 4) (id : Nat) : (s.performed c kp id).objSeq = s.objSeq := rfl
@[simp] theorem State.performed_kernels (s : State) (c : CtxId) (kp : BitVec 4) (id : Nat) : (s.performed c kp id).kernels = s.kernels := rfl
@[simp] theorem State.performed_kidSeq (s : State) (c : CtxId) (kp : BitVec 4) (id : Nat) : (s.performed c kp id).kidSeq = s.kidSeq := rfl
@[simp] theorem State.performed_monq (s : State) (c : CtxId) (kp : BitVec 4) (id : Nat) : (s.performed c kp id).monq = s.monq := rfl
@[simp] theorem State.performed_log (s : State) (c : CtxId) (kp : BitVec 4) (id : Nat) : (s.performed c kp id).log = s.log := rfl
@[simp] theorem State.performed_msix (s : State) (c : CtxId) (kp : BitVec 4) (id : Nat) : (s.performed c kp id).msix = s.msix := rfl
@[simp] theorem State.performed_hostOut (s : State) (c : CtxId) (kp : BitVec 4) (id : Nat) : (s.performed c kp id).hostOut = s.hostOut := rfl
@[simp] theorem State.performed_mbStatus (s : State) (c : CtxId) (kp : BitVec 4) (id : Nat) : (s.performed c kp id).mbStatus = s.mbStatus := rfl
@[simp] theorem State.performed_bootst (s : State) (c : CtxId) (kp : BitVec 4) (id : Nat) : (s.performed c kp id).bootst = s.bootst := rfl
@[simp] theorem State.performed_measures (s : State) (c : CtxId) (kp : BitVec 4) (id : Nat) : (s.performed c kp id).measures = s.measures := rfl
@[simp] theorem State.performed_spdm (s : State) (c : CtxId) (kp : BitVec 4) (id : Nat) : (s.performed c kp id).spdm = s.spdm := rfl
@[simp] theorem State.performed_plim (s : State) (c : CtxId) (kp : BitVec 4) (id : Nat) : (s.performed c kp id).plim = s.plim := rfl
@[simp] theorem State.performed_clk (s : State) (c : CtxId) (kp : BitVec 4) (id : Nat) : (s.performed c kp id).clk = s.clk := rfl
@[simp] theorem State.performed_belowFor (s : State) (c : CtxId) (kp : BitVec 4) (id : Nat) : (s.performed c kp id).belowFor = s.belowFor := rfl
@[simp] theorem State.performed_throt (s : State) (c : CtxId) (kp : BitVec 4) (id : Nat) : (s.performed c kp id).throt = s.throt := rfl
@[simp] theorem State.performed_nRetired (s : State) (c : CtxId) (kp : BitVec 4) (id : Nat) : (s.performed c kp id).nRetired = s.nRetired := rfl
@[simp] theorem State.performed_ports (s : State) (c : CtxId) (kp : BitVec 4) (id : Nat) : (s.performed c kp id).ports = s.ports := rfl

/-! ### `cpWrite` -/

@[simp] theorem State.cpWrite_cycle (s : State) (n : CoreId) (key p : Nat) (bs : List Byte) : (s.cpWrite n key p bs).cycle = s.cycle := rfl
@[simp] theorem State.cpWrite_turn (s : State) (n : CoreId) (key p : Nat) (bs : List Byte) : (s.cpWrite n key p bs).turn = s.turn := rfl
@[simp] theorem State.cpWrite_cur (s : State) (n : CoreId) (key p : Nat) (bs : List Byte) : (s.cpWrite n key p bs).cur = s.cur := rfl
@[simp] theorem State.cpWrite_draws (s : State) (n : CoreId) (key p : Nat) (bs : List Byte) : (s.cpWrite n key p bs).draws = s.draws := rfl
@[simp] theorem State.cpWrite_choices (s : State) (n : CoreId) (key p : Nat) (bs : List Byte) : (s.cpWrite n key p bs).choices = s.choices := rfl
@[simp] theorem State.cpWrite_cmdSeq (s : State) (n : CoreId) (key p : Nat) (bs : List Byte) : (s.cpWrite n key p bs).cmdSeq = s.cmdSeq := rfl
@[simp] theorem State.cpWrite_inbox (s : State) (n : CoreId) (key p : Nat) (bs : List Byte) : (s.cpWrite n key p bs).inbox = s.inbox := rfl
@[simp] theorem State.cpWrite_hostMem (s : State) (n : CoreId) (key p : Nat) (bs : List Byte) : (s.cpWrite n key p bs).hostMem = s.hostMem := rfl
@[simp] theorem State.cpWrite_mem (s : State) (n : CoreId) (key p : Nat) (bs : List Byte) : (s.cpWrite n key p bs).mem = s.mem := rfl
@[simp] theorem State.cpWrite_memOwner (s : State) (n : CoreId) (key p : Nat) (bs : List Byte) : (s.cpWrite n key p bs).memOwner = s.memOwner := rfl
@[simp] theorem State.cpWrite_poison (s : State) (n : CoreId) (key p : Nat) (bs : List Byte) : (s.cpWrite n key p bs).poison = s.poison := rfl
@[simp] theorem State.cpWrite_posted (s : State) (n : CoreId) (key p : Nat) (bs : List Byte) : (s.cpWrite n key p bs).posted = s.posted := rfl
@[simp] theorem State.cpWrite_domains (s : State) (n : CoreId) (key p : Nat) (bs : List Byte) : (s.cpWrite n key p bs).domains = s.domains := rfl
@[simp] theorem State.cpWrite_keySeq (s : State) (n : CoreId) (key p : Nat) (bs : List Byte) : (s.cpWrite n key p bs).keySeq = s.keySeq := rfl
@[simp] theorem State.cpWrite_queues (s : State) (n : CoreId) (key p : Nat) (bs : List Byte) : (s.cpWrite n key p bs).queues = s.queues := rfl
@[simp] theorem State.cpWrite_lastQueue (s : State) (n : CoreId) (key p : Nat) (bs : List Byte) : (s.cpWrite n key p bs).lastQueue = s.lastQueue := rfl
@[simp] theorem State.cpWrite_chosen (s : State) (n : CoreId) (key p : Nat) (bs : List Byte) : (s.cpWrite n key p bs).chosen = s.chosen := rfl
@[simp] theorem State.cpWrite_objects (s : State) (n : CoreId) (key p : Nat) (bs : List Byte) : (s.cpWrite n key p bs).objects = s.objects := rfl
@[simp] theorem State.cpWrite_objSeq (s : State) (n : CoreId) (key p : Nat) (bs : List Byte) : (s.cpWrite n key p bs).objSeq = s.objSeq := rfl
@[simp] theorem State.cpWrite_kernels (s : State) (n : CoreId) (key p : Nat) (bs : List Byte) : (s.cpWrite n key p bs).kernels = s.kernels := rfl
@[simp] theorem State.cpWrite_kidSeq (s : State) (n : CoreId) (key p : Nat) (bs : List Byte) : (s.cpWrite n key p bs).kidSeq = s.kidSeq := rfl
@[simp] theorem State.cpWrite_monq (s : State) (n : CoreId) (key p : Nat) (bs : List Byte) : (s.cpWrite n key p bs).monq = s.monq := rfl
@[simp] theorem State.cpWrite_log (s : State) (n : CoreId) (key p : Nat) (bs : List Byte) : (s.cpWrite n key p bs).log = s.log := rfl
@[simp] theorem State.cpWrite_msix (s : State) (n : CoreId) (key p : Nat) (bs : List Byte) : (s.cpWrite n key p bs).msix = s.msix := rfl
@[simp] theorem State.cpWrite_hostOut (s : State) (n : CoreId) (key p : Nat) (bs : List Byte) : (s.cpWrite n key p bs).hostOut = s.hostOut := rfl
@[simp] theorem State.cpWrite_mbStatus (s : State) (n : CoreId) (key p : Nat) (bs : List Byte) : (s.cpWrite n key p bs).mbStatus = s.mbStatus := rfl
@[simp] theorem State.cpWrite_bootst (s : State) (n : CoreId) (key p : Nat) (bs : List Byte) : (s.cpWrite n key p bs).bootst = s.bootst := rfl
@[simp] theorem State.cpWrite_measures (s : State) (n : CoreId) (key p : Nat) (bs : List Byte) : (s.cpWrite n key p bs).measures = s.measures := rfl
@[simp] theorem State.cpWrite_spdm (s : State) (n : CoreId) (key p : Nat) (bs : List Byte) : (s.cpWrite n key p bs).spdm = s.spdm := rfl
@[simp] theorem State.cpWrite_plim (s : State) (n : CoreId) (key p : Nat) (bs : List Byte) : (s.cpWrite n key p bs).plim = s.plim := rfl
@[simp] theorem State.cpWrite_clk (s : State) (n : CoreId) (key p : Nat) (bs : List Byte) : (s.cpWrite n key p bs).clk = s.clk := rfl
@[simp] theorem State.cpWrite_belowFor (s : State) (n : CoreId) (key p : Nat) (bs : List Byte) : (s.cpWrite n key p bs).belowFor = s.belowFor := rfl
@[simp] theorem State.cpWrite_throt (s : State) (n : CoreId) (key p : Nat) (bs : List Byte) : (s.cpWrite n key p bs).throt = s.throt := rfl
@[simp] theorem State.cpWrite_nRetired (s : State) (n : CoreId) (key p : Nat) (bs : List Byte) : (s.cpWrite n key p bs).nRetired = s.nRetired := rfl
@[simp] theorem State.cpWrite_ports (s : State) (n : CoreId) (key p : Nat) (bs : List Byte) : (s.cpWrite n key p bs).ports = s.ports := rfl

/-! ### Reading back a core, a context, a domain, a queue -/

@[simp] theorem State.core_setCore (s : State) (n : CoreId) (k : Core) : (s.setCore n k).core n = k := by
  simp [State.core, State.setCore]

theorem State.core_setCore_of_ne (s : State) {n m : CoreId} (k : Core) (h : n ≠ m) :
    (s.setCore n k).core m = s.core m := by
  simp only [State.core, State.setCore]
  exact Vector.getElem_set_ne _ _ (fun e => h (Fin.ext e))

@[simp] theorem State.ctx_setCtx (s : State) (c : CtxId) (x : Ctx) : (s.setCtx c x).ctx c = x := by
  simp [State.ctx, State.setCtx]

/-- Writing a context changes nothing of its core but the context. -/
theorem State.core_setCtx (s : State) (c : CtxId) (x : Ctx) :
    (s.setCtx c x).core c.core = { s.core c.core with ctxs := (s.core c.core).ctxs.set c.ctx.val x c.ctx.isLt } := by
  simp [State.setCtx]

/-- Writing a context changes no other core. -/
theorem State.core_setCtx_of_ne (s : State) {c : CtxId} {m : CoreId} (x : Ctx) (h : c.core ≠ m) :
    (s.setCtx c x).core m = s.core m := s.core_setCore_of_ne _ h

theorem State.ctx_setCtx_of_ne (s : State) {c o : CtxId} (x : Ctx) (h : c ≠ o) : (s.setCtx c x).ctx o = s.ctx o := by
  obtain ⟨n, i⟩ := c
  obtain ⟨m, j⟩ := o
  by_cases hn : n = m
  · subst hn
    have hi : i.val ≠ j.val := fun e => h (by rw [Fin.ext e])
    have hc : ((s.setCtx ⟨n, i⟩ x).core n).ctxs = (s.core n).ctxs.set i.val x i.isLt := by
      rw [s.core_setCtx ⟨n, i⟩ x]
    simp only [State.ctx, hc]
    exact Vector.getElem_set_ne _ _ hi
  · simp only [State.ctx]
    rw [s.core_setCtx_of_ne (c := ⟨n, i⟩) x hn]

@[simp] theorem State.me_setMe (s : State) (x : Ctx) : (s.setMe x).me = x := by
  simp [State.me, State.setMe]

/-- Writing the context of the bundle changes no other context. -/
theorem State.ctx_setMe_of_ne (s : State) {o : CtxId} (x : Ctx) (h : s.cur ≠ o) : (s.setMe x).ctx o = s.ctx o :=
  s.ctx_setCtx_of_ne x h

@[simp] theorem State.domain_setDomain (s : State) (d : DomNum) (x : Domain) : (s.setDomain d x).domain d = x := by
  simp [State.domain, State.setDomain]

theorem State.domain_setDomain_of_ne (s : State) {d e : DomNum} (x : Domain) (h : d ≠ e) :
    (s.setDomain d x).domain e = s.domain e := by
  simp only [State.domain, State.setDomain]
  exact Vector.getElem_set_ne _ _ (fun h' => h (BitVec.eq_of_toNat_eq h'))

@[simp] theorem State.queue_setQueue (s : State) (q : BitVec 7) (x : Queue) : (s.setQueue q x).queue q = x := by
  simp [State.queue, State.setQueue]

theorem State.queue_setQueue_of_ne (s : State) {q r : BitVec 7} (x : Queue) (h : q ≠ r) :
    (s.setQueue q x).queue r = s.queue r := by
  simp only [State.queue, State.setQueue]
  exact Vector.getElem_set_ne _ _ (fun h' => h (BitVec.eq_of_toNat_eq h'))

/-! ### The hard-wired registers -/

/-- x0 reads 0 (R95). -/
@[simp] theorem Ctx.rx_zero (x : Ctx) : x.rx 0 = 0 := rfl

/-- p0 reads true (R95). -/
@[simp] theorem Ctx.rp_zero (x : Ctx) : x.rp 0 = true := rfl

/-- p1 reads false (R95). -/
@[simp] theorem Ctx.rp_one (x : Ctx) : x.rp 1 = false := rfl

/-- k0 reads set (R95). -/
@[simp] theorem Ctx.rk_zero (x : Ctx) : x.rk 0 = true := rfl

/-- A result for x0, p0 or p1 enters no flight (R95). -/
theorem Ctx.enter_discarded (x : Ctx) (d : Dest) (v : Word) (n : Nat) (q : Bool) (h : d.discarded = true) :
    x.enter d v n q = x := by
  simp [Ctx.enter, h]

/-- A result for another register is the last record in flight (R110, R113). -/
theorem Ctx.enter_land (x : Ctx) (d : Dest) (v : Word) (n : Nat) (q : Bool) (h : d.discarded = false) :
    x.enter d v n q = { x with land := x.land ++ [{ dest := d, value := v, rem := n - 1, sq := q }] } := by
  simp [Ctx.enter, h]

end Sys2Proof.Machine
end

