-- ==== Sys2Proof/Safety.lean ====
section
/-! DEFINITION. What a sound state and a safe run are. -/

namespace Sys2Proof

namespace Machine

/-- A sound state: device memory has its canonical form (log entry 4), so that equal memories are equal data. -/
def State.sound (s : State) : Prop := s.mem.wf = true

/-- A slot issues and has its effect: its guard reads true, and either its bundle has passed its checks and waits, or the slot
itself meets no fault, no deferred fault, no wait, and no fault of translation (R41, R106, R293, R306, R331). -/
def slotIssues (i : Instr) (g : Pred) (s : State) : Prop :=
  s.me.rp g = true ∧
    (s.me.admitted = true ∨ (slotCheck i s = none ∧ s.slotDue i = none ∧ slotWaits i s = false ∧ slotXlat i s = none))

/-- An outcome that is a next state with a property. -/
def Out.nextWith (o : Out) (P : State → Prop) : Prop := ∃ t, o = .next t ∧ P t

end Machine

/-- A run of `k` steps from a state is safe: it meets neither a fault nor a refusal, and its last state has the property. -/
def SafeRun (P : Machine.State → Prop) (k : Nat) (s : Machine.State) : Prop :=
  Machine.Out.nextWith (core.run k s) P

end Sys2Proof
end

