-- ==== Sys2Proof/Laws/Issue.lean ====
section
/-! SUPPORT. What the shared operations of an issuing slot can do, once for each: callers cite these and unfold nothing. -/

namespace Sys2Proof.Machine

/-! ### Contexts read back -/

theorem State.setMe_me (s : State) : s.setMe s.me = s := by
  have h : (s.core s.cur.core).ctxs.set s.cur.ctx.val ((s.core s.cur.core).ctxs[s.cur.ctx.val]'s.cur.ctx.isLt)
      s.cur.ctx.isLt = (s.core s.cur.core).ctxs := Vector.set_getElem_self ..
  have h' : s.cores.set s.cur.core.val (s.cores[s.cur.core.val]'s.cur.core.isLt) s.cur.core.isLt = s.cores :=
    Vector.set_getElem_self ..
  unfold State.setMe State.setCtx State.me State.ctx
  dsimp only
  rw [h]
  unfold State.setCore State.core
  rw [h']

theorem State.setMe_setMe (s : State) (x y : Ctx) : (s.setMe x).setMe y = s.setMe y := by
  simp [State.setMe, State.setCtx, State.core, State.setCore]

/-! ### Results -/

/-- A result changes nothing of its context but the results in flight. -/
theorem Ctx.enter_frame (x : Ctx) (d : Dest) (v : Word) (n : Nat) (q : Bool) :
    { x.enter d v n q with land := x.land } = x := by
  unfold Ctx.enter
  split <;> rfl

theorem result_discarded {d : Dest} (v : Word) (n : Nat) (q : Bool) (s : State)
    (h : d.discarded = true) :
    result d v n q s = s := by
  rw [result, Ctx.enter_discarded _ _ v n q h, State.setMe_me]

/-! ### Slots that always issue -/

theorem issuePlain_true {g : Pred} {s : State} (eff : State → State) (h : s.me.rp g = true) :
    issuePlain g eff s = .next (eff s) := by simp [issuePlain, h]

theorem issuePlain_false {g : Pred} {s : State} (eff : State → State) (h : s.me.rp g = false) :
    issuePlain g eff s = .next s := by simp [issuePlain, h]

theorem scalar_true {g : Pred} {s : State} (q : Bool) (d : Reg) (n : Nat) (f : Ctx → Word) (h : s.me.rp g = true) :
    scalar g q d n f s = .next (result (.x d) (f s.me) n q s) := issuePlain_true _ h

theorem compare_true {g : Pred} {s : State} (q : Bool) (pd : PredPair) (f : Ctx → Bool) (h : s.me.rp g = true) :
    compare g q pd f s = .next (result (.pair pd) (ofBool (f s.me)) 1 q s) := issuePlain_true _ h

theorem predicate_true {g : Pred} {s : State} (q : Bool) (d : Pred) (f : Ctx → Bool) (h : s.me.rp g = true) :
    predicate g q d f s = .next (result (.pred d) (ofBool (f s.me)) 1 q s) := issuePlain_true _ h

theorem scalar_false {g : Pred} {s : State} (q : Bool) (d : Reg) (n : Nat) (f : Ctx → Word) (h : s.me.rp g = false) :
    scalar g q d n f s = .next s := issuePlain_false _ h

theorem compare_false {g : Pred} {s : State} (q : Bool) (pd : PredPair) (f : Ctx → Bool) (h : s.me.rp g = false) :
    compare g q pd f s = .next s := issuePlain_false _ h

theorem predicate_false {g : Pred} {s : State} (q : Bool) (d : Pred) (f : Ctx → Bool) (h : s.me.rp g = false) :
    predicate g q d f s = .next s := issuePlain_false _ h

/-! ### Slots with checks and waits -/

/-- Under a false guard a slot has no effect (R106). -/
theorem issue_false {i : Instr} {g : Pred} {s : State} (eff : State → State) (h : s.me.rp g = false) :
    issue i g eff s = .next s := by simp [issue, h]

/-- A slot that issues has its effect. -/
theorem issue_effect {i : Instr} {g : Pred} {s : State} (eff : State → State) (h : slotIssues i g s) :
    issue i g eff s = .next (eff s) := by
  obtain ⟨hg, ha | ⟨hc, hd, hw, hx⟩⟩ := h
  · simp [issue, hg, ha]
  · simp [issue, hg, hc, hd, hw, hx]

/-- A slot that fails its check takes the trap, and has no other effect (R293, R296). -/
theorem issue_trap {i : Instr} {g : Pred} {s : State} {t : TrapInfo} (eff : State → State) (hg : s.me.rp g = true)
    (ha : s.me.admitted = false) (hc : slotCheck i s = some t) : issue i g eff s = .next (s.takeTrap s.cur t) := by
  simp [issue, hg, ha, hc]

/-- A slot that meets a deferred fault delivers it (R306). -/
theorem issue_deliver {i : Instr} {g : Pred} {s : State} {f : PendFault} (eff : State → State) (hg : s.me.rp g = true)
    (ha : s.me.admitted = false) (hc : slotCheck i s = none) (hd : s.slotDue i = some f) :
    issue i g eff s = .next (s.deliver s.cur f s.me.here s.me.pendingTarget) := by
  simp [issue, hg, ha, hc, hd]

/-- A slot that waits leaves its note (R41). -/
theorem issue_wait {i : Instr} {g : Pred} {s : State} (eff : State → State) (hg : s.me.rp g = true)
    (ha : s.me.admitted = false) (hc : slotCheck i s = none) (hd : s.slotDue i = none) (hw : slotWaits i s = true) :
    issue i g eff s = .next (slotNote i s) := by
  simp [issue, hg, ha, hc, hd, hw]

/-- A slot whose access fails in translation takes the trap as it issues (R331). -/
theorem issue_xlat {i : Instr} {g : Pred} {s : State} {t : TrapInfo} (eff : State → State) (hg : s.me.rp g = true)
    (ha : s.me.admitted = false) (hc : slotCheck i s = none) (hd : s.slotDue i = none) (hw : slotWaits i s = false)
    (hx : slotXlat i s = some t) : issue i g eff s = .next (s.takeTrap s.cur t) := by
  simp [issue, hg, ha, hc, hd, hw, hx]

/-- Everything a slot with checks can do. -/
theorem issue_cases {i : Instr} {g : Pred} {eff : State → State} {s t : State} (h : issue i g eff s = .next t) :
    (s.me.rp g = false ∧ t = s) ∨ (slotIssues i g s ∧ t = eff s) ∨
    (∃ f, s.me.rp g = true ∧ s.me.admitted = false ∧ slotCheck i s = some f ∧ t = s.takeTrap s.cur f) ∨
    (∃ f, s.me.rp g = true ∧ s.me.admitted = false ∧ slotCheck i s = none ∧ s.slotDue i = some f ∧
      t = s.deliver s.cur f s.me.here s.me.pendingTarget) ∨
    (s.me.rp g = true ∧ s.me.admitted = false ∧ slotCheck i s = none ∧ s.slotDue i = none ∧ slotWaits i s = true ∧
      t = slotNote i s) ∨
    (∃ f, s.me.rp g = true ∧ s.me.admitted = false ∧ slotCheck i s = none ∧ s.slotDue i = none ∧ slotWaits i s = false ∧
      slotXlat i s = some f ∧ t = s.takeTrap s.cur f) := by
  cases hg : s.me.rp g with
  | false => rw [issue_false eff hg] at h; cases h; exact .inl ⟨rfl, rfl⟩
  | true =>
    cases ha : s.me.admitted with
    | true =>
      have hi : slotIssues i g s := ⟨hg, .inl ha⟩
      rw [issue_effect eff hi] at h; cases h; exact .inr (.inl ⟨hi, rfl⟩)
    | false =>
      cases hc : slotCheck i s with
      | some f => rw [issue_trap eff hg ha hc] at h; cases h; exact .inr (.inr (.inl ⟨f, rfl, rfl, rfl, rfl⟩))
      | none =>
        cases hd : s.slotDue i with
        | some f =>
          rw [issue_deliver eff hg ha hc hd] at h; cases h
          exact .inr (.inr (.inr (.inl ⟨f, rfl, rfl, rfl, rfl, rfl⟩)))
        | none =>
          cases hw : slotWaits i s with
          | true =>
            rw [issue_wait eff hg ha hc hd hw] at h; cases h
            exact .inr (.inr (.inr (.inr (.inl ⟨rfl, rfl, rfl, rfl, rfl, rfl⟩))))
          | false =>
            cases hx : slotXlat i s with
            | some f =>
              rw [issue_xlat eff hg ha hc hd hw hx] at h; cases h
              exact .inr (.inr (.inr (.inr (.inr ⟨f, rfl, rfl, rfl, rfl, rfl, rfl, rfl⟩))))
            | none =>
              have hi : slotIssues i g s := ⟨hg, .inr ⟨hc, hd, hw, hx⟩⟩
              rw [issue_effect eff hi] at h; cases h; exact .inr (.inl ⟨hi, rfl⟩)

/-! ### Transfers -/

theorem transfer_true {g : Pred} {s : State} (t : Ctx → Transfer) (h : s.me.rp g = true) :
    transfer g t s = .next (s.setXfer (.taken (t s.me))) := by simp [transfer, h]

theorem transfer_false {g : Pred} {s : State} (t : Ctx → Transfer) (h : s.me.rp g = false) :
    transfer g t s = .next (s.setXfer .untaken) := by simp [transfer, h]

theorem checkedTransfer_effect {i : Instr} {g : Pred} {s : State} (eff : State → State) (h : slotIssues i g s) :
    checkedTransfer i g eff s = .next (eff s) := by simp [checkedTransfer, h.1, issue_effect eff h]

theorem checkedTransfer_false {i : Instr} {g : Pred} {s : State} (eff : State → State) (h : s.me.rp g = false) :
    checkedTransfer i g eff s = .next (s.setXfer .untaken) := by simp [checkedTransfer, h]

/-! ### Traps -/

/-- A trap that reaches a handler: the context enters it, and no record is posted (R317). -/
theorem State.takeTrap_handler {s : State} {c : CtxId} {t : TrapInfo} (hs : (s.ctx c).stopped = false)
    (hv : (s.ctx c).tvec ≠ 0) (ht : (s.ctx c).trapped = false) (hn : neverHandled t.cause = false) :
    s.takeTrap c t = s.setCtx c ((s.ctx c).trap t) ∧ ((s.ctx c).trap t).pc = (s.ctx c).tvec ∧
      ((s.ctx c).trap t).stopped = false := by
  have hv' : ¬ (s.ctx c).tvec = 0#64 := hv
  have h : ((s.ctx c).trap t).stopped = false ∧ ((s.ctx c).trap t).pc = (s.ctx c).tvec := by
    simp [Ctx.trap, Ctx.leaveBarrier, Ctx.settle, Block.writeTrap, Block.park, ht, hv', hn, hs]
  exact ⟨by simp [State.takeTrap, h.1], h.2, h.1⟩

/-- A trap that reaches none: the context stops, and its record is posted (R318, R321, R322). -/
theorem State.takeTrap_stop {s : State} {c : CtxId} {t : TrapInfo}
    (h : (s.ctx c).tvec = 0 ∨ (s.ctx c).trapped = true ∨ neverHandled t.cause = true) :
    s.takeTrap c t = (s.setCtx c ((s.ctx c).trap t)).postFault c t ∧ ((s.ctx c).trap t).stopped = true := by
  have h' : ((s.ctx c).trap t).stopped = true := by
    unfold Ctx.trap
    rcases h with h | h | h
    · have h' : (s.ctx c).tvec = 0#64 := h
      by_cases ht : (s.ctx c).trapped = true <;> simp [Ctx.leaveBarrier, Ctx.settle, Block.writeTrap, Block.park, h', ht]
    · simp [Ctx.leaveBarrier, Ctx.settle, Block.writeTrap, h]
    · simp [Ctx.leaveBarrier, Ctx.settle, Block.writeTrap, Block.park, h]
  exact ⟨by simp [State.takeTrap, h'], h'⟩

end Sys2Proof.Machine
end

