-- ==== Sys2Proof/Laws/Memory.lean ====
section
/-! SUPPORT. The laws of the byte stores: a read after a write, and the canonical form that every memory operation keeps. -/

namespace Sys2Proof.Machine

/-! ### The canonical form -/

/-- A canonical list whose addresses start later is canonical from an earlier address. -/
theorem Memory.wfFrom_mono {m : Memory} {lo lo' : Nat} (h : lo' ≤ lo) (w : Memory.wfFrom lo m = true) :
    Memory.wfFrom lo' m = true := by
  cases m with
  | nil => rfl
  | cons c r =>
    simp only [Memory.wfFrom, Bool.and_eq_true, decide_eq_true_eq] at w ⊢
    exact ⟨⟨by omega, w.1.2⟩, w.2⟩

/-- A canonical store without a place is canonical. -/
theorem Memory.wfFrom_without {m : Memory} {lo : Nat} (a : Nat) (w : Memory.wfFrom lo m = true) :
    Memory.wfFrom lo (without m a) = true := by
  induction m generalizing lo with
  | nil => rfl
  | cons c r ih =>
    simp only [Memory.wfFrom, Bool.and_eq_true, decide_eq_true_eq] at w
    simp only [without]
    split
    · exact Memory.wfFrom_mono (by omega) (ih w.2)
    · simp only [Memory.wfFrom, Bool.and_eq_true, decide_eq_true_eq]
      exact ⟨w.1, ih w.2⟩

/-- A new entry in its order keeps a canonical store canonical. -/
theorem Memory.wfFrom_putEntry {m : Memory} {lo a : Nat} {v : Byte} (hv : v ≠ 0) (w : Memory.wfFrom lo m = true)
    (h : lo ≤ a) (hm : ∀ c ∈ m, c.1 ≠ a) : Memory.wfFrom lo (putEntry m a v) = true := by
  induction m generalizing lo with
  | nil =>
    simp only [putEntry, Memory.wfFrom, h, decide_true, Bool.and_true, Bool.true_and, bne_iff_ne, ne_eq]
    exact hv
  | cons c r ih =>
    simp only [Memory.wfFrom, Bool.and_eq_true, decide_eq_true_eq] at w
    have hc : c.1 ≠ a := hm c (List.mem_cons_self ..)
    simp only [putEntry]
    split
    · simp only [Memory.wfFrom, Bool.and_eq_true, decide_eq_true_eq]
      exact ⟨⟨h, by simpa using hv⟩, ⟨by omega, w.1.2⟩, w.2⟩
    · simp only [Memory.wfFrom, Bool.and_eq_true, decide_eq_true_eq]
      exact ⟨w.1, ih w.2 (by omega) fun d hd => hm d (List.mem_cons_of_mem _ hd)⟩

/-- A place taken out is listed no more. -/
theorem without_ne {β : Type} (m : List (Nat × β)) (a : Nat) : ∀ c ∈ without m a, c.1 ≠ a := by
  induction m with
  | nil => simp [without]
  | cons c r ih =>
    simp only [without]
    split
    · exact ih
    · rename_i h
      intro d hd
      rcases List.mem_cons.mp hd with rfl | hd
      · exact fun e => h e.symm
      · exact ih d hd

/-- A byte write keeps the canonical form. -/
theorem Memory.wfFrom_set {m : Memory} {lo a : Nat} (v : Byte) (w : Memory.wfFrom lo m = true) (h : lo ≤ a) :
    Memory.wfFrom lo (Memory.set m a v) = true := by
  unfold Memory.set
  split
  · exact Memory.wfFrom_without a w
  · rename_i hv
    exact Memory.wfFrom_putEntry hv (Memory.wfFrom_without a w) h (without_ne m a)

/-- A byte write keeps the canonical form. -/
theorem Memory.wf_set {m : Memory} (w : m.wf = true) (a : Nat) (v : Byte) : (Memory.set m a v).wf = true :=
  Memory.wfFrom_set v w (Nat.zero_le a)

/-- A write of several bytes keeps the canonical form. -/
theorem Memory.wf_setBytes (bs : List Byte) {m : Memory} (w : m.wf = true) (a : Nat) :
    (Memory.setBytes m a bs).wf = true := by
  induction bs generalizing m a with
  | nil => exact w
  | cons b r ih => exact ih (Memory.wf_set w a b) (a + 1)

/-- The empty store is canonical. -/
theorem Memory.wf_nil : Memory.wf [] = true := rfl

/-- The memory after reset is canonical. -/
theorem State.reset_mem_wf : State.reset.mem.wf = true := rfl

/-! ### Reads after writes -/

/-- A place taken out holds what an unlisted one does. -/
theorem listed_without_same {β : Type} (z : β) (m : List (Nat × β)) (a : Nat) : listed z (without m a) a = z := by
  induction m with
  | nil => rfl
  | cons c r ih =>
    simp only [without]
    split
    · exact ih
    · rename_i h
      simp only [listed]
      rw [if_neg h, ih]

/-- Every other place is as before. -/
theorem listed_without_of_ne {β : Type} (z : β) (m : List (Nat × β)) {a b : Nat} (h : b ≠ a) :
    listed z (without m a) b = listed z m b := by
  induction m with
  | nil => rfl
  | cons c r ih =>
    simp only [without]
    split
    · rename_i e
      simp only [listed]
      rw [ih, if_neg (fun hb => h (hb.trans e.symm))]
    · simp only [listed, ih]

/-- A new entry is read back where the place was not listed. -/
theorem listed_putEntry_same {β : Type} (z : β) (m : List (Nat × β)) (a : Nat) (v : β) (hm : ∀ c ∈ m, c.1 ≠ a) :
    listed z (putEntry m a v) a = v := by
  induction m with
  | nil => simp [putEntry, listed]
  | cons c r ih =>
    simp only [putEntry]
    split
    · simp [listed]
    · simp only [listed]
      rw [if_neg fun e => hm c (List.mem_cons_self ..) e.symm]
      exact ih fun d hd => hm d (List.mem_cons_of_mem _ hd)

/-- A new entry leaves every other place as before. -/
theorem listed_putEntry_of_ne {β : Type} (z : β) (m : List (Nat × β)) {a b : Nat} (v : β) (h : b ≠ a) :
    listed z (putEntry m a v) b = listed z m b := by
  induction m with
  | nil => simp [putEntry, listed, h]
  | cons c r ih =>
    simp only [putEntry]
    split
    · simp only [listed]
      rw [if_neg h]
    · simp only [listed, ih]

/-- A byte reads as the value written to it. -/
theorem Memory.get_set_same (m : Memory) (a : Nat) (v : Byte) : Memory.get (Memory.set m a v) a = v := by
  unfold Memory.get Memory.set
  split
  · rename_i hv
    rw [listed_without_same, hv]
  · exact listed_putEntry_same 0 _ a v (without_ne m a)

/-- A write leaves every other byte alone. -/
theorem Memory.get_set_of_ne (m : Memory) {a b : Nat} (v : Byte) (h : b ≠ a) :
    Memory.get (Memory.set m a v) b = Memory.get m b := by
  unfold Memory.get Memory.set
  split
  · exact listed_without_of_ne 0 m h
  · rw [listed_putEntry_of_ne 0 _ v h, listed_without_of_ne 0 m h]

/-- A byte's key is the one written. -/
theorem Owners.get_set_same (o : Owners) (a k : Nat) : Owners.get (Owners.set o a k) a = k :=
  listed_putEntry_same 0 _ a k (without_ne o a)

/-- A write leaves the key of every other byte alone. -/
theorem Owners.get_set_of_ne (o : Owners) {a b : Nat} (k : Nat) (h : b ≠ a) :
    Owners.get (Owners.set o a k) b = Owners.get o b := by
  unfold Owners.get Owners.set
  rw [listed_putEntry_of_ne 0 _ k h, listed_without_of_ne 0 o h]

/-- The keys written to several bytes, and those of every byte outside them. -/
theorem Owners.get_setN (n : Nat) (o : Owners) (a b k : Nat) :
    Owners.get (Owners.setN o a n k) b = if a ≤ b ∧ b < a + n then k else Owners.get o b := by
  induction n generalizing o a with
  | zero => rw [Owners.setN, if_neg (by omega)]
  | succ m ih =>
    rw [Owners.setN, ih]
    by_cases hb : b = a
    · subst hb
      rw [if_neg (by omega), if_pos (by omega), Owners.get_set_same]
    · rw [Owners.get_set_of_ne o k hb]
      by_cases h : a + 1 ≤ b ∧ b < a + 1 + m
      · rw [if_pos h, if_pos (by omega)]
      · rw [if_neg h, if_neg (by omega)]

/-- A write of several bytes leaves every byte outside them alone. -/
theorem Memory.get_setBytes_outside (bs : List Byte) (m : Memory) {a b : Nat} (h : b < a ∨ a + bs.length ≤ b) :
    Memory.get (Memory.setBytes m a bs) b = Memory.get m b := by
  induction bs generalizing m a with
  | nil => rfl
  | cons v r ih =>
    simp only [List.length_cons] at h
    rw [Memory.setBytes, ih (Memory.set m a v) (by omega)]
    exact Memory.get_set_of_ne m v (by omega)

/-- Each byte of a write of several bytes reads as the byte written. -/
theorem Memory.get_setBytes_inside (bs : List Byte) (m : Memory) (a i : Nat) (h : i < bs.length) :
    Memory.get (Memory.setBytes m a bs) (a + i) = bs[i] := by
  induction bs generalizing m a i with
  | nil => simp at h
  | cons v r ih =>
    cases i with
    | zero =>
      rw [Memory.setBytes, Nat.add_zero, Memory.get_setBytes_outside r _ (by omega)]
      exact Memory.get_set_same m a v
    | succ k =>
      simp only [List.length_cons] at h
      rw [Memory.setBytes, show a + (k + 1) = (a + 1) + k by omega, ih _ (a + 1) k (by omega)]
      rfl

/-- The bytes read from a place are those written there. -/
theorem Memory.getBytes_setBytes (bs : List Byte) (m : Memory) (a : Nat) :
    Memory.getBytes (Memory.setBytes m a bs) a bs.length = bs := by
  induction bs generalizing m a with
  | nil => rfl
  | cons v r ih =>
    simp only [List.length_cons, Memory.getBytes, Memory.setBytes]
    rw [ih _ (a + 1), Memory.get_setBytes_outside r _ (by omega), Memory.get_set_same m a v]

/-- Little-endian bytes of a number give the number back, modulo their width (R140). -/
theorem leNat_leBytes (n v : Nat) : leNat (leBytes n v) = v % 256 ^ n := by
  induction n generalizing v with
  | zero => simp [leBytes, leNat, Nat.mod_one]
  | succ k ih =>
    simp only [leBytes, leNat, BitVec.toNat_ofNat, ih]
    rw [show 256 ^ (k + 1) = 256 * 256 ^ k from Nat.pow_succ', Nat.mod_mul]

/-- The number of bytes of a number written little-endian. -/
theorem leBytes_length (n v : Nat) : (leBytes n v).length = n := by
  induction n generalizing v with
  | zero => rfl
  | succ k ih => simp [leBytes, ih]

end Sys2Proof.Machine
end

