-- ==== Sys2Proof/Laws/FrameContext.lean ====
section
/-! SUPPORT. That the operations of the control processor keep device memory: for each function that writes
no byte of it, one lemma, and for each meaning also that it answers a next state. -/

namespace Sys2Proof.Machine

/-- The outcome is a next state whose memory is `m`. -/
def Out.keeps (m : Memory) (o : Out) : Prop := ∃ t, o = .next t ∧ t.mem = m

@[simp] theorem Out.keeps_next (m : Memory) (s : State) : Out.keeps m (.next s) ↔ s.mem = m := by
  constructor
  · rintro ⟨t, h, e⟩
    cases h
    exact e
  · intro h
    exact ⟨s, rfl, h⟩

/-- A fold of updates that keep the memory keeps it. -/
@[simp] theorem foldl_mem {α : Type} (f : State → α → State) (l : List α) (s : State)
    (h : ∀ s a, (f s a).mem = s.mem) : (l.foldl f s).mem = s.mem := by
  induction l generalizing s with
  | nil => rfl
  | cons a r ih => simp [ih, h]

/-! ### Ops -/

@[simp] theorem State.postFault_mem (s : State) (c : CtxId) (t : TrapInfo) : (State.postFault s c t).mem = s.mem :=
  rfl

@[simp] theorem State.takeTrap_mem (s : State) (c : CtxId) (t : TrapInfo) : (State.takeTrap s c t).mem = s.mem := by
  simp only [State.takeTrap]
  (repeat' split) <;> simp

@[simp] theorem State.endBundle_mem (s : State) (c : CtxId) : (State.endBundle s c).mem = s.mem := by
  simp only [State.endBundle]
  (repeat' split) <;> simp

@[simp] theorem State.trapBundle_mem (s : State) (c : CtxId) (n : Word) : (State.trapBundle s c n).mem = s.mem := by
  unfold State.trapBundle
  (repeat' split) <;> simp

/-! ### Operands -/

@[simp] theorem issuePlain_mem (g : Pred) (eff : State → State) (s : State) (h : ∀ s, (eff s).mem = s.mem) :
    Out.keeps s.mem (issuePlain g eff s) := by
  unfold issuePlain
  (repeat' split) <;> simp [h]

@[simp] theorem result_mem (d : Dest) (v : Word) (n : Nat) (q : Bool) (s : State) : (result d v n q s).mem = s.mem :=
  rfl

@[simp] theorem scalar_mem (g : Pred) (q : Bool) (d : Reg) (n : Nat) (f : Ctx → Word) (s : State) :
    Out.keeps s.mem (scalar g q d n f s) := by
  simp only [scalar]
  apply issuePlain_mem
  intro s
  (repeat' split) <;> simp

@[simp] theorem compare_mem (g : Pred) (q : Bool) (pd : PredPair) (f : Ctx → Bool) (s : State) :
    Out.keeps s.mem (compare g q pd f s) := by
  simp only [compare]
  apply issuePlain_mem
  intro s
  (repeat' split) <;> simp

@[simp] theorem predicate_mem (g : Pred) (q : Bool) (d : Pred) (f : Ctx → Bool) (s : State) :
    Out.keeps s.mem (predicate g q d f s) := by
  simp only [predicate]
  apply issuePlain_mem
  intro s
  (repeat' split) <;> simp

/-! ### Signals -/

@[simp] theorem State.endPass_mem (s : State) (c : CtxId) : (State.endPass s c).mem = s.mem := by
  simp only [State.endPass]
  (repeat' split) <;> simp

/-! ### DevMem -/

@[simp] theorem State.linkUsed_mem (s : State) (pa : Nat) : (State.linkUsed s pa).mem = s.mem := by
  unfold State.linkUsed
  (repeat' split) <;> simp

@[simp] theorem State.postWrite_mem (s : State) (p : Posted) : (State.postWrite s p).mem = s.mem := rfl

/-! ### Checkpoint -/

@[simp] theorem State.hold_mem (s : State) (c : CtxId) (f : PendFault) : (State.hold s c f).mem = s.mem := rfl

@[simp] theorem State.drainEffect_mem (s : State) (n : CoreId) (e : Fin 6) (inQueue : Option Nat) :
    (State.drainEffect s n e inQueue).mem = s.mem := by
  simp only [State.drainEffect]
  (repeat' split) <;> simp

@[simp] theorem State.drainEffects_mem (s : State) (n : CoreId) (e : Fin 6) :
    (State.drainEffects s n e).mem = s.mem := by
  unfold State.drainEffects
  dsimp only
  rw [foldl_mem]
  · split <;> simp
  · intro s i
    split <;> simp

@[simp] theorem State.releaseStore_mem (s : State) (c : CtxId) (h : HeldStore) :
    (State.releaseStore s c h).mem = s.mem := rfl

@[simp] theorem State.commitStores_mem (s : State) (c : CtxId) (base k : BitVec 48) :
    (State.commitStores s c base k).mem = s.mem := by
  unfold State.commitStores
  dsimp only
  split
  · rfl
  · exact foldl_mem _ _ _ fun s h => State.releaseStore_mem s _ _

@[simp] theorem State.release_mem (s : State) (c : CtxId) : (State.release s c).mem = s.mem := by
  unfold State.release
  dsimp only
  rw [foldl_mem _ _ _ (fun s e => State.drainEffects_mem s _ e)]
  simp only [State.setCtx_mem, State.setCore_mem]
  apply foldl_mem
  intro s i
  split <;> simp

@[simp] theorem State.saveShadow_mem (s : State) (c : CtxId) (mask : Word) (blk : Block) :
    (State.saveShadow s c mask blk).mem = s.mem := rfl

@[simp] theorem State.restoreShadow_mem (s : State) (c : CtxId) : (State.restoreShadow s c).mem = s.mem := by
  simp only [State.restoreShadow]
  (repeat' split) <;> simp

@[simp] theorem State.notice_mem (s : State) (c : CtxId) (cause : BitVec 8) (detail : Word) :
    (State.notice s c cause detail).mem = s.mem := rfl

@[simp] theorem State.boundary_mem (s : State) (c : CtxId) (mask : Word) (blk : State → Block) :
    (State.boundary s c mask blk).mem = s.mem := by
  simp only [State.boundary]
  (repeat' split) <;> simp

@[simp] theorem State.reach_mem (s : State) (c : CtxId) (sig : BitVec 64) : (State.reach s c sig).mem = s.mem := rfl

@[simp] theorem State.implicitBoundary_mem (s : State) (c : CtxId) : (State.implicitBoundary s c).mem = s.mem := by
  simp only [State.implicitBoundary]
  (repeat' split) <;> simp

/-! ### Units -/

@[simp] theorem State.linksUsed_mem (s : State) (ps : List (Nat × Nat)) : (State.linksUsed s ps).mem = s.mem := by
  simp [State.linksUsed]

/-! ### Check -/

@[simp] theorem slotNote_mem (i : Instr) (s : State) : (slotNote i s).mem = s.mem := by
  simp only [slotNote]
  (repeat' split) <;> simp

@[simp] theorem State.deliver_mem (s : State) (c : CtxId) (f : PendFault) (epc btarg : Word) :
    (State.deliver s c f epc btarg).mem = s.mem := by
  simp [State.deliver]

@[simp] theorem issue_mem (i : Instr) (g : Pred) (eff : State → State) (s : State) (h : ∀ s, (eff s).mem = s.mem) :
    Out.keeps s.mem (issue i g eff s) := by
  unfold issue
  (repeat' split) <;> simp [h]

@[simp] theorem State.issued_mem (s : State) (kp : BitVec 4) : (State.issued s kp).mem = s.mem := rfl

@[simp] theorem State.performedNow_mem (s : State) (kp : BitVec 4) : (State.performedNow s kp).mem = s.mem := rfl

/-! ### Bundle -/

@[simp] theorem State.beginBundle_mem (s : State) (c : CtxId) (len : Nat) :
    (State.beginBundle s c len).mem = s.mem := rfl

@[simp] theorem State.allowRetry_mem (s : State) (c : CtxId) : (State.allowRetry s c).mem = s.mem := by
  simp only [State.allowRetry]
  (repeat' split) <;> simp

@[simp] theorem State.noteAll_mem (s : State) (c : CtxId) (len : Nat) (slots : List Slot) :
    (State.noteAll s c len slots).mem = s.mem := by
  simp [State.noteAll]

@[simp] theorem State.prepare_mem (s0 : State) (c : CtxId) : (State.prepare s0 c).mem = s0.mem := by
  simp only [State.prepare]
  (repeat' split) <;> simp

@[simp] theorem execEmptyBundle_mem (s : State) : Out.keeps s.mem (execEmptyBundle s) := by
  simp [execEmptyBundle]

/-! ### Control -/

@[simp] theorem State.setXfer_mem (s : State) (d : Delay) : (State.setXfer s d).mem = s.mem := rfl

@[simp] theorem transfer_mem (g : Pred) (t : Ctx → Transfer) (s : State) : Out.keeps s.mem (transfer g t s) := by
  unfold transfer
  (repeat' split) <;> simp

@[simp] theorem checkedTransfer_mem
    (i : Instr) (g : Pred) (eff : State → State) (s : State) (h : ∀ s, (eff s).mem = s.mem) :
    Out.keeps s.mem (checkedTransfer i g eff s) := by
  unfold checkedTransfer
  (repeat' split) <;> simp [h]

@[simp] theorem State.pushReturn_mem (s : State) (a : Word) : (State.pushReturn s a).mem = s.mem := by
  simp only [State.pushReturn]
  (repeat' split) <;> simp

@[simp] theorem execB_mem (g : Pred) (_q : Bool) (i : BitVec 20) (s : State) : Out.keeps s.mem (execB g _q i s) := by
  simp [execB]

@[simp] theorem execBi_mem (g : Pred) (_q : Bool) (a : Reg) (s : State) : Out.keeps s.mem (execBi g _q a s) := by
  simp [execBi]

@[simp] theorem execJt_mem (g : Pred) (q : Bool) (a b : Reg) (n : BitVec 5) (s : State) :
    Out.keeps s.mem (execJt g q a b n s) := by
  simp only [execJt]
  apply checkedTransfer_mem
  intro s
  (repeat' split) <;> simp

@[simp] theorem execCall_mem (g : Pred) (q : Bool) (i : BitVec 20) (s : State) :
    Out.keeps s.mem (execCall g q i s) := by
  simp [execCall]

@[simp] theorem execCalli_mem (g : Pred) (q : Bool) (a : Reg) (s : State) : Out.keeps s.mem (execCalli g q a s) := by
  simp [execCalli]

/-- A pop from the return stack writes CP data memory alone. -/
@[simp] theorem State.popReturn_mem (s : State) : s.popReturn.2.mem = s.mem := by
  unfold State.popReturn
  dsimp only
  split <;> rfl

@[simp] theorem execRet_mem (g : Pred) (q : Bool) (s : State) : Out.keeps s.mem (execRet g q s) := by
  unfold execRet
  apply checkedTransfer_mem
  intro s
  simp

@[simp] theorem execRett_mem (g : Pred) (_q : Bool) (s : State) : Out.keeps s.mem (execRett g _q s) := by
  simp [execRett]

@[simp] theorem execLoop_mem (g : Pred) (d : Reg) (i : BitVec 15) (s : State) : Out.keeps s.mem (execLoop g d i s) := by
  simp only [execLoop]
  apply issue_mem
  intro s
  (repeat' split) <;> simp

@[simp] theorem execHalt_mem (g : Pred) (q : Bool) (s : State) : Out.keeps s.mem (execHalt g q s) := by
  simp only [execHalt]
  apply issue_mem
  intro s
  (repeat' split) <;> simp

@[simp] theorem execTrap_mem (g : Pred) (_q : Bool) (n : BitVec 15) (s : State) :
    Out.keeps s.mem (execTrap g _q n s) := by
  simp only [execTrap]
  apply issuePlain_mem
  intro s
  (repeat' split) <;> simp

@[simp] theorem execMfs_mem (g : Pred) (q : Bool) (d : Reg) (n : BitVec 5) (s : State) :
    Out.keeps s.mem (execMfs g q d n s) := by
  simp only [execMfs]
  apply issue_mem
  intro s
  (repeat' split) <;> simp

@[simp] theorem execMts_mem (g : Pred) (_q : Bool) (d : Reg) (n : BitVec 5) (s : State) :
    Out.keeps s.mem (execMts g _q d n s) := by
  simp only [execMts]
  apply issuePlain_mem
  intro s
  (repeat' split) <;> simp

/-! ### CpMem -/

@[simp] theorem loadEffect_mem (q : Bool) (d a : Reg) (n : BitVec 10) (w : Nat) (ext : Nat → Word) (s : State) :
    (loadEffect q d a n w ext s).mem = s.mem := rfl

@[simp] theorem storeEffect_mem (d a : Reg) (n : BitVec 10) (w : Nat) (s : State) :
    (storeEffect d a n w s).mem = s.mem := by
  unfold storeEffect
  (repeat' split) <;> simp

@[simp] theorem execLdI8_mem (g : Pred) (q : Bool) (d a : Reg) (i : BitVec 10) (s : State) :
    Out.keeps s.mem (execLdI8 g q d a i s) := by
  simp only [execLdI8]
  apply issue_mem
  intro s
  (repeat' split) <;> simp

@[simp] theorem execLdN8_mem (g : Pred) (q : Bool) (d a : Reg) (i : BitVec 10) (s : State) :
    Out.keeps s.mem (execLdN8 g q d a i s) := by
  simp only [execLdN8]
  apply issue_mem
  intro s
  (repeat' split) <;> simp

@[simp] theorem execLdI16_mem (g : Pred) (q : Bool) (d a : Reg) (i : BitVec 10) (s : State) :
    Out.keeps s.mem (execLdI16 g q d a i s) := by
  simp only [execLdI16]
  apply issue_mem
  intro s
  (repeat' split) <;> simp

@[simp] theorem execLdN16_mem (g : Pred) (q : Bool) (d a : Reg) (i : BitVec 10) (s : State) :
    Out.keeps s.mem (execLdN16 g q d a i s) := by
  simp only [execLdN16]
  apply issue_mem
  intro s
  (repeat' split) <;> simp

@[simp] theorem execLdI32_mem (g : Pred) (q : Bool) (d a : Reg) (i : BitVec 10) (s : State) :
    Out.keeps s.mem (execLdI32 g q d a i s) := by
  simp only [execLdI32]
  apply issue_mem
  intro s
  (repeat' split) <;> simp

@[simp] theorem execLdN32_mem (g : Pred) (q : Bool) (d a : Reg) (i : BitVec 10) (s : State) :
    Out.keeps s.mem (execLdN32 g q d a i s) := by
  simp only [execLdN32]
  apply issue_mem
  intro s
  (repeat' split) <;> simp

@[simp] theorem execLd64_mem (g : Pred) (q : Bool) (d a : Reg) (i : BitVec 10) (s : State) :
    Out.keeps s.mem (execLd64 g q d a i s) := by
  simp only [execLd64]
  apply issue_mem
  intro s
  (repeat' split) <;> simp

@[simp] theorem execSt8_mem (g : Pred) (q : Bool) (d a : Reg) (i : BitVec 10) (s : State) :
    Out.keeps s.mem (execSt8 g q d a i s) := by
  simp [execSt8]

@[simp] theorem execSt16_mem (g : Pred) (q : Bool) (d a : Reg) (i : BitVec 10) (s : State) :
    Out.keeps s.mem (execSt16 g q d a i s) := by
  simp [execSt16]

@[simp] theorem execSt32_mem (g : Pred) (q : Bool) (d a : Reg) (i : BitVec 10) (s : State) :
    Out.keeps s.mem (execSt32 g q d a i s) := by
  simp [execSt32]

@[simp] theorem execSt64_mem (g : Pred) (q : Bool) (d a : Reg) (i : BitVec 10) (s : State) :
    Out.keeps s.mem (execSt64 g q d a i s) := by
  simp [execSt64]

/-! ### SignalOps -/

@[simp] theorem execTld_mem (g : Pred) (q : Bool) (d : Reg) (n : SigNum) (lag : BitVec 4) (u : BitVec 5) (s : State) :
    Out.keeps s.mem (execTld g q d n lag u s) := by
  simp only [execTld]
  apply issue_mem
  intro s
  (repeat' split) <;> simp

@[simp] theorem execTst_mem (g : Pred) (q : Bool) (d : Reg) (n : SigNum) (a : BitVec 4) (u : BitVec 5) (s : State) :
    Out.keeps s.mem (execTst g q d n a u s) := by
  simp only [execTst]
  apply issue_mem
  intro s
  (repeat' split) <;> simp

@[simp] theorem execRst_mem (g : Pred) (q : Bool) (d : Reg) (n : SigNum) (pos a : BitVec 2) (u : BitVec 5) (s : State) :
    Out.keeps s.mem (execRst g q d n pos a u s) := by
  simp only [execRst]
  apply issue_mem
  intro s
  (repeat' split) <;> simp

/-! ### EngineOps -/

@[simp] theorem execTick_mem (g : Pred) (q : Bool) (x : Option Ext) (s : State) :
    Out.keeps s.mem (execTick g q x s) := by
  simp only [execTick]
  apply issue_mem
  intro s
  (repeat' split) <;> simp

@[simp] theorem execSpec_mem (g : Pred) (q : Bool) (n : BitVec 6) (x : Option Ext) (s : State) :
    Out.keeps s.mem (execSpec g q n x s) := by
  simp only [execSpec]
  apply issue_mem
  intro s
  (repeat' split) <;> simp

@[simp] theorem State.commitTrigs_mem (s : State) (c : CtxId) (base : BitVec 48) (k : Nat) :
    (State.commitTrigs s c base k).mem = s.mem := by
  unfold State.commitTrigs
  dsimp only
  split
  · rw [State.boundary_mem, foldl_mem _ _ _ (fun s t => State.performed_mem s _ _ _)]
    rfl
  · rw [foldl_mem _ _ _ (fun s t => State.performed_mem s _ _ _)]
    rfl

@[simp] theorem execCommit_mem (g : Pred) (q : Bool) (d : Reg) (n : BitVec 15) (x : Option Ext) (s : State) :
    Out.keeps s.mem (execCommit g q d n x s) := by
  simp only [execCommit]
  apply issue_mem
  intro s
  (repeat' split) <;> simp

@[simp] theorem execSclr_mem (g : Pred) (q : Bool) (n : SigNum) (x : Option Ext) (s : State) :
    Out.keeps s.mem (execSclr g q n x s) := by
  simp only [execSclr]
  apply issue_mem
  intro s
  (repeat' split) <;> simp

@[simp] theorem execSstat_mem (g : Pred) (q : Bool) (d : Reg) (n : SigNum) (x : Option Ext) (s : State) :
    Out.keeps s.mem (execSstat g q d n x s) := by
  simp only [execSstat]
  apply issue_mem
  intro s
  (repeat' split) <;> simp

@[simp] theorem execCkpt_mem (g : Pred) (d : CkptFields) (x : Option Ext) (s : State) :
    Out.keeps s.mem (execCkpt g d x s) := by
  simp [execCkpt]

@[simp] theorem execGacq_mem (g : Pred) (q : Bool) (x : Option Ext) (s : State) :
    Out.keeps s.mem (execGacq g q x s) := by
  simp only [execGacq]
  apply issue_mem
  intro s
  (repeat' split) <;> simp

@[simp] theorem execGrel_mem (g : Pred) (q : Bool) (x : Option Ext) (s : State) :
    Out.keeps s.mem (execGrel g q x s) := by
  simp only [execGrel]
  apply issue_mem
  intro s
  (repeat' split) <;> simp

@[simp] theorem State.pushGrid_mem (s : State) (x : Option Ext) (op : GridOp) :
    (State.pushGrid s x op).mem = s.mem := rfl

@[simp] theorem execGcfg_mem (g : Pred) (q : Bool) (n : BitVec 15) (x : Option Ext) (s : State) :
    Out.keeps s.mem (execGcfg g q n x s) := by
  simp only [execGcfg]
  apply issue_mem
  intro s
  (repeat' split) <;> simp

@[simp] theorem execGrun_mem (g : Pred) (q : Bool) (a : Reg) (x : Option Ext) (s : State) :
    Out.keeps s.mem (execGrun g q a x s) := by
  simp only [execGrun]
  apply issue_mem
  intro s
  (repeat' split) <;> simp

@[simp] theorem execGset_mem
    (g : Pred) (q : Bool) (t : BitVec 5) (a : Reg) (f : BitVec 3) (x : Option Ext) (s : State) :
    Out.keeps s.mem (execGset g q t a f x s) := by
  simp only [execGset]
  apply issue_mem
  intro s
  (repeat' split) <;> simp

@[simp] theorem State.pushMx_mem (s : State) (x : Option Ext) (load : Bool) (n : BitVec 5) :
    (State.pushMx s x load n).mem = s.mem := rfl

@[simp] theorem execMxload_mem (g : Pred) (q : Bool) (n : BitVec 5) (x : Option Ext) (s : State) :
    Out.keeps s.mem (execMxload g q n x s) := by
  simp only [execMxload]
  apply issue_mem
  intro s
  (repeat' split) <;> simp

@[simp] theorem execMxp_mem (g : Pred) (q : Bool) (n : BitVec 3) (a : Reg) (x : Option Ext) (s : State) :
    Out.keeps s.mem (execMxp g q n a x s) := by
  simp only [execMxp]
  apply issue_mem
  intro s
  (repeat' split) <;> simp

@[simp] theorem execMxcall_mem (g : Pred) (q : Bool) (n : BitVec 5) (x : Option Ext) (s : State) :
    Out.keeps s.mem (execMxcall g q n x s) := by
  simp only [execMxcall]
  apply issue_mem
  intro s
  (repeat' split) <;> simp

@[simp] theorem State.pushStream_mem (s : State) (e : Fin 6) (q : StreamCmd) :
    (State.pushStream s e q).mem = s.mem := by
  simp only [State.pushStream]
  (repeat' split) <;> simp

@[simp] theorem streamEffect_mem (i : Instr) (s : State) : (streamEffect i s).mem = s.mem := by
  unfold streamEffect
  (repeat' split) <;> simp

@[simp] theorem execSload_mem
    (g : Pred) (q : Bool) (e : BitVec 2) (n : SigNum) (pos : BitVec 7) (k : DescNum) (a : Reg) (x : Tokens) (s : State) :
    Out.keeps s.mem (execSload g q e n pos k a x s) := by
  simp [execSload]

@[simp] theorem execSloadPl_mem
    (g : Pred) (q : Bool) (e : BitVec 2) (k : DescNum) (a b : Reg) (x : Tokens) (s : State) :
    Out.keeps s.mem (execSloadPl g q e k a b x s) := by
  simp [execSloadPl]

@[simp] theorem execSstore_mem
    (g : Pred) (q : Bool) (e : BitVec 1) (n : SigNum) (off : BitVec 7) (k : DescNum) (a : Reg) (x : Tokens) (s : State) :
    Out.keeps s.mem (execSstore g q e n off k a x s) := by
  simp [execSstore]

@[simp] theorem execScopy_mem
    (g : Pred) (q : Bool) (e : BitVec 3) (k j : DescNum) (a b : Reg) (x : Tokens) (s : State) :
    Out.keeps s.mem (execScopy g q e k j a b x s) := by
  simp [execScopy]

@[simp] theorem execSgather_mem
    (g : Pred) (q : Bool) (e : BitVec 2) (n : SigNum) (pos : BitVec 7) (k : DescNum) (a b : Reg) (oor : BitVec 2) (x : Tokens) (s : State) :
    Out.keeps s.mem (execSgather g q e n pos k a b oor x s) := by
  simp [execSgather]

@[simp] theorem execSreduce_mem
    (g : Pred) (q : Bool) (w : Bool) (e : BitVec 2) (n : SigNum) (pos : BitVec 7) (k : DescNum) (a b : Reg) (red : BitVec 2) (dis : Bool) (oor : BitVec 2) (x : Tokens) (s : State) :
    Out.keeps s.mem (execSreduce g q w e n pos k a b red dis oor x s) := by
  simp [execSreduce]

@[simp] theorem execSscatter_mem
    (g : Pred) (q : Bool) (e : BitVec 1) (n : SigNum) (off : BitVec 7) (k : DescNum) (a b : Reg) (oor : BitVec 2) (x : Tokens) (s : State) :
    Out.keeps s.mem (execSscatter g q e n off k a b oor x s) := by
  simp [execSscatter]

@[simp] theorem execSpos_mem (g : Pred) (q : Bool) (n : BitVec 5) (a : Reg) (x : Option Ext) (s : State) :
    Out.keeps s.mem (execSpos g q n a x s) := by
  simp only [execSpos]
  apply issue_mem
  intro s
  (repeat' split) <;> simp

@[simp] theorem execDset_mem (g : Pred) (q : Bool) (k : DescNum) (w : BitVec 4) (a : Reg) (x : Option Ext) (s : State) :
    Out.keeps s.mem (execDset g q k w a x s) := by
  simp only [execDset]
  apply issue_mem
  intro s
  (repeat' split) <;> simp

@[simp] theorem execDget_mem (g : Pred) (q : Bool) (d : Reg) (k : DescNum) (w : BitVec 4) (x : Option Ext) (s : State) :
    Out.keeps s.mem (execDget g q d k w x s) := by
  simp only [execDget]
  apply issue_mem
  intro s
  (repeat' split) <;> simp

@[simp] theorem execDclr_mem (g : Pred) (q : Bool) (k : DescNum) (x : Option Ext) (s : State) :
    Out.keeps s.mem (execDclr g q k x s) := by
  simp only [execDclr]
  apply issue_mem
  intro s
  (repeat' split) <;> simp

@[simp] theorem execKwait_mem (g : Pred) (q : Bool) (x : Option Ext) (s : State) :
    Out.keeps s.mem (execKwait g q x s) := by
  simp only [execKwait]
  apply issue_mem
  intro s
  (repeat' split) <;> simp

@[simp] theorem execKpoll_mem (g : Pred) (q : Bool) (d : Reg) (x : Option Ext) (s : State) :
    Out.keeps s.mem (execKpoll g q d x s) := by
  simp only [execKpoll]
  apply issue_mem
  intro s
  (repeat' split) <;> simp

@[simp] theorem execTrig_mem (g : Pred) (q : Bool) (x : Option Ext) (s : State) :
    Out.keeps s.mem (execTrig g q x s) := by
  simp only [execTrig]
  apply issue_mem
  intro s
  (repeat' split) <;> simp

@[simp] theorem execLaunch_mem (g : Pred) (q : Bool) (a b : Reg) (x : Option Ext) (s : State) :
    Out.keeps s.mem (execLaunch g q a b x s) := by
  simp only [execLaunch]
  apply issue_mem
  intro s
  (repeat' split) <;> simp

@[simp] theorem State.arrive_mem (s : State) (i : Fin 3) : (State.arrive s i).mem = s.mem := rfl

@[simp] theorem execArriveCl_mem (g : Pred) (q : Bool) (x : Option Ext) (s : State) :
    Out.keeps s.mem (execArriveCl g q x s) := by
  simp only [execArriveCl]
  apply issue_mem
  intro s
  (repeat' split) <;> simp

@[simp] theorem execArriveDie_mem (g : Pred) (q : Bool) (x : Option Ext) (s : State) :
    Out.keeps s.mem (execArriveDie g q x s) := by
  simp only [execArriveDie]
  apply issue_mem
  intro s
  (repeat' split) <;> simp

@[simp] theorem execArriveDev_mem (g : Pred) (q : Bool) (x : Option Ext) (s : State) :
    Out.keeps s.mem (execArriveDev g q x s) := by
  simp only [execArriveDev]
  apply issue_mem
  intro s
  (repeat' split) <;> simp

@[simp] theorem execWaitCl_mem (g : Pred) (q : Bool) (x : Option Ext) (s : State) :
    Out.keeps s.mem (execWaitCl g q x s) := by
  simp only [execWaitCl]
  apply issue_mem
  intro s
  (repeat' split) <;> simp

@[simp] theorem execWaitDie_mem (g : Pred) (q : Bool) (x : Option Ext) (s : State) :
    Out.keeps s.mem (execWaitDie g q x s) := by
  simp only [execWaitDie]
  apply issue_mem
  intro s
  (repeat' split) <;> simp

@[simp] theorem execWaitDev_mem (g : Pred) (q : Bool) (x : Option Ext) (s : State) :
    Out.keeps s.mem (execWaitDev g q x s) := by
  simp only [execWaitDev]
  apply issue_mem
  intro s
  (repeat' split) <;> simp

@[simp] theorem execSync_mem (g : Pred) (q : Bool) (x : Option Ext) (s : State) :
    Out.keeps s.mem (execSync g q x s) := by
  simp only [execSync]
  apply issue_mem
  intro s
  (repeat' split) <;> simp

/-! ### DevOps -/

@[simp] theorem State.noteAccess_mem (s : State) (a : Word) (align : Nat) (n : Need) :
    (State.noteAccess s a align n).mem = s.mem := by
  unfold State.noteAccess
  (repeat' split) <;> simp

@[simp] theorem execGld_mem (g : Pred) (q : Bool) (d a : Reg) (i : BitVec 10) (s : State) :
    Out.keeps s.mem (execGld g q d a i s) := by
  simp only [execGld]
  apply issue_mem
  intro s
  (repeat' split) <;> simp

@[simp] theorem execGst_mem (g : Pred) (q : Bool) (d a : Reg) (i : BitVec 10) (s : State) :
    Out.keeps s.mem (execGst g q d a i s) := by
  simp only [execGst]
  apply issue_mem
  intro s
  (repeat' split) <;> simp

@[simp] theorem State.postOrHold_mem
    (s : State) (i : Instr) (kind : PostKind) (va : Word) (p : Nat × Nat) (data : Word) (returns : Bool) :
    (State.postOrHold s i kind va p data returns).mem = s.mem := by
  simp only [State.postOrHold]
  (repeat' split) <;> simp

@[simp] theorem atomicEffect_mem (i : Instr) (q : Bool) (d a b : Reg) (kind : PostKind) (s : State) :
    (atomicEffect i q d a b kind s).mem = s.mem := by
  unfold atomicEffect
  (repeat' split) <;> simp

@[simp] theorem execAadd_mem (g : Pred) (q : Bool) (d a b : Reg) (s : State) :
    Out.keeps s.mem (execAadd g q d a b s) := by
  simp [execAadd]

@[simp] theorem execAmin_mem (g : Pred) (q : Bool) (d a b : Reg) (s : State) :
    Out.keeps s.mem (execAmin g q d a b s) := by
  simp [execAmin]

@[simp] theorem execAmax_mem (g : Pred) (q : Bool) (d a b : Reg) (s : State) :
    Out.keeps s.mem (execAmax g q d a b s) := by
  simp [execAmax]

@[simp] theorem execAswp_mem (g : Pred) (q : Bool) (d a b : Reg) (s : State) :
    Out.keeps s.mem (execAswp g q d a b s) := by
  simp [execAswp]

@[simp] theorem execAcas_mem (g : Pred) (q : Bool) (d a b f : Reg) (s : State) :
    Out.keeps s.mem (execAcas g q d a b f s) := by
  simp [execAcas]

@[simp] theorem execAcadd_mem (g : Pred) (q : Bool) (a b : Reg) (s : State) :
    Out.keeps s.mem (execAcadd g q a b s) := by
  simp [execAcadd]

@[simp] theorem execDrainCl_mem (g : Pred) (q : Bool) (s : State) : Out.keeps s.mem (execDrainCl g q s) := by
  simp [execDrainCl]

@[simp] theorem execDrainDie_mem (g : Pred) (q : Bool) (s : State) : Out.keeps s.mem (execDrainDie g q s) := by
  simp [execDrainDie]

@[simp] theorem execDrainDev_mem (g : Pred) (q : Bool) (s : State) : Out.keeps s.mem (execDrainDev g q s) := by
  simp [execDrainDev]

@[simp] theorem execDrainSys_mem (g : Pred) (q : Bool) (s : State) : Out.keeps s.mem (execDrainSys g q s) := by
  simp [execDrainSys]

/-! ### Scalar -/

@[simp] theorem execNop_mem (g : Pred) (q : Bool) (x : Option Ext) (s : State) : Out.keeps s.mem (execNop g q x s) := by
  unfold execNop
  split
  · simp
  · exact issue_mem _ _ _ _ fun s => State.performedNow_mem s _

@[simp] theorem execAdd_mem (g : Pred) (q : Bool) (d a b : Reg) (s : State) :
    Out.keeps s.mem (execAdd g q d a b s) := by
  simp [execAdd]

@[simp] theorem execSub_mem (g : Pred) (q : Bool) (d a b : Reg) (s : State) :
    Out.keeps s.mem (execSub g q d a b s) := by
  simp [execSub]

@[simp] theorem execMul_mem (g : Pred) (q : Bool) (d a b : Reg) (s : State) :
    Out.keeps s.mem (execMul g q d a b s) := by
  simp [execMul]

@[simp] theorem execMulh_mem (g : Pred) (q : Bool) (d a b : Reg) (s : State) :
    Out.keeps s.mem (execMulh g q d a b s) := by
  simp [execMulh]

@[simp] theorem execMulhn_mem (g : Pred) (q : Bool) (d a b : Reg) (s : State) :
    Out.keeps s.mem (execMulhn g q d a b s) := by
  simp [execMulhn]

@[simp] theorem execDiv_mem (g : Pred) (q : Bool) (d a b : Reg) (s : State) :
    Out.keeps s.mem (execDiv g q d a b s) := by
  simp [execDiv]

@[simp] theorem execDivn_mem (g : Pred) (q : Bool) (d a b : Reg) (s : State) :
    Out.keeps s.mem (execDivn g q d a b s) := by
  simp [execDivn]

@[simp] theorem execRem_mem (g : Pred) (q : Bool) (d a b : Reg) (s : State) :
    Out.keeps s.mem (execRem g q d a b s) := by
  simp [execRem]

@[simp] theorem execRemn_mem (g : Pred) (q : Bool) (d a b : Reg) (s : State) :
    Out.keeps s.mem (execRemn g q d a b s) := by
  simp [execRemn]

@[simp] theorem execMin_mem (g : Pred) (q : Bool) (d a b : Reg) (s : State) :
    Out.keeps s.mem (execMin g q d a b s) := by
  simp [execMin]

@[simp] theorem execMax_mem (g : Pred) (q : Bool) (d a b : Reg) (s : State) :
    Out.keeps s.mem (execMax g q d a b s) := by
  simp [execMax]

@[simp] theorem execMinn_mem (g : Pred) (q : Bool) (d a b : Reg) (s : State) :
    Out.keeps s.mem (execMinn g q d a b s) := by
  simp [execMinn]

@[simp] theorem execMaxn_mem (g : Pred) (q : Bool) (d a b : Reg) (s : State) :
    Out.keeps s.mem (execMaxn g q d a b s) := by
  simp [execMaxn]

@[simp] theorem execAnd_mem (g : Pred) (q : Bool) (d a b : Reg) (s : State) :
    Out.keeps s.mem (execAnd g q d a b s) := by
  simp [execAnd]

@[simp] theorem execOr_mem (g : Pred) (q : Bool) (d a b : Reg) (s : State) : Out.keeps s.mem (execOr g q d a b s) := by
  simp [execOr]

@[simp] theorem execXor_mem (g : Pred) (q : Bool) (d a b : Reg) (s : State) :
    Out.keeps s.mem (execXor g q d a b s) := by
  simp [execXor]

@[simp] theorem execAndn_mem (g : Pred) (q : Bool) (d a b : Reg) (s : State) :
    Out.keeps s.mem (execAndn g q d a b s) := by
  simp [execAndn]

@[simp] theorem execShl_mem (g : Pred) (q : Bool) (d a b : Reg) (s : State) :
    Out.keeps s.mem (execShl g q d a b s) := by
  simp [execShl]

@[simp] theorem execShr_mem (g : Pred) (q : Bool) (d a b : Reg) (s : State) :
    Out.keeps s.mem (execShr g q d a b s) := by
  simp [execShr]

@[simp] theorem execSra_mem (g : Pred) (q : Bool) (d a b : Reg) (s : State) :
    Out.keeps s.mem (execSra g q d a b s) := by
  simp [execSra]

@[simp] theorem execAddi_mem (g : Pred) (q : Bool) (d a : Reg) (i : BitVec 10) (s : State) :
    Out.keeps s.mem (execAddi g q d a i s) := by
  simp [execAddi]

@[simp] theorem execShli_mem (g : Pred) (q : Bool) (d a : Reg) (i : BitVec 6) (s : State) :
    Out.keeps s.mem (execShli g q d a i s) := by
  simp [execShli]

@[simp] theorem execShri_mem (g : Pred) (q : Bool) (d a : Reg) (i : BitVec 6) (s : State) :
    Out.keeps s.mem (execShri g q d a i s) := by
  simp [execShri]

@[simp] theorem execSrai_mem (g : Pred) (q : Bool) (d a : Reg) (i : BitVec 6) (s : State) :
    Out.keeps s.mem (execSrai g q d a i s) := by
  simp [execSrai]

@[simp] theorem execMovi_mem (g : Pred) (q : Bool) (d : Reg) (i : BitVec 15) (s : State) :
    Out.keeps s.mem (execMovi g q d i s) := by
  simp [execMovi]

@[simp] theorem execLhi_mem (g : Pred) (q : Bool) (d : Reg) (i : BitVec 15) (s : State) :
    Out.keeps s.mem (execLhi g q d i s) := by
  simp [execLhi]

@[simp] theorem execSxI8_mem (g : Pred) (q : Bool) (d a : Reg) (s : State) : Out.keeps s.mem (execSxI8 g q d a s) := by
  simp [execSxI8]

@[simp] theorem execSxI16_mem (g : Pred) (q : Bool) (d a : Reg) (s : State) :
    Out.keeps s.mem (execSxI16 g q d a s) := by
  simp [execSxI16]

@[simp] theorem execSxI32_mem (g : Pred) (q : Bool) (d a : Reg) (s : State) :
    Out.keeps s.mem (execSxI32 g q d a s) := by
  simp [execSxI32]

@[simp] theorem execZxN8_mem (g : Pred) (q : Bool) (d a : Reg) (s : State) : Out.keeps s.mem (execZxN8 g q d a s) := by
  simp [execZxN8]

@[simp] theorem execZxN16_mem (g : Pred) (q : Bool) (d a : Reg) (s : State) :
    Out.keeps s.mem (execZxN16 g q d a s) := by
  simp [execZxN16]

@[simp] theorem execZxN32_mem (g : Pred) (q : Bool) (d a : Reg) (s : State) :
    Out.keeps s.mem (execZxN32 g q d a s) := by
  simp [execZxN32]

@[simp] theorem execClz_mem (g : Pred) (q : Bool) (d a : Reg) (s : State) : Out.keeps s.mem (execClz g q d a s) := by
  simp [execClz]

@[simp] theorem execCtz_mem (g : Pred) (q : Bool) (d a : Reg) (s : State) : Out.keeps s.mem (execCtz g q d a s) := by
  simp [execCtz]

@[simp] theorem execPopc_mem (g : Pred) (q : Bool) (d a : Reg) (s : State) : Out.keeps s.mem (execPopc g q d a s) := by
  simp [execPopc]

@[simp] theorem execSel_mem (g : Pred) (q : Bool) (d a b : Reg) (f : Pred) (s : State) :
    Out.keeps s.mem (execSel g q d a b f s) := by
  simp [execSel]

@[simp] theorem execCmpEq_mem (g : Pred) (q : Bool) (pd : PredPair) (a b : Reg) (s : State) :
    Out.keeps s.mem (execCmpEq g q pd a b s) := by
  simp [execCmpEq]

@[simp] theorem execCmpNe_mem (g : Pred) (q : Bool) (pd : PredPair) (a b : Reg) (s : State) :
    Out.keeps s.mem (execCmpNe g q pd a b s) := by
  simp [execCmpNe]

@[simp] theorem execCmpLt_mem (g : Pred) (q : Bool) (pd : PredPair) (a b : Reg) (s : State) :
    Out.keeps s.mem (execCmpLt g q pd a b s) := by
  simp [execCmpLt]

@[simp] theorem execCmpLe_mem (g : Pred) (q : Bool) (pd : PredPair) (a b : Reg) (s : State) :
    Out.keeps s.mem (execCmpLe g q pd a b s) := by
  simp [execCmpLe]

@[simp] theorem execCmpLtn_mem (g : Pred) (q : Bool) (pd : PredPair) (a b : Reg) (s : State) :
    Out.keeps s.mem (execCmpLtn g q pd a b s) := by
  simp [execCmpLtn]

@[simp] theorem execCmpLen_mem (g : Pred) (q : Bool) (pd : PredPair) (a b : Reg) (s : State) :
    Out.keeps s.mem (execCmpLen g q pd a b s) := by
  simp [execCmpLen]

@[simp] theorem execCmpiEq_mem (g : Pred) (q : Bool) (pd : PredPair) (a : Reg) (i : BitVec 10) (s : State) :
    Out.keeps s.mem (execCmpiEq g q pd a i s) := by
  simp [execCmpiEq]

@[simp] theorem execCmpiNe_mem (g : Pred) (q : Bool) (pd : PredPair) (a : Reg) (i : BitVec 10) (s : State) :
    Out.keeps s.mem (execCmpiNe g q pd a i s) := by
  simp [execCmpiNe]

@[simp] theorem execCmpiLt_mem (g : Pred) (q : Bool) (pd : PredPair) (a : Reg) (i : BitVec 10) (s : State) :
    Out.keeps s.mem (execCmpiLt g q pd a i s) := by
  simp [execCmpiLt]

@[simp] theorem execCmpiLe_mem (g : Pred) (q : Bool) (pd : PredPair) (a : Reg) (i : BitVec 10) (s : State) :
    Out.keeps s.mem (execCmpiLe g q pd a i s) := by
  simp [execCmpiLe]

@[simp] theorem execCmpiLtn_mem (g : Pred) (q : Bool) (pd : PredPair) (a : Reg) (i : BitVec 10) (s : State) :
    Out.keeps s.mem (execCmpiLtn g q pd a i s) := by
  simp [execCmpiLtn]

@[simp] theorem execCmpiLen_mem (g : Pred) (q : Bool) (pd : PredPair) (a : Reg) (i : BitVec 10) (s : State) :
    Out.keeps s.mem (execCmpiLen g q pd a i s) := by
  simp [execCmpiLen]

@[simp] theorem execPand_mem (g : Pred) (q : Bool) (d a b : Pred) (s : State) :
    Out.keeps s.mem (execPand g q d a b s) := by
  simp [execPand]

@[simp] theorem execPor_mem (g : Pred) (q : Bool) (d a b : Pred) (s : State) :
    Out.keeps s.mem (execPor g q d a b s) := by
  simp [execPor]

@[simp] theorem execPxor_mem (g : Pred) (q : Bool) (d a b : Pred) (s : State) :
    Out.keeps s.mem (execPxor g q d a b s) := by
  simp [execPxor]

@[simp] theorem execPmov_mem (g : Pred) (q : Bool) (d a : Pred) (s : State) : Out.keeps s.mem (execPmov g q d a s) := by
  simp [execPmov]

end Sys2Proof.Machine
end

