-- ==== Sys2Proof/Laws/FrameUnits.lean ====
section
/-! SUPPORT. That the grid, the array, the engines and the events of a context keep device memory: for each function that writes
no byte of it, one lemma, and for each meaning also that it answers a next state. -/

namespace Sys2Proof.Machine

/-! ### Streams -/

@[simp] theorem State.setCurrent_mem (s : State) (n : CoreId) (e : Fin 6) (q : Option StreamCmd) :
    (State.setCurrent s n e q).mem = s.mem := rfl

@[simp] theorem State.finishStream_mem (s : State) (n : CoreId) (e : Fin 6) (q : StreamCmd) :
    (State.finishStream s n e q).mem = s.mem := rfl

@[simp] theorem State.sentStream_mem (s : State) (n : CoreId) (e : Fin 6) (q : StreamCmd) :
    (State.sentStream s n e q).mem = s.mem := by
  unfold State.sentStream
  (repeat' split) <;> simp

@[simp] theorem State.planeWrite_mem (s : State) (n : CoreId) (q : StreamCmd) (l : List (Nat × List Byte)) :
    (State.planeWrite s n q l).mem = s.mem := rfl

@[simp] theorem State.faultDone_mem (s : State) (n : CoreId) (e : Fin 6) (q : StreamCmd) (u : Nat) (f : UnitFault) :
    (State.faultDone s n e q u f).mem = s.mem := by
  simp only [State.faultDone]
  (repeat' split) <;> simp

@[simp] theorem State.faultOver_mem (s : State) (n : CoreId) (e : Fin 6) (id : Nat) : (State.faultOver s n e id).mem = s.mem := by
  unfold State.faultOver
  (repeat' split) <;> simp

@[simp] theorem State.failUnit_mem (s : State) (n : CoreId) (e : Fin 6) (id u : Nat) (f : UnitFault) :
    (State.failUnit s n e id u f).mem = s.mem := by
  simp [State.failUnit]

@[simp] theorem State.streamFault_mem (s : State) (n : CoreId) (e : Fin 6) (q : StreamCmd) (f : UnitFault) :
    (State.streamFault s n e q f).mem = s.mem := by
  simp [State.streamFault]

@[simp] theorem State.unitOver_mem (s : State) (n : CoreId) (e : Fin 6) (id : Nat) :
    (State.unitOver s n e id).mem = s.mem := by
  unfold State.unitOver
  (repeat' split) <;> simp

@[simp] theorem execStreamCommandTake_mem (n : CoreId) (e : Fin 6) (s : State) :
    Out.keeps s.mem (execStreamCommandTake n e s) := by
  simp only [execStreamCommandTake]
  (repeat' split) <;> simp

@[simp] theorem execStreamRetry_mem (n : CoreId) (e : Fin 6) (s : State) : Out.keeps s.mem (execStreamRetry n e s) := by
  unfold execStreamRetry
  (repeat' split) <;> simp

@[simp] theorem execIndexLookup_mem (n : CoreId) (e : Fin 6) (s : State) : Out.keeps s.mem (execIndexLookup n e s) := by
  simp only [execIndexLookup]
  (repeat' split) <;> simp

@[simp] theorem State.useRun_mem (s : State) (n : CoreId) (old new : Option Xlat) :
    (State.useRun s n old new).mem = s.mem := by
  unfold State.useRun
  (repeat' split) <;> simp

@[simp] theorem State.readOne_mem (s : State) (n : CoreId) (e : Fin 6) (q : StreamCmd) (obs : Nat → Observer) :
    (State.readOne s n e q obs).mem = s.mem := by
  unfold State.readOne
  (repeat' split) <;> simp

@[simp] theorem State.postUnit_mem
    (s : State) (n : CoreId) (e : Fin 6) (q : StreamCmd) (u : Nat) (kind : PostKind) (va : Word) (pa : Nat) (v : Word)
    (born : Nat) : (State.postUnit s n e q u kind va pa v born).mem = s.mem := rfl

@[simp] theorem State.postBytes_mem
    (s : State) (n : CoreId) (e : Fin 6) (q : StreamCmd) (u : Nat) (ps : List (Nat × Nat)) (b : List Byte) (born : Nat) :
    (State.postBytes s n e q u ps b born).mem = s.mem := rfl

@[simp] theorem State.fillWrite_mem
    (s : State) (n : CoreId) (e : Fin 6) (q : StreamCmd) (g : Signal) (units : List (List Byte)) (next : Option StreamCmd) (fl : BitVec 7) :
    (State.fillWrite s n e q g units next fl).mem = s.mem := by
  unfold State.fillWrite
  (repeat' split) <;> simp

@[simp] theorem State.gatherUnit_mem (s : State) (n : CoreId) (e : Fin 6) (q : StreamCmd) :
    (State.gatherUnit s n e q).mem = s.mem := by
  simp only [State.gatherUnit]
  (repeat' split) <;> simp

/-- A fill's step keeps the memory when what it does, gather or write, keeps it. -/
theorem State.fillStep_mem (s : State) (n : CoreId) (e : Fin 6) (q : StreamCmd) (full : Bool) (gather : State)
    (write : Signal → State) (hg : gather.mem = s.mem) (hw : ∀ g, (write g).mem = s.mem) :
    (s.fillStep n e q full gather write).mem = s.mem := by
  unfold State.fillStep
  (repeat' split) <;> simp [hg, hw]

@[simp] theorem execFillWindow_mem (n : CoreId) (e : Fin 6) (s : State) : Out.keeps s.mem (execFillWindow n e s) := by
  unfold execFillWindow
  simp only [Out.keeps_next]
  split
  · rfl
  · split
    · apply State.fillStep_mem <;> simp
    · rfl

@[simp] theorem State.drainNext_mem (s : State) (n : CoreId) (e : Fin 6) (q : StreamCmd) (units : Nat) :
    (State.drainNext s n e q units).mem = s.mem := by
  unfold State.drainNext
  (repeat' split) <;> simp

@[simp] theorem execDrainSample_mem (n : CoreId) (e : Fin 6) (s : State) : Out.keeps s.mem (execDrainSample n e s) := by
  simp only [execDrainSample]
  (repeat' split) <;> simp

@[simp] theorem State.planeUnit_mem (s : State) (n : CoreId) (e : Fin 6) (q : StreamCmd) (u : Nat) (b : List Byte) :
    (State.planeUnit s n e q u b).mem = s.mem := by
  simp [State.planeUnit]

@[simp] theorem State.copyOut_mem
    (s : State) (n : CoreId) (e : Fin 6) (q : StreamCmd) (u : Nat) (dst : Option (List (Nat × Nat))) (b : List Byte) (born : Nat) :
    (State.copyOut s n e q u dst b born).mem = s.mem := by
  unfold State.copyOut
  (repeat' split) <;> simp

@[simp] theorem State.copyUnit_mem (s : State) (n : CoreId) (e : Fin 6) (q : StreamCmd) :
    (State.copyUnit s n e q).mem = s.mem := by
  unfold State.copyUnit
  (repeat' split) <;> simp

@[simp] theorem State.copyRead_mem (s : State) (n : CoreId) (e : Fin 6) (q : StreamCmd) :
    (State.copyRead s n e q).mem = s.mem := by
  unfold State.copyRead
  (repeat' split) <;> simp

@[simp] theorem execCopyUnit_mem (n : CoreId) (e : Fin 6) (s : State) : Out.keeps s.mem (execCopyUnit n e s) := by
  unfold execCopyUnit
  (repeat' split) <;> simp

/-! ### Yarrow -/

@[simp] theorem State.entryStep_mem (s : State) (n : CoreId) (e : Fin 6) (q : StreamCmd) :
    (State.entryStep s n e q).mem = s.mem := by
  unfold State.entryStep
  (repeat' split) <;> simp

@[simp] theorem State.itemStep_mem (s : State) (n : CoreId) (e : Fin 6) (q : StreamCmd) (row : ListRow) :
    (State.itemStep s n e q row).mem = s.mem := by
  unfold State.itemStep
  (repeat' split) <;> simp

@[simp] theorem State.gatherSkip_mem (s : State) (n : CoreId) (e : Fin 6) (q : StreamCmd) :
    (State.gatherSkip s n e q).mem = s.mem := by
  unfold State.gatherSkip
  (repeat' split) <;> simp

@[simp] theorem execYarrowGather_mem (n : CoreId) (e : Fin 6) (s : State) :
    Out.keeps s.mem (execYarrowGather n e s) := by
  unfold execYarrowGather
  simp only [Out.keeps_next]
  split
  · rfl
  · split
    · split
      · split <;> simp
      · simp
      · apply State.fillStep_mem <;> simp
    · rfl

@[simp] theorem State.poolStep_mem (s : State) (n : CoreId) (e : Fin 6) (q : StreamCmd) :
    (State.poolStep s n e q).mem = s.mem := by
  unfold State.poolStep
  (repeat' split) <;> simp

@[simp] theorem execYarrowPool_mem (n : CoreId) (e : Fin 6) (s : State) : Out.keeps s.mem (execYarrowPool n e s) := by
  unfold execYarrowPool
  simp only [Out.keeps_next]
  split
  · rfl
  · split
    · apply State.fillStep_mem <;> simp
    · rfl

@[simp] theorem State.scatterUnit_mem (s : State) (n : CoreId) (e : Fin 6) (q : StreamCmd) (row : ListRow) :
    (State.scatterUnit s n e q row).mem = s.mem := by
  unfold State.scatterUnit
  (repeat' split) <;> simp

@[simp] theorem execYarrowScatterAdd_mem (n : CoreId) (e : Fin 6) (s : State) :
    Out.keeps s.mem (execYarrowScatterAdd n e s) := by
  unfold execYarrowScatterAdd
  (repeat' split) <;> simp

/-! ### CtxEvents -/

@[simp] theorem execSlotTableEffect_mem (n : CoreId) (s : State) : Out.keeps s.mem (execSlotTableEffect n s) := by
  simp only [execSlotTableEffect]
  (repeat' split) <;> simp

@[simp] theorem execTickStep_mem (c : CtxId) (s : State) : Out.keeps s.mem (execTickStep c s) := by
  simp only [execTickStep]
  (repeat' split) <;> simp

@[simp] theorem State.unpost_mem (s : State) (p : Posted) : (State.unpost s p).mem = s.mem := rfl

@[simp] theorem State.postOver_mem (s : State) (p : Posted) : (State.postOver s p).mem = s.mem := by
  unfold State.postOver
  (repeat' split) <;> simp

@[simp] theorem State.discardStray_mem (s : State) (p : Posted) : (State.discardStray s p).mem = s.mem := by
  simp [State.discardStray]

@[simp] theorem State.holdPost_mem (s : State) (p : Posted) (f : PendFault) : (State.holdPost s p f).mem = s.mem := by
  unfold State.holdPost
  (repeat' split) <;> simp

@[simp] theorem State.postPoison_mem (s : State) (p : Posted) : (State.postPoison s p).mem = s.mem := by
  unfold State.postPoison
  (repeat' split) <;> simp

@[simp] theorem State.postFails_mem (s : State) (p : Posted) (cause : BitVec 8) (detail : Word) :
    (State.postFails s p cause detail).mem = s.mem := by
  unfold State.postFails
  (repeat' split) <;> simp

@[simp] theorem execDeviceReadReturn_mem (c : CtxId) (s : State) : Out.keeps s.mem (execDeviceReadReturn c s) := by
  unfold execDeviceReadReturn
  (repeat' split) <;> simp

@[simp] theorem execRemoteWritePerform_mem (n : CoreId) (s : State) : Out.keeps s.mem (execRemoteWritePerform n s) := by
  unfold execRemoteWritePerform
  (repeat' split) <;> simp

@[simp] theorem execBarrierRelease_mem (c : CtxId) (s : State) : Out.keeps s.mem (execBarrierRelease c s) := by
  simp only [execBarrierRelease]
  (repeat' split) <;> simp

@[simp] theorem execSyncRestart_mem (c : CtxId) (s : State) : Out.keeps s.mem (execSyncRestart c s) := by
  unfold execSyncRestart
  simp only [Out.keeps_next]
  split
  · rw [foldl_mem]
    intro s o
    simp
  · rfl

@[simp] theorem State.markLate_mem (s : State) (c : CtxId) : (State.markLate s c).mem = s.mem := rfl

@[simp] theorem execContextRelease_mem (c : CtxId) (s : State) : Out.keeps s.mem (execContextRelease c s) := by
  simp only [execContextRelease]
  (repeat' split) <;> simp

/-! ### GridRun -/

@[simp] theorem execGridGrant_mem (n : CoreId) (s : State) : Out.keeps s.mem (execGridGrant n s) := by
  simp only [execGridGrant]
  (repeat' split) <;> simp

@[simp] theorem execConfigurationLoad_mem (n : CoreId) (s : State) : Out.keeps s.mem (execConfigurationLoad n s) := by
  simp only [execConfigurationLoad]
  (repeat' split) <;> simp

@[simp] theorem execGsetApply_mem (n : CoreId) (s : State) : Out.keeps s.mem (execGsetApply n s) := by
  simp only [execGsetApply]
  (repeat' split) <;> simp

@[simp] theorem execGrunStart_mem (n : CoreId) (s : State) : Out.keeps s.mem (execGrunStart n s) := by
  simp only [execGrunStart]
  (repeat' split) <;> simp

@[simp] theorem State.drainAll_mem (s : State) (n : CoreId) : (State.drainAll s n).mem = s.mem := by
  simp [State.drainAll]

@[simp] theorem State.oweFlags_mem (s : State) (n : CoreId) (o : Fin 4 × Nat × BitVec 7) : (State.oweFlags s n o).mem = s.mem := rfl

@[simp] theorem State.runFlags_mem (s : State) (n : CoreId) : (State.runFlags s n).mem = s.mem := by
  unfold State.runFlags
  split
  · rfl
  · rw [State.onGrid_mem, foldl_mem _ _ _ fun s o => State.oweFlags_mem s n o]
    simp

@[simp] theorem State.nextIteration_mem (s : State) (n : CoreId) : (State.nextIteration s n).mem = s.mem := by
  unfold State.nextIteration
  (repeat' split) <;> simp

@[simp] theorem State.gridFault_mem (s : State) (n : CoreId) (cause : BitVec 8) (detail : Word) :
    (State.gridFault s n cause detail).mem = s.mem := by
  simp only [State.gridFault]
  (repeat' split) <;> simp

@[simp] theorem State.gridEnd_mem (s : State) (n : CoreId) : (State.gridEnd s n).mem = s.mem := by
  simp only [State.gridEnd]
  (repeat' split) <;> simp

@[simp] theorem State.gridStep_mem (s : State) (n : CoreId) (r : GridRun) (ws : List TileWord) :
    (State.gridStep s n r ws).mem = s.mem := by
  simp only [State.gridStep]
  (repeat' split) <;> simp

@[simp] theorem execGridWord_mem (n : CoreId) (s : State) : Out.keeps s.mem (execGridWord n s) := by
  simp only [execGridWord]
  (repeat' split) <;> simp

@[simp] theorem State.lateFlags_mem (s : State) (n : CoreId) (f : FlagSet) : (State.lateFlags s n f).mem = s.mem := by
  unfold State.lateFlags
  (repeat' split) <;> simp

@[simp] theorem execAttarComplete_mem (n : CoreId) (t : Fin 32) (s : State) :
    Out.keeps s.mem (execAttarComplete n t s) := by
  simp only [execAttarComplete]
  (repeat' split) <;> simp

@[simp] theorem execLandingAfterLastEnd_mem (n : CoreId) (s : State) :
    Out.keeps s.mem (execLandingAfterLastEnd n s) := by
  unfold execLandingAfterLastEnd
  (repeat' split) <;> simp

@[simp] theorem execGrunPerform_mem (n : CoreId) (s : State) : Out.keeps s.mem (execGrunPerform n s) := by
  unfold execGrunPerform
  (repeat' split) <;> simp

@[simp] theorem execReadoutSnapshot_mem (n : CoreId) (p : Fin 2) (s : State) :
    Out.keeps s.mem (execReadoutSnapshot n p s) := by
  simp only [execReadoutSnapshot]
  (repeat' split) <;> simp

@[simp] theorem execReadoutRowDeliver_mem (n : CoreId) (p : Fin 2) (s : State) :
    Out.keeps s.mem (execReadoutRowDeliver n p s) := by
  simp [execReadoutRowDeliver]

/-! ### Matrix -/

@[simp] theorem State.mxFault_mem (s : State) (n : CoreId) (i : MxItem) (cause : BitVec 8) (detail : Word) :
    (State.mxFault s n i cause detail).mem = s.mem := rfl

@[simp] theorem execRoutineLoad_mem (n : CoreId) (s : State) : Out.keeps s.mem (execRoutineLoad n s) := by
  simp only [execRoutineLoad]
  (repeat' split) <;> simp

@[simp] theorem execRoutineCallStart_mem (n : CoreId) (s : State) : Out.keeps s.mem (execRoutineCallStart n s) := by
  simp only [execRoutineCallStart]
  (repeat' split) <;> simp

@[simp] theorem microOp_mem (f : MxCall → MxCall) (s : State) : Out.keeps s.mem (microOp f s) := by
  unfold microOp
  (repeat' split) <;> simp

@[simp] theorem State.callFault_mem (s : State) (n : CoreId) (r : MxCall) (cause : BitVec 8) (detail : Word) :
    (State.callFault s n r cause detail).mem = s.mem := rfl

@[simp] theorem lineOp_mem (p : BitVec 3) (f : Nat → MxCall → MxCall) (s : State) : Out.keeps s.mem (lineOp p f s) := by
  simp only [lineOp]
  (repeat' split) <;> simp

@[simp] theorem State.issueEffect_mem (s : State) (r : MxCall) (e : AccEffect) :
    (State.issueEffect s r e).mem = s.mem := rfl

@[simp] theorem rowsOp_mem (n : Nat) (e : Nat → AccEffect) (s : State) : Out.keeps s.mem (rowsOp n e s) := by
  unfold rowsOp
  split
  · simp
  · exact microOp_mem _ _

@[simp] theorem execMEnd_mem (s : State) : Out.keeps s.mem (execMEnd s) := by
  unfold execMEnd
  (repeat' split) <;> simp

@[simp] theorem execFmt_mem (f : BitVec 2) (s : State) : Out.keeps s.mem (execFmt f s) := by
  simp [execFmt]

@[simp] theorem execBindA_mem (m : Bool) (s : State) : Out.keeps s.mem (execBindA m s) := by
  simp [execBindA]

@[simp] theorem execBindB_mem (p : BitVec 3) (st : Bool) (s : State) : Out.keeps s.mem (execBindB p st s) := by
  simp [execBindB]

@[simp] theorem execBindAcc_mem (p : BitVec 3) (st : Bool) (s : State) : Out.keeps s.mem (execBindAcc p st s) := by
  simp [execBindAcc]

@[simp] theorem execScl_mem (p : BitVec 3) (s : State) : Out.keeps s.mem (execScl p s) := by
  simp [execScl]

@[simp] theorem execPass_mem (c : BitVec 12) (s : State) : Out.keeps s.mem (execPass c s) := by
  simp [execPass]

@[simp] theorem execPassParam_mem (p : BitVec 3) (s : State) : Out.keeps s.mem (execPassParam p s) := by
  simp [execPassParam]

@[simp] theorem execLp_mem (c : BitVec 12) (s : State) : Out.keeps s.mem (execLp c s) := by
  simp [execLp]

@[simp] theorem execLpParam_mem (p : BitVec 3) (s : State) : Out.keeps s.mem (execLpParam p s) := by
  simp [execLpParam]

@[simp] theorem execEl_mem (s : State) : Out.keeps s.mem (execEl s) := by
  simp [execEl]

@[simp] theorem execPadd_mem (p : BitVec 3) (v : BitVec 16) (s : State) : Out.keeps s.mem (execPadd p v s) := by
  simp [execPadd]

@[simp] theorem execZacc_mem (n : BitVec 10) (s : State) : Out.keeps s.mem (execZacc n s) := by
  simp [execZacc]

@[simp] theorem execAnch_mem (n : BitVec 10) (a : BitVec 16) (s : State) : Out.keeps s.mem (execAnch n a s) := by
  simp [execAnch]

@[simp] theorem execTok_mem (s : State) : Out.keeps s.mem (execTok s) := by
  unfold execTok
  split
  · simp
  · exact microOp_mem _ _

@[simp] theorem execWt_mem (k : BitVec 4) (s : State) : Out.keeps s.mem (execWt k s) := by
  unfold execWt
  (repeat' split) <;> simp

@[simp] theorem execArrayCycle_mem (n : CoreId) (s : State) : Out.keeps s.mem (execArrayCycle n s) := by
  simp only [execArrayCycle]
  (repeat' split) <;> simp

@[simp] theorem execAccumulateLand_mem (n : CoreId) (s : State) : Out.keeps s.mem (execAccumulateLand n s) := by
  simp [execAccumulateLand]

end Sys2Proof.Machine
end

