-- ==== Sys2Proof/Laws/FrameDevice.lean ====
section
/-! SUPPORT. That placement, the monitor, the mailbox, errors and turns keep device memory: for each function that writes
no byte of it, one lemma, and for each meaning also that it answers a next state. -/

namespace Sys2Proof.Machine

/-! ### Objects -/

@[simp] theorem State.answer_mem (s : State) (a b : BitVec 32) : (s.answer a b).mem = s.mem := rfl

@[simp] theorem mailbox_mem (f : State → State) (s : State) (h : ∀ s, (f s).mem = s.mem) :
    Out.keeps s.mem (mailbox f s) := by
  unfold mailbox
  (repeat' split) <;> simp [h]

@[simp] theorem sessionMailbox_mem (f : State → State) (s : State) (h : ∀ s, (f s).mem = s.mem) :
    Out.keeps s.mem (sessionMailbox f s) := by
  unfold sessionMailbox
  apply mailbox_mem
  intro s
  split
  · exact h s
  · simp

@[simp] theorem execUnload_mem (obj : BitVec 16) (s : State) : Out.keeps s.mem (execUnload obj s) := by
  unfold execUnload
  apply mailbox_mem
  intro s
  split <;> simp

/-! ### Save -/

@[simp] theorem State.retryRestored_mem (s : State) (n : CoreId) (e : Fin 6) (i : Nat) :
    (State.retryRestored s n e i).mem = s.mem := by
  simp only [State.retryRestored]
  (repeat' split) <;> simp

@[simp] theorem State.retryAll_mem (s : State) (n : CoreId) (cs : List (Fin 4)) :
    (State.retryAll s n cs).mem = s.mem := by
  unfold State.retryAll
  apply foldl_mem
  intro s e
  apply foldl_mem
  intro s i
  split <;> simp

@[simp] theorem State.suspendCalls_mem (s : State) (kid : Nat) : (State.suspendCalls s kid).mem = s.mem := by
  unfold State.suspendCalls
  apply foldl_mem
  intro s c
  dsimp only
  split <;> simp

@[simp] theorem State.saveKernel_mem (s : State) (kid : Nat) : (State.saveKernel s kid).mem = s.mem := by
  unfold State.saveKernel
  (repeat' split) <;> simp

@[simp] theorem State.beginPreempt_mem (s : State) (kid : Nat) : (State.beginPreempt s kid).mem = s.mem := by
  unfold State.beginPreempt
  apply foldl_mem
  intro s a
  (repeat' split) <;> simp

/-! ### Placement -/

@[simp] theorem State.postQueue_mem (s : State) (d : DomNum) (cause : BitVec 8) (detail : Word) :
    (State.postQueue s d cause detail).mem = s.mem := rfl

@[simp] theorem State.stopQueue_mem (s : State) (q : BitVec 7) (cause : BitVec 8) (reason : Nat) :
    (State.stopQueue s q cause reason).mem = s.mem := rfl

@[simp] theorem execAging_mem (q : BitVec 7) (s : State) : Out.keeps s.mem (execAging q s) := by
  simp only [execAging]
  (repeat' split) <;> simp

@[simp] theorem State.readWord_mem (s : State) (q : BitVec 7) (i : Nat) : (State.readWord s q i).mem = s.mem := by
  simp only [State.readWord]
  (repeat' split) <;> simp

@[simp] theorem State.readHead_mem (s : State) (q : BitVec 7) : (State.readHead s q).mem = s.mem := by
  unfold State.readHead
  dsimp only
  have h : ((List.range 8).foldl (fun s i => if s.readyAt (8 + i) then s.readWord q i else s) s).mem = s.mem :=
    foldl_mem _ _ _ fun s i => by split <;> simp
  (repeat' split) <;> first | simp [h] | simp

@[simp] theorem State.makeKernel_mem
    (s : State) (q : BitVec 7) (r : LaunchRec) (o : Object) (im : KImage) (p : Places) :
    (State.makeKernel s q r o im p).mem = s.mem := by
  unfold State.makeKernel
  apply foldl_mem
  intro s a
  (repeat' split) <;> simp

@[simp] theorem State.served_mem (s : State) (q : BitVec 7) (v : Queue) : (State.served s q v).mem = s.mem := rfl

@[simp] theorem State.preempt_mem (s : State) (eff ndie ncore : Nat) :
    (State.preempt s eff ndie ncore).mem = s.mem := by
  unfold State.preempt
  (repeat' split) <;> simp

@[simp] theorem State.serveRecord_mem (s : State) (q : BitVec 7) (r : LaunchRec) (o : Object) (im : KImage) :
    (State.serveRecord s q r o im).mem = s.mem := by
  simp only [State.serveRecord]
  (repeat' split) <;> simp

@[simp] theorem State.putSaved_mem (s : State) (m : CoreId) (kid : Nat) (v : SavedCore) (n : Needs) :
    (State.putSaved s m kid v n).mem = s.mem := by
  simp only [State.putSaved]
  (repeat' split) <;> simp

@[simp] theorem State.restoreKernel_mem (s : State) (k : Kernel) (o : Object) (ncore : Nat) (p : Places) :
    (State.restoreKernel s k o ncore p).mem = s.mem := by
  unfold State.restoreKernel
  apply foldl_mem
  intro s a
  dsimp only
  split <;> simp

@[simp] theorem State.serveWaiting_mem (s : State) (q : BitVec 7) (k : Kernel) (o : Object) (im : KImage) :
    (State.serveWaiting s q k o im).mem = s.mem := by
  simp only [State.serveWaiting]
  (repeat' split) <;> simp

@[simp] theorem State.serveHead_mem (s : State) (q : BitVec 7) : (State.serveHead s q).mem = s.mem := by
  simp only [State.serveHead]
  (repeat' split) <;> simp

@[simp] theorem State.serve_mem (s : State) (q : BitVec 7) (kid : Option Nat) : (State.serve s q kid).mem = s.mem := by
  simp only [State.serve]
  (repeat' split) <;> simp

@[simp] theorem State.serveNext_mem (s : State) : (State.serveNext s).mem = s.mem := by
  unfold State.serveNext
  (repeat' split) <;> simp

@[simp] theorem execLaunchPlacement_mem (s : State) : Out.keeps s.mem (execLaunchPlacement s) := by
  simp only [execLaunchPlacement]
  (repeat' split) <;> simp

@[simp] theorem State.forgetKernel_mem (s : State) (kid : Nat) : (State.forgetKernel s kid).mem = s.mem := rfl

@[simp] theorem State.abortRecord_mem (s : State) (k : Kernel) : (State.abortRecord s k).mem = s.mem := by
  unfold State.abortRecord
  (repeat' split) <;> simp

@[simp] theorem State.launchPerformed_mem (s : State) (c : CtxId) (r : LaunchReq) :
    (State.launchPerformed s c r).mem = s.mem := rfl

@[simp] theorem State.launchFault_mem (s : State) (c : CtxId) (r : LaunchReq) (cause : BitVec 8) (detail : Word) :
    (State.launchFault s c r cause detail).mem = s.mem := rfl

@[simp] theorem execTailWrite_mem (q : BitVec 7) (v : BitVec 32) (s : State) :
    Out.keeps s.mem (execTailWrite q v s) := by
  simp only [execTailWrite]
  (repeat' split) <;> simp

@[simp] theorem execStopClear_mem (q : BitVec 7) (s : State) : Out.keeps s.mem (execStopClear q s) := by
  unfold execStopClear
  (repeat' split) <;> simp

/-! ### Tenants -/

@[simp] theorem State.measure_mem (s : State) (i : BitVec 8) (v : BitVec 384) : (State.measure s i v).mem = s.mem :=
  rfl

@[simp] theorem State.handOver_mem (s : State) (d : DomNum) (l : List RangeEntry) (root : Option Word) :
    (State.handOver s d l root).mem = s.mem := rfl

@[simp] theorem State.strayRecords_mem (s : State) (q : BitVec 7) (d : DomNum) : (State.strayRecords s q d).mem = s.mem := by
  simp only [State.strayRecords]
  (repeat' split)
  · rfl
  · exact foldl_mem _ _ _ fun _ _ => rfl
  · rfl

@[simp] theorem State.newDomain_mem (s : State) (d : DomainSpec) : (State.newDomain s d).mem = s.mem := rfl

@[simp] theorem State.killKernel_mem (s : State) (kid : Nat) : (State.killKernel s kid).mem = s.mem := by
  unfold State.killKernel
  apply foldl_mem
  intro s a
  (repeat' split) <;> simp

@[simp] theorem execAbort_mem (dom : DomNum) (c : CtxId) (s : State) : Out.keeps s.mem (execAbort dom c s) := by
  unfold execAbort
  apply sessionMailbox_mem
  intro s
  split <;> simp

@[simp] theorem execResume_mem (dom : DomNum) (c : CtxId) (epc btarg : Word) (s : State) :
    Out.keeps s.mem (execResume dom c epc btarg s) := by
  unfold execResume
  apply sessionMailbox_mem
  intro s
  dsimp only
  (repeat' split) <;> simp

@[simp] theorem execDestroy_mem (dom : DomNum) (s : State) : Out.keeps s.mem (execDestroy dom s) := by
  unfold execDestroy
  apply sessionMailbox_mem
  intro s
  (repeat' split) <;> simp

@[simp] theorem State.finishDestroy_mem (s : State) (d : DomNum) : (State.finishDestroy s d).mem = s.mem := by
  unfold State.finishDestroy
  dsimp only
  split
  · simp
  · rfl

@[simp] theorem execMap_mem (dom : DomNum) (entries : List (BitVec 6 × RangeEntry)) (root : Option Word) (s : State) :
    Out.keeps s.mem (execMap dom entries root s) := by
  unfold execMap
  apply sessionMailbox_mem
  intro s
  (repeat' split) <;> simp

@[simp] theorem execInval_mem (dom : DomNum) (s : State) : Out.keeps s.mem (execInval dom s) := by
  unfold execInval
  apply sessionMailbox_mem
  intro s
  (repeat' split) <;> simp

@[simp] theorem execInvalidationPerform_mem (dom : DomNum) (s : State) :
    Out.keeps s.mem (execInvalidationPerform dom s) := by
  simp only [execInvalidationPerform]
  (repeat' split) <;> simp

@[simp] theorem execQcfg_mem (q : BitVec 7) (cfg : QueueCfg) (s : State) : Out.keeps s.mem (execQcfg q cfg s) := by
  unfold execQcfg
  apply sessionMailbox_mem
  intro s
  (repeat' split) <;> simp

@[simp] theorem execPower_mem (plim : BitVec 32) (s : State) : Out.keeps s.mem (execPower plim s) := by
  unfold execPower
  apply sessionMailbox_mem
  intro s
  (repeat' split) <;> simp

@[simp] theorem execSlot_mem (n : CoreId) (v : Word) (s : State) : Out.keeps s.mem (execSlot n v s) := by
  unfold execSlot
  apply sessionMailbox_mem
  intro s
  (repeat' split) <;> simp

@[simp] theorem execMailboxOpcodeRefused_mem (op : BitVec 32) (s : State) :
    Out.keeps s.mem (execMailboxOpcodeRefused op s) := by
  unfold execMailboxOpcodeRefused
  apply mailbox_mem
  intro s
  split <;> simp

/-! ### HostPort -/

@[simp] theorem execRegisterWrite_mem (_off : BitVec 17) (_v : BitVec 32) (s : State) :
    Out.keeps s.mem (execRegisterWrite _off _v s) := by
  simp [execRegisterWrite]

@[simp] theorem State.reply_mem (s : State) (r : HostResp) : (State.reply s r).mem = s.mem := rfl

@[simp] theorem execCxlMemRead_mem (addr : Word) (len : BitVec 7) (s : State) :
    Out.keeps s.mem (execCxlMemRead addr len s) := by
  unfold execCxlMemRead
  (repeat' split) <;> simp

@[simp] theorem spdmRequest_mem
    (allowed : SpdmState → Bool) (next : SpdmState → SpdmState) (code : Nat) (data : State → List Byte) (s : State) :
    Out.keeps s.mem (spdmRequest allowed next code data s) := by
  unfold spdmRequest
  (repeat' split) <;> simp

@[simp] theorem execGetVersion_mem (s : State) : Out.keeps s.mem (execGetVersion s) := by
  simp [execGetVersion]

@[simp] theorem execGetCapabilities_mem (s : State) : Out.keeps s.mem (execGetCapabilities s) := by
  simp [execGetCapabilities]

@[simp] theorem execNegotiateAlgorithms_mem (s : State) : Out.keeps s.mem (execNegotiateAlgorithms s) := by
  simp [execNegotiateAlgorithms]

@[simp] theorem execGetDigests_mem (s : State) : Out.keeps s.mem (execGetDigests s) := by
  simp [execGetDigests]

@[simp] theorem execGetCertificate_mem (s : State) : Out.keeps s.mem (execGetCertificate s) := by
  simp [execGetCertificate]

@[simp] theorem execChallenge_mem (s : State) : Out.keeps s.mem (execChallenge s) := by
  simp [execChallenge]

@[simp] theorem execGetMeasurements_mem (idx : BitVec 8) (s : State) : Out.keeps s.mem (execGetMeasurements idx s) := by
  simp [execGetMeasurements]

@[simp] theorem execKeyExchange_mem (s : State) : Out.keeps s.mem (execKeyExchange s) := by
  simp [execKeyExchange]

@[simp] theorem execFinish_mem (s : State) : Out.keeps s.mem (execFinish s) := by
  simp [execFinish]

@[simp] theorem execEndSession_mem (s : State) : Out.keeps s.mem (execEndSession s) := by
  simp [execEndSession]

@[simp] theorem execBoot_mem (firstOk monitorOk trainOk : Bool) (s : State) :
    Out.keeps s.mem (execBoot firstOk monitorOk trainOk s) := by
  unfold execBoot
  (repeat' split) <;> simp

@[simp] theorem execPowerSample_mem (avgMs avgFast idle : BitVec 32) (s : State) :
    Out.keeps s.mem (execPowerSample avgMs avgFast idle s) := by
  unfold execPowerSample
  (repeat' split) <;> simp

@[simp] theorem State.setPort_mem (s : State) (p : BitVec 4) (v : Port) : (State.setPort s p v).mem = s.mem := rfl

@[simp] theorem execLinkPortUp_mem (port : BitVec 4) (peerPort : BitVec 8) (peerPart : BitVec 16) (s : State) :
    Out.keeps s.mem (execLinkPortUp port peerPort peerPart s) := by
  simp [execLinkPortUp]

@[simp] theorem State.trainPorts_mem (s : State) : (State.trainPorts s).mem = s.mem := rfl

@[simp] theorem State.failEngine_mem (s : State) (hit : Nat → Bool) (n : CoreId) (e : Fin 6) :
    (State.failEngine s hit n e).mem = s.mem := by
  unfold State.failEngine
  (repeat' split) <;> simp

@[simp] theorem State.failPosted_mem (s : State) (hit : Nat → Bool) : (State.failPosted s hit).mem = s.mem := by
  unfold State.failPosted
  apply foldl_mem
  intro s a
  (repeat' split) <;> simp

@[simp] theorem State.failRead_mem (s : State) (hit : Nat → Bool) (c : CtxId) :
    (State.failRead s hit c).mem = s.mem := by
  unfold State.failRead
  (repeat' split) <;> simp

@[simp] theorem State.failEngines_mem (s : State) (hit : Nat → Bool) (n : CoreId) :
    (State.failEngines s hit n).mem = s.mem := by
  simp [State.failEngines]

@[simp] theorem State.failPeer_mem (s : State) (port : BitVec 4) : (State.failPeer s port).mem = s.mem := by
  simp [State.failPeer]

@[simp] theorem execLinkFlitCrcFail_mem (port : BitVec 4) (s : State) :
    Out.keeps s.mem (execLinkFlitCrcFail port s) := by
  unfold execLinkFlitCrcFail
  simp only [Out.keeps_next]
  (repeat' split)
  · rfl
  · rfl
  · rw [State.failPeer_mem]
    rfl

@[simp] theorem State.ringFails_mem (s : State) (q : BitVec 7) : (State.ringFails s q).mem = s.mem := by
  simp only [State.ringFails]
  (repeat' split) <;> rfl

@[simp] theorem State.launchFails_mem (s : State) (c : CtxId) : (State.launchFails s c).mem = s.mem := by
  simp only [State.launchFails]
  (repeat' split) <;> simp

@[simp] theorem execHostAccessError_mem (src : AccessRef) (_poison : Bool) (s : State) :
    Out.keeps s.mem (execHostAccessError src _poison s) := by
  simp only [execHostAccessError]
  (repeat' split) <;> simp

/-! ### Errors -/

@[simp] theorem State.reloadPlane_mem (s : State) (n : CoreId) (line : Nat) :
    (State.reloadPlane s n line).mem = s.mem := by
  unfold State.reloadPlane
  (repeat' split) <;> simp

@[simp] theorem State.rollBack_mem (s : State) (c : CtxId) : (State.rollBack s c).mem = s.mem := by
  simp [State.rollBack]

@[simp] theorem State.rerunAgain_mem (s : State) (n : CoreId) (r : Rerun) (ms : List RerunMember) :
    (State.rerunAgain s n r ms).mem = s.mem := by
  simp [State.rerunAgain]

@[simp] theorem State.agreed_mem (s : State) (c : CtxId) (detail : Word) : (State.agreed s c detail).mem = s.mem :=
  rfl

@[simp] theorem State.errorStop_mem (s : State) (c : CtxId) (detail : Word) :
    (State.errorStop s c detail).mem = s.mem := by
  simp [State.errorStop]

@[simp] theorem State.retireCtx_mem (s : State) (detail : Word) (c : CtxId) :
    (State.retireCtx s detail c).mem = s.mem := by
  simp only [State.retireCtx]
  (repeat' split) <;> simp

@[simp] theorem State.retire_mem (s : State) (n : CoreId) (detail : Word) : (State.retire s n detail).mem = s.mem := by
  simp [State.retire]

@[simp] theorem State.pairTurn_mem (s : State) (n : CoreId) : (State.pairTurn s n).mem = s.mem := by
  unfold State.pairTurn
  split
  · rfl
  · dsimp only
    (repeat' split) <;> first
      | (simp; done)
      | (rw [State.onCore_mem]; exact foldl_mem _ _ _ fun s m => State.agreed_mem s _ _)

@[simp] theorem State.joinRerun_mem (s : State) (c : CtxId) (detail : Word) :
    (State.joinRerun s c detail).mem = s.mem := by
  simp [State.joinRerun]

@[simp] theorem State.errorMeets_mem (s : State) (store : StoreKind) (off : Nat) (detail stop : Word) (c : CtxId) :
    (State.errorMeets s store off detail stop c).mem = s.mem := by
  simp only [State.errorMeets]
  (repeat' split) <;> simp

@[simp] theorem State.coreError_mem (s : State) (n : CoreId) (store : StoreKind) (off : Nat) (detail : Word) :
    (State.coreError s n store off detail).mem = s.mem := by
  simp only [State.coreError]
  (repeat' split) <;> simp

@[simp] theorem execUncorrectableError_mem
    (n : CoreId) (store : StoreKind) (off : BitVec 48) (single : Bool) (s : State) :
    Out.keeps s.mem (execUncorrectableError n store off single s) := by
  unfold execUncorrectableError
  simp only [Out.keeps_next]
  split
  · rfl
  · split
    · rename_i stack _
      show (if s.poison.contains ((stack.val * 2 ^ 48 + off.toNat) / 64) then s
        else { s with poison := s.poison ++ [(stack.val * 2 ^ 48 + off.toNat) / 64] }).mem = s.mem
      split <;> rfl
    · simp

@[simp] theorem State.arrived_mem (s : State) (m : CoreId) (kid : Nat) (leaving : Bool) :
    (State.arrived s m kid leaving).mem = s.mem := by
  unfold State.arrived
  apply foldl_mem
  intro s c
  dsimp only
  (repeat' split) <;> simp

@[simp] theorem State.moveTo_mem (s : State) (n m : CoreId) (kid place : Nat) (v : SavedCore) (needs : Needs) :
    (State.moveTo s n m kid place v needs).mem = s.mem := by
  unfold State.moveTo
  simp

@[simp] theorem State.leaveRetired_mem (s : State) (n : CoreId) : (State.leaveRetired s n).mem = s.mem := by
  simp only [State.leaveRetired]
  (repeat' split) <;> simp

/-! ### Issue -/

@[simp] theorem State.openBundle_mem (s : State) (c : CtxId) (len : Nat) (slots : List Slot) :
    (State.openBundle s c len slots).mem = s.mem := rfl

@[simp] theorem State.prepareAll_mem (s : State) (n : CoreId) : (State.prepareAll s n).mem = s.mem := by
  simp [State.prepareAll]

@[simp] theorem State.clearStalls_mem (s : State) (n : CoreId) : (State.clearStalls s n).mem = s.mem := rfl

/-! ### Turn -/

@[simp] theorem State.endCycle_mem (s : State) : (State.endCycle s).mem = s.mem := by
  unfold State.endCycle
  dsimp only
  have h1 : ((List.range 64).foldl (fun s d => State.finishDestroy s (BitVec.ofNat 6 d)) s).mem = s.mem := by simp
  have h2 (s : State) : ((List.finRange 320).foldl State.leaveRetired s).mem = s.mem := by simp
  rw [show ∀ u : State, ({ u.trainPorts with cycle := u.cycle + 1 } : State).mem = u.mem from fun _ => rfl]
  (repeat' split) <;> simp [h1, h2]

@[simp] theorem State.advance_mem (s : State) : (State.advance s).mem = s.mem := rfl

@[simp] theorem State.placeCode_mem (s : State) (code : List Lane) (routines : List (BitVec 5 × Nat × Nat)) :
    (State.placeCode s code routines).mem = s.mem := rfl

@[simp] theorem State.placeSlot_mem (s : State) (c : SlotClass) (w : Lane) (x : Option Lane) :
    (State.placeSlot s c w x).mem = s.mem := rfl

@[simp] theorem State.placeMicro_mem (s : State) (w : Lane) : (State.placeMicro s w).mem = s.mem := rfl

@[simp] theorem State.placeWord_mem (s : State) (w : Nat) : (State.placeWord s w).mem = s.mem := by
  simp only [State.placeWord]
  (repeat' split) <;> simp

/-! ### Step -/

@[simp] theorem State.withFetchWord_mem (s : State) (_nbits w : Nat) :
    (State.withFetchWord s _nbits w).mem = s.mem := by
  simp [State.withFetchWord]

end Sys2Proof.Machine
end

