-- ==== Sys2Proof/Laws/MemoryKept.lean ====
section
/-! SUPPORT. That every function that writes device memory keeps its canonical form, and that each meaning that does so answers a
next state. -/

namespace Sys2Proof.Machine

/-- The outcome is a next state whose device memory is in canonical form. -/
def Out.wf (o : Out) : Prop := ∃ t, o = .next t ∧ t.mem.wf = true

@[simp] theorem Out.wf_next (s : State) : Out.wf (.next s) ↔ s.mem.wf = true := by
  constructor
  · rintro ⟨t, h, w⟩
    cases h
    exact w
  · intro w
    exact ⟨s, rfl, w⟩

/-- An outcome that keeps a canonical memory has a canonical memory. -/
theorem Out.keeps.wf {m : Memory} {o : Out} (h : Out.keeps m o) (w : m.wf = true) : Out.wf o := by
  obtain ⟨t, e, k⟩ := h
  exact ⟨t, e, k ▸ w⟩

/-! ### Bytes of device memory -/

theorem State.devWrite_wf {s : State} (key pa : Nat) (bs : List Byte) (w : s.mem.wf = true) :
    (s.devWrite key pa bs).mem.wf = true := Memory.wf_setBytes bs w pa

theorem State.writePieces_wf (key : Nat) (ps : List (Nat × Nat)) {s : State} (b : List Byte) (w : s.mem.wf = true) :
    (s.writePieces key ps b).mem.wf = true := by
  induction ps generalizing s b with
  | nil => exact w
  | cons p r ih => exact ih _ (State.devWrite_wf _ _ _ w)

theorem State.vaWrite_wf {s t : State} {d : DomNum} {va : Word} {bs : List Byte} (w : s.mem.wf = true)
    (h : s.vaWrite d va bs = .ok t) : t.mem.wf = true := by
  unfold State.vaWrite at h
  split at h
  · cases h
  · cases h
    exact State.writePieces_wf _ _ _ w

/-! ### Writes in flight -/

theorem State.addCell_wf (key pa : Nat) (v : Int) {s : State} (w : s.mem.wf = true) :
    (s.addCell key pa v).mem.wf = true := by
  unfold State.addCell
  dsimp only
  split
  · exact w
  · exact State.devWrite_wf _ _ _ w

theorem State.storePerforms_wf (p : Posted) (sc : Scope) {s : State} (w : s.mem.wf = true) :
    (s.storePerforms p sc).mem.wf = true := by
  unfold State.storePerforms
  split
  · exact State.devWrite_wf _ _ _ (by simpa using w)
  · exact State.devWrite_wf _ _ _ (by simpa using w)
  · exact w
  · simpa using w

theorem State.unitPerforms_wf (p : Posted) (ps : List (Nat × Nat)) (b : List Byte) {s : State} (w : s.mem.wf = true) :
    (s.unitPerforms p ps b).mem.wf = true := by
  unfold State.unitPerforms
  split
  · simpa using w
  · simpa using State.writePieces_wf _ _ _ w

theorem execAtomicPerform_wf (k : Nat) {s : State} (w : s.mem.wf = true) : Out.wf (execAtomicPerform k s) := by
  simp only [execAtomicPerform, Out.wf_next]
  split
  · exact w
  · split
    · exact w
    · split
      · simpa using w
      · split
        · simpa using w
        · rename_i p _ _ _ _
          have h := State.devWrite_wf p.key p.pa (leBytes 8 (p.kind.apply
            (BitVec.ofNat 64 (leNat (s.devRead p.key p.pa 8))) p.data).toNat) (s := s.unpost p) (by simpa using w)
          split
          · simpa using h
          · exact h

theorem execCellAddPerform_wf (k : Nat) {s : State} (w : s.mem.wf = true) : Out.wf (execCellAddPerform k s) := by
  simp only [execCellAddPerform, Out.wf_next]
  split
  · exact w
  · split
    · exact w
    · split
      · simpa using w
      · split
        · simpa using w
        · simpa using State.addCell_wf _ _ _ w

theorem execDeviceWritePerform_wf (k : Nat) {s : State} (w : s.mem.wf = true) :
    Out.wf (execDeviceWritePerform k s) := by
  simp only [execDeviceWritePerform, Out.wf_next]
  split
  · exact w
  · split
    · generalize (if paExt _ = true then Scope.dev else Scope.succ _) = sc
      split
      · exact w
      · split
        · simpa using w
        · split
          · simpa using w
          · exact State.storePerforms_wf _ _ w
    · split
      · exact w
      · split
        · simpa using w
        · exact State.unitPerforms_wf _ _ _ w
    · exact w

/-! ### Loading, and the end of a kernel -/

theorem State.writeDevs_wf (d : DomNum) (l : List (Word × List Byte)) {s : State} (w : s.mem.wf = true) :
    (s.writeDevs d l).mem.wf = true := by
  induction l generalizing s with
  | nil => exact w
  | cons a r ih =>
    simp only [State.writeDevs]
    split
    · rename_i h
      exact ih (State.vaWrite_wf w h)
    · exact ih w

theorem State.loadObject_wf (d : DomNum) (b : List Byte) {s : State} (w : s.mem.wf = true) :
    (s.loadObject d b).mem.wf = true := by
  unfold State.loadObject
  dsimp only
  split
  · simpa using w
  · split
    · simpa using w
    · rw [State.answer_mem]
      exact State.writeDevs_wf _ _ w

/-- A mailbox command whose body keeps the canonical form keeps it. -/
theorem mailbox_wf (f : State → State) {s : State} (w : s.mem.wf = true)
    (h : ∀ s : State, s.mem.wf = true → (f s).mem.wf = true) : Out.wf (mailbox f s) := by
  simp only [mailbox, Out.wf_next]
  split
  · exact h s w
  · exact w

/-- So does one of an SPDM session. -/
theorem sessionMailbox_wf (f : State → State) {s : State} (w : s.mem.wf = true)
    (h : ∀ s : State, s.mem.wf = true → (f s).mem.wf = true) : Out.wf (sessionMailbox f s) := by
  refine mailbox_wf _ w fun s w => ?_
  split
  · exact h s w
  · simpa using w

theorem execLoad_wf (dom : DomNum) (addr size : Word) {s : State} (w : s.mem.wf = true) :
    Out.wf (execLoad dom addr size s) := by
  refine mailbox_wf _ w fun s w => ?_
  split
  · simpa using w
  · split
    · simpa using w
    · split
      · simpa using w
      · split
        · simpa using w
        · exact State.loadObject_wf _ _ w

theorem State.writeDone_wf (k : Kernel) {s : State} (w : s.mem.wf = true) : (s.writeDone k).mem.wf = true := by
  unfold State.writeDone
  dsimp only
  split
  · exact w
  · split
    · simpa using w
    · split
      · simpa using w
      · exact Memory.wf_setBytes _ w _

theorem execKernelComplete_wf (k : Nat) {s : State} (w : s.mem.wf = true) : Out.wf (execKernelComplete k s) := by
  simp only [execKernelComplete, Out.wf_next]
  split
  · exact w
  · split
    · exact w
    · split
      · split <;> simpa using w
      · simpa using State.writeDone_wf _ w

theorem execLaunchPost_wf (c : CtxId) {s : State} (w : s.mem.wf = true) : Out.wf (execLaunchPost c s) := by
  simp only [execLaunchPost, Out.wf_next]
  split
  · exact w
  · split
    · exact w
    · split
      · simpa using w
      · split
        · simpa using w
        · split
          · simpa using w
          · split
            · simpa using w
            · split
              · simpa using w
              · split
                · exact w
                · split
                  · simpa using w
                  · rename_i h
                    simpa using State.vaWrite_wf w h

theorem execCreate_wf (spec : DomainSpec) {s : State} (w : s.mem.wf = true) : Out.wf (execCreate spec s) := by
  refine sessionMailbox_wf _ w fun s w => ?_
  split
  · split
    · rename_i h
      simpa using State.vaWrite_wf (by simpa using w) h
    · simpa using w
  · simpa using w

theorem execCtxget_wf (dom : DomNum) (c : CtxId) (addr : Word) {s : State} (w : s.mem.wf = true) :
    Out.wf (execCtxget dom c addr s) := by
  refine sessionMailbox_wf _ w fun s w => ?_
  split
  · split
    · rename_i h
      simpa using State.vaWrite_wf w h
    · simpa using w
  · simpa using w

/-! ### Accesses from outside, and fault records -/

theorem State.hostPieces_wf (key : Nat) (ps : List (Nat × Nat)) (b : List Byte) {s : State} (w : s.mem.wf = true) :
    (s.hostPieces key ps b).mem.wf = true := by
  unfold State.hostPieces
  dsimp only
  split
  · rename_i h
    clear h
    generalize ((ps.flatMap fun p => (List.range p.2).map fun i => p.1 + i).zip b) = l
    generalize s.headerFixed = fixed
    induction l generalizing s with
    | nil => exact w
    | cons a r ih =>
      refine ih ?_
      show (if fixed.contains a.1 then s else s.devWrite key a.1 [a.2]).mem.wf = true
      split
      · exact w
      · exact State.devWrite_wf _ _ _ w
  · exact State.writePieces_wf _ _ _ w

theorem execCxlMemWrite_wf (addr : Word) (data : List Byte) {s : State} (w : s.mem.wf = true) :
    Out.wf (execCxlMemWrite addr data s) := by
  simp only [execCxlMemWrite, Out.wf_next]
  split
  · exact w
  · split
    · simpa using w
    · split
      · simpa [State.reply] using State.hostPieces_wf _ _ _ w
      · simpa using w

/-- The host's accesses to its own memory keep the canonical form. -/
theorem State.hostAccess_wf (a : HostAccess) {s : State} (w : s.mem.wf = true) : (s.hostAccess a).mem.wf = true := by
  unfold State.hostAccess
  split
  · split
    · exact Memory.wf_setBytes _ w _
    · exact w
  · split <;> simpa using w

theorem execApertureAccessArrival_wf (port : BitVec 4) (addr : Word) (write : Option (List Byte)) (len : BitVec 7)
    {s : State} (w : s.mem.wf = true) : Out.wf (execApertureAccessArrival port addr write len s) := by
  simp only [execApertureAccessArrival, Out.wf_next]
  split
  · exact w
  · split
    · split
      · simpa using w
      · split
        · simpa using w
        · simpa using w
    · split
      · simpa using w
      · rw [State.reply_mem]
        exact State.writePieces_wf _ _ _ w

theorem State.writeRecord_wf (r : FaultRec) {s t : State} (w : s.mem.wf = true) (h : s.writeRecord r = some t) :
    t.mem.wf = true := by
  unfold State.writeRecord at h
  dsimp only at h
  split at h
  · cases h
  · split at h
    · cases h
    · split at h
      · cases h
      · rename_i h1
        split at h
        · cases h
        · rename_i h2
          cases h
          have k := State.vaWrite_wf (State.vaWrite_wf w h1) h2
          exact k

theorem State.nextRecord_wf (l before : List FaultRec) {s t : State} (w : s.mem.wf = true)
    (h : s.nextRecord before l = some t) : t.mem.wf = true := by
  induction l generalizing before with
  | nil => cases h
  | cons r rest ih =>
    simp only [State.nextRecord] at h
    split at h
    · exact ih _ h
    · split at h
      · rename_i h1
        cases h
        have k := State.writeRecord_wf r w h1
        exact k
      · exact ih _ h

theorem execFaultRecordPost_wf {s : State} (w : s.mem.wf = true) : Out.wf (execFaultRecordPost s) := by
  simp only [execFaultRecordPost, Out.wf_next]
  cases h : s.nextRecord [] s.monq with
  | none => exact w
  | some t => exact State.nextRecord_wf _ _ w h

end Sys2Proof.Machine
end

