-- ==== Sys2Proof/Laws/PerInstr.lean ====
section
/-! SUPPORT. Decoding the words that `encode` gives: the fields of the formats of R104, R105 and R225, and for every
constructor of `Instr` that its words decode to it in each class that holds it. -/

namespace Sys2Proof

/-! ### Fields of joined words -/

theorem append_toNat {m n : Nat} (x : BitVec m) (y : BitVec n) :
    (x ++ y).toNat = x.toNat * 2 ^ n + y.toNat := by
  rw [BitVec.toNat_append, Nat.shiftLeft_eq, Nat.mul_comm, Nat.two_pow_add_eq_or_of_lt y.isLt]

theorem toNat_literal {n k : Nat} : (BitVec.ofNat n k).toNat = k % 2 ^ n := BitVec.toNat_ofNat k n

@[simp] theorem packFL_fG (g : BitVec 4) (q : Bool) (op : BitVec 7) (d : BitVec 5) (i : BitVec 15) :
    fG (packFL g q op d i) = g := by
  apply BitVec.eq_of_toNat_eq
  simp only [packFL, fG, append_toNat, BitVec.extractLsb'_toNat, Nat.shiftRight_eq_div_pow]
  have := g.isLt
  have := (BitVec.ofBool q).isLt
  have := op.isLt
  have := d.isLt
  have := i.isLt
  omega

@[simp] theorem packFL_opOf (g : BitVec 4) (q : Bool) (op : BitVec 7) (d : BitVec 5) (i : BitVec 15) :
    opOf (packFL g q op d i) = op := by
  apply BitVec.eq_of_toNat_eq
  simp only [packFL, opOf, append_toNat, BitVec.extractLsb'_toNat, Nat.shiftRight_eq_div_pow]
  have := g.isLt
  have := (BitVec.ofBool q).isLt
  have := op.isLt
  have := d.isLt
  have := i.isLt
  omega

@[simp] theorem packF3_rA (g : BitVec 4) (q : Bool) (op : BitVec 7) (d a b f : BitVec 5) :
    rA (packF3 g q op d a b f) = a := by
  apply BitVec.eq_of_toNat_eq
  simp only [packF3, rA, append_toNat, BitVec.extractLsb'_toNat, Nat.shiftRight_eq_div_pow]
  have := g.isLt
  have := (BitVec.ofBool q).isLt
  have := op.isLt
  have := d.isLt
  have := a.isLt
  have := b.isLt
  have := f.isLt
  omega

@[simp] theorem packF3_fF (g : BitVec 4) (q : Bool) (op : BitVec 7) (d a b f : BitVec 5) :
    fF (packF3 g q op d a b f) = f := by
  apply BitVec.eq_of_toNat_eq
  simp only [packF3, fF, append_toNat, BitVec.extractLsb'_toNat, Nat.shiftRight_eq_div_pow]
  have := g.isLt
  have := (BitVec.ofBool q).isLt
  have := op.isLt
  have := d.isLt
  have := a.isLt
  have := b.isLt
  have := f.isLt
  omega

@[simp] theorem packF3_fG (g : BitVec 4) (q : Bool) (op : BitVec 7) (d a b f : BitVec 5) :
    fG (packF3 g q op d a b f) = g := by
  apply BitVec.eq_of_toNat_eq
  simp only [packF3, fG, append_toNat, BitVec.extractLsb'_toNat, Nat.shiftRight_eq_div_pow]
  have := g.isLt
  have := (BitVec.ofBool q).isLt
  have := op.isLt
  have := d.isLt
  have := a.isLt
  have := b.isLt
  have := f.isLt
  omega

@[simp] theorem packF3_rB (g : BitVec 4) (q : Bool) (op : BitVec 7) (d a b f : BitVec 5) :
    rB (packF3 g q op d a b f) = b := by
  apply BitVec.eq_of_toNat_eq
  simp only [packF3, rB, append_toNat, BitVec.extractLsb'_toNat, Nat.shiftRight_eq_div_pow]
  have := g.isLt
  have := (BitVec.ofBool q).isLt
  have := op.isLt
  have := d.isLt
  have := a.isLt
  have := b.isLt
  have := f.isLt
  omega

@[simp] theorem packF3_rD (g : BitVec 4) (q : Bool) (op : BitVec 7) (d a b f : BitVec 5) :
    rD (packF3 g q op d a b f) = d := by
  apply BitVec.eq_of_toNat_eq
  simp only [packF3, rD, append_toNat, BitVec.extractLsb'_toNat, Nat.shiftRight_eq_div_pow]
  have := g.isLt
  have := (BitVec.ofBool q).isLt
  have := op.isLt
  have := d.isLt
  have := a.isLt
  have := b.isLt
  have := f.isLt
  omega

@[simp] theorem packF3_opOf (g : BitVec 4) (q : Bool) (op : BitVec 7) (d a b f : BitVec 5) :
    opOf (packF3 g q op d a b f) = op := by
  apply BitVec.eq_of_toNat_eq
  simp only [packF3, opOf, append_toNat, BitVec.extractLsb'_toNat, Nat.shiftRight_eq_div_pow]
  have := g.isLt
  have := (BitVec.ofBool q).isLt
  have := op.isLt
  have := d.isLt
  have := a.isLt
  have := b.isLt
  have := f.isLt
  omega

@[simp] theorem packFI_rA (g : BitVec 4) (q : Bool) (op : BitVec 7) (d a : BitVec 5) (i : BitVec 10) :
    rA (packFI g q op d a i) = a := by
  apply BitVec.eq_of_toNat_eq
  simp only [packFI, rA, append_toNat, BitVec.extractLsb'_toNat, Nat.shiftRight_eq_div_pow]
  have := g.isLt
  have := (BitVec.ofBool q).isLt
  have := op.isLt
  have := d.isLt
  have := a.isLt
  have := i.isLt
  omega

@[simp] theorem packFI_fI10 (g : BitVec 4) (q : Bool) (op : BitVec 7) (d a : BitVec 5) (i : BitVec 10) :
    fI10 (packFI g q op d a i) = i := by
  apply BitVec.eq_of_toNat_eq
  simp only [packFI, fI10, append_toNat, BitVec.extractLsb'_toNat, Nat.shiftRight_eq_div_pow]
  have := g.isLt
  have := (BitVec.ofBool q).isLt
  have := op.isLt
  have := d.isLt
  have := a.isLt
  have := i.isLt
  omega

@[simp] theorem packFI_fG (g : BitVec 4) (q : Bool) (op : BitVec 7) (d a : BitVec 5) (i : BitVec 10) :
    fG (packFI g q op d a i) = g := by
  apply BitVec.eq_of_toNat_eq
  simp only [packFI, fG, append_toNat, BitVec.extractLsb'_toNat, Nat.shiftRight_eq_div_pow]
  have := g.isLt
  have := (BitVec.ofBool q).isLt
  have := op.isLt
  have := d.isLt
  have := a.isLt
  have := i.isLt
  omega

@[simp] theorem packFI_rD (g : BitVec 4) (q : Bool) (op : BitVec 7) (d a : BitVec 5) (i : BitVec 10) :
    rD (packFI g q op d a i) = d := by
  apply BitVec.eq_of_toNat_eq
  simp only [packFI, rD, append_toNat, BitVec.extractLsb'_toNat, Nat.shiftRight_eq_div_pow]
  have := g.isLt
  have := (BitVec.ofBool q).isLt
  have := op.isLt
  have := d.isLt
  have := a.isLt
  have := i.isLt
  omega

@[simp] theorem packFI_opOf (g : BitVec 4) (q : Bool) (op : BitVec 7) (d a : BitVec 5) (i : BitVec 10) :
    opOf (packFI g q op d a i) = op := by
  apply BitVec.eq_of_toNat_eq
  simp only [packFI, opOf, append_toNat, BitVec.extractLsb'_toNat, Nat.shiftRight_eq_div_pow]
  have := g.isLt
  have := (BitVec.ofBool q).isLt
  have := op.isLt
  have := d.isLt
  have := a.isLt
  have := i.isLt
  omega

@[simp] theorem packFI_6_4 (g : BitVec 4) (q : Bool) (op : BitVec 7) (d a : BitVec 5) (i : BitVec 10) :
    (packFI g q op d a i).extractLsb' 6 4 = i.extractLsb' 6 4 := by
  apply BitVec.eq_of_toNat_eq
  simp only [packFI, append_toNat, BitVec.extractLsb'_toNat, Nat.shiftRight_eq_div_pow]
  have := g.isLt
  have := (BitVec.ofBool q).isLt
  have := op.isLt
  have := d.isLt
  have := a.isLt
  have := i.isLt
  omega

@[simp] theorem join_z4_v6_6_4 (u : BitVec 6) : (0#4 ++ u : BitVec 10).extractLsb' 6 4 = 0#4 := by
  apply BitVec.eq_of_toNat_eq
  simp only [append_toNat, BitVec.extractLsb'_toNat, Nat.shiftRight_eq_div_pow, toNat_literal]
  have := u.isLt
  omega

@[simp] theorem packFI_0_6 (g : BitVec 4) (q : Bool) (op : BitVec 7) (d a : BitVec 5) (i : BitVec 10) :
    (packFI g q op d a i).extractLsb' 0 6 = i.extractLsb' 0 6 := by
  apply BitVec.eq_of_toNat_eq
  simp only [packFI, append_toNat, BitVec.extractLsb'_toNat, Nat.shiftRight_eq_div_pow]
  have := g.isLt
  have := (BitVec.ofBool q).isLt
  have := op.isLt
  have := d.isLt
  have := a.isLt
  have := i.isLt
  omega

@[simp] theorem join_z4_v6_0_6 (u : BitVec 6) : (0#4 ++ u : BitVec 10).extractLsb' 0 6 = u := by
  apply BitVec.eq_of_toNat_eq
  simp only [append_toNat, BitVec.extractLsb'_toNat, Nat.shiftRight_eq_div_pow, toNat_literal]
  have := u.isLt
  omega

@[simp] theorem packFL_fI15 (g : BitVec 4) (q : Bool) (op : BitVec 7) (d : BitVec 5) (i : BitVec 15) :
    fI15 (packFL g q op d i) = i := by
  apply BitVec.eq_of_toNat_eq
  simp only [packFL, fI15, append_toNat, BitVec.extractLsb'_toNat, Nat.shiftRight_eq_div_pow]
  have := g.isLt
  have := (BitVec.ofBool q).isLt
  have := op.isLt
  have := d.isLt
  have := i.isLt
  omega

@[simp] theorem packFL_rD (g : BitVec 4) (q : Bool) (op : BitVec 7) (d : BitVec 5) (i : BitVec 15) :
    rD (packFL g q op d i) = d := by
  apply BitVec.eq_of_toNat_eq
  simp only [packFL, rD, append_toNat, BitVec.extractLsb'_toNat, Nat.shiftRight_eq_div_pow]
  have := g.isLt
  have := (BitVec.ofBool q).isLt
  have := op.isLt
  have := d.isLt
  have := i.isLt
  omega

@[simp] theorem packF3_0_4 (g : BitVec 4) (q : Bool) (op : BitVec 7) (d a b f : BitVec 5) :
    (packF3 g q op d a b f).extractLsb' 0 4 = f.extractLsb' 0 4 := by
  apply BitVec.eq_of_toNat_eq
  simp only [packF3, append_toNat, BitVec.extractLsb'_toNat, Nat.shiftRight_eq_div_pow]
  have := g.isLt
  have := (BitVec.ofBool q).isLt
  have := op.isLt
  have := d.isLt
  have := a.isLt
  have := b.isLt
  have := f.isLt
  omega

@[simp] theorem join_z1_v4_0_4 (u : BitVec 4) : (0#1 ++ u : BitVec 5).extractLsb' 0 4 = u := by
  apply BitVec.eq_of_toNat_eq
  simp only [append_toNat, BitVec.extractLsb'_toNat, Nat.shiftRight_eq_div_pow, toNat_literal]
  have := u.isLt
  omega

@[simp] theorem packF3_4_1 (g : BitVec 4) (q : Bool) (op : BitVec 7) (d a b f : BitVec 5) :
    (packF3 g q op d a b f).extractLsb' 4 1 = f.extractLsb' 4 1 := by
  apply BitVec.eq_of_toNat_eq
  simp only [packF3, append_toNat, BitVec.extractLsb'_toNat, Nat.shiftRight_eq_div_pow]
  have := g.isLt
  have := (BitVec.ofBool q).isLt
  have := op.isLt
  have := d.isLt
  have := a.isLt
  have := b.isLt
  have := f.isLt
  omega

@[simp] theorem join_z1_v4_4_1 (u : BitVec 4) : (0#1 ++ u : BitVec 5).extractLsb' 4 1 = 0#1 := by
  apply BitVec.eq_of_toNat_eq
  simp only [append_toNat, BitVec.extractLsb'_toNat, Nat.shiftRight_eq_div_pow, toNat_literal]
  have := u.isLt
  omega

@[simp] theorem packF3_15_1 (g : BitVec 4) (q : Bool) (op : BitVec 7) (d a b f : BitVec 5) :
    (packF3 g q op d a b f).extractLsb' 15 1 = d.extractLsb' 0 1 := by
  apply BitVec.eq_of_toNat_eq
  simp only [packF3, append_toNat, BitVec.extractLsb'_toNat, Nat.shiftRight_eq_div_pow]
  have := g.isLt
  have := (BitVec.ofBool q).isLt
  have := op.isLt
  have := d.isLt
  have := a.isLt
  have := b.isLt
  have := f.isLt
  omega

@[simp] theorem join_z1_v3_z1_0_1 (u : BitVec 3) : (0#1 ++ u ++ 0#1 : BitVec 5).extractLsb' 0 1 = 0#1 := by
  apply BitVec.eq_of_toNat_eq
  simp only [append_toNat, BitVec.extractLsb'_toNat, Nat.shiftRight_eq_div_pow, toNat_literal]
  have := u.isLt
  omega

@[simp] theorem packF3_19_1 (g : BitVec 4) (q : Bool) (op : BitVec 7) (d a b f : BitVec 5) :
    (packF3 g q op d a b f).extractLsb' 19 1 = d.extractLsb' 4 1 := by
  apply BitVec.eq_of_toNat_eq
  simp only [packF3, append_toNat, BitVec.extractLsb'_toNat, Nat.shiftRight_eq_div_pow]
  have := g.isLt
  have := (BitVec.ofBool q).isLt
  have := op.isLt
  have := d.isLt
  have := a.isLt
  have := b.isLt
  have := f.isLt
  omega

@[simp] theorem join_z1_v3_z1_4_1 (u : BitVec 3) : (0#1 ++ u ++ 0#1 : BitVec 5).extractLsb' 4 1 = 0#1 := by
  apply BitVec.eq_of_toNat_eq
  simp only [append_toNat, BitVec.extractLsb'_toNat, Nat.shiftRight_eq_div_pow, toNat_literal]
  have := u.isLt
  omega

@[simp] theorem packF3_16_3 (g : BitVec 4) (q : Bool) (op : BitVec 7) (d a b f : BitVec 5) :
    (packF3 g q op d a b f).extractLsb' 16 3 = d.extractLsb' 1 3 := by
  apply BitVec.eq_of_toNat_eq
  simp only [packF3, append_toNat, BitVec.extractLsb'_toNat, Nat.shiftRight_eq_div_pow]
  have := g.isLt
  have := (BitVec.ofBool q).isLt
  have := op.isLt
  have := d.isLt
  have := a.isLt
  have := b.isLt
  have := f.isLt
  omega

@[simp] theorem join_z1_v3_z1_1_3 (u : BitVec 3) : (0#1 ++ u ++ 0#1 : BitVec 5).extractLsb' 1 3 = u := by
  apply BitVec.eq_of_toNat_eq
  simp only [append_toNat, BitVec.extractLsb'_toNat, Nat.shiftRight_eq_div_pow, toNat_literal]
  have := u.isLt
  omega

@[simp] theorem packFI_15_1 (g : BitVec 4) (q : Bool) (op : BitVec 7) (d a : BitVec 5) (i : BitVec 10) :
    (packFI g q op d a i).extractLsb' 15 1 = d.extractLsb' 0 1 := by
  apply BitVec.eq_of_toNat_eq
  simp only [packFI, append_toNat, BitVec.extractLsb'_toNat, Nat.shiftRight_eq_div_pow]
  have := g.isLt
  have := (BitVec.ofBool q).isLt
  have := op.isLt
  have := d.isLt
  have := a.isLt
  have := i.isLt
  omega

@[simp] theorem packFI_19_1 (g : BitVec 4) (q : Bool) (op : BitVec 7) (d a : BitVec 5) (i : BitVec 10) :
    (packFI g q op d a i).extractLsb' 19 1 = d.extractLsb' 4 1 := by
  apply BitVec.eq_of_toNat_eq
  simp only [packFI, append_toNat, BitVec.extractLsb'_toNat, Nat.shiftRight_eq_div_pow]
  have := g.isLt
  have := (BitVec.ofBool q).isLt
  have := op.isLt
  have := d.isLt
  have := a.isLt
  have := i.isLt
  omega

@[simp] theorem packFI_16_3 (g : BitVec 4) (q : Bool) (op : BitVec 7) (d a : BitVec 5) (i : BitVec 10) :
    (packFI g q op d a i).extractLsb' 16 3 = d.extractLsb' 1 3 := by
  apply BitVec.eq_of_toNat_eq
  simp only [packFI, append_toNat, BitVec.extractLsb'_toNat, Nat.shiftRight_eq_div_pow]
  have := g.isLt
  have := (BitVec.ofBool q).isLt
  have := op.isLt
  have := d.isLt
  have := a.isLt
  have := i.isLt
  omega

@[simp] theorem packFB_fG (g : BitVec 4) (q : Bool) (op : BitVec 7) (i : BitVec 20) : fG (packFB g q op i) = g := by
  apply BitVec.eq_of_toNat_eq
  simp only [packFB, fG, append_toNat, BitVec.extractLsb'_toNat, Nat.shiftRight_eq_div_pow]
  have := g.isLt
  have := (BitVec.ofBool q).isLt
  have := op.isLt
  have := i.isLt
  omega

@[simp] theorem packFB_fI20 (g : BitVec 4) (q : Bool) (op : BitVec 7) (i : BitVec 20) :
    fI20 (packFB g q op i) = i := by
  apply BitVec.eq_of_toNat_eq
  simp only [packFB, fI20, append_toNat, BitVec.extractLsb'_toNat, Nat.shiftRight_eq_div_pow]
  have := g.isLt
  have := (BitVec.ofBool q).isLt
  have := op.isLt
  have := i.isLt
  omega

@[simp] theorem packFB_opOf (g : BitVec 4) (q : Bool) (op : BitVec 7) (i : BitVec 20) :
    opOf (packFB g q op i) = op := by
  apply BitVec.eq_of_toNat_eq
  simp only [packFB, opOf, append_toNat, BitVec.extractLsb'_toNat, Nat.shiftRight_eq_div_pow]
  have := g.isLt
  have := (BitVec.ofBool q).isLt
  have := op.isLt
  have := i.isLt
  omega

@[simp] theorem packF3_10_4 (g : BitVec 4) (q : Bool) (op : BitVec 7) (d a b f : BitVec 5) :
    (packF3 g q op d a b f).extractLsb' 10 4 = a.extractLsb' 0 4 := by
  apply BitVec.eq_of_toNat_eq
  simp only [packF3, append_toNat, BitVec.extractLsb'_toNat, Nat.shiftRight_eq_div_pow]
  have := g.isLt
  have := (BitVec.ofBool q).isLt
  have := op.isLt
  have := d.isLt
  have := a.isLt
  have := b.isLt
  have := f.isLt
  omega

@[simp] theorem packF3_15_4 (g : BitVec 4) (q : Bool) (op : BitVec 7) (d a b f : BitVec 5) :
    (packF3 g q op d a b f).extractLsb' 15 4 = d.extractLsb' 0 4 := by
  apply BitVec.eq_of_toNat_eq
  simp only [packF3, append_toNat, BitVec.extractLsb'_toNat, Nat.shiftRight_eq_div_pow]
  have := g.isLt
  have := (BitVec.ofBool q).isLt
  have := op.isLt
  have := d.isLt
  have := a.isLt
  have := b.isLt
  have := f.isLt
  omega

@[simp] theorem packF3_9_1 (g : BitVec 4) (q : Bool) (op : BitVec 7) (d a b f : BitVec 5) :
    (packF3 g q op d a b f).extractLsb' 9 1 = b.extractLsb' 4 1 := by
  apply BitVec.eq_of_toNat_eq
  simp only [packF3, append_toNat, BitVec.extractLsb'_toNat, Nat.shiftRight_eq_div_pow]
  have := g.isLt
  have := (BitVec.ofBool q).isLt
  have := op.isLt
  have := d.isLt
  have := a.isLt
  have := b.isLt
  have := f.isLt
  omega

@[simp] theorem packF3_5_4 (g : BitVec 4) (q : Bool) (op : BitVec 7) (d a b f : BitVec 5) :
    (packF3 g q op d a b f).extractLsb' 5 4 = b.extractLsb' 0 4 := by
  apply BitVec.eq_of_toNat_eq
  simp only [packF3, append_toNat, BitVec.extractLsb'_toNat, Nat.shiftRight_eq_div_pow]
  have := g.isLt
  have := (BitVec.ofBool q).isLt
  have := op.isLt
  have := d.isLt
  have := a.isLt
  have := b.isLt
  have := f.isLt
  omega

@[simp] theorem packF3_14_1 (g : BitVec 4) (q : Bool) (op : BitVec 7) (d a b f : BitVec 5) :
    (packF3 g q op d a b f).extractLsb' 14 1 = a.extractLsb' 4 1 := by
  apply BitVec.eq_of_toNat_eq
  simp only [packF3, append_toNat, BitVec.extractLsb'_toNat, Nat.shiftRight_eq_div_pow]
  have := g.isLt
  have := (BitVec.ofBool q).isLt
  have := op.isLt
  have := d.isLt
  have := a.isLt
  have := b.isLt
  have := f.isLt
  omega

@[simp] theorem packFL_0_5 (g : BitVec 4) (q : Bool) (op : BitVec 7) (d : BitVec 5) (i : BitVec 15) :
    (packFL g q op d i).extractLsb' 0 5 = i.extractLsb' 0 5 := by
  apply BitVec.eq_of_toNat_eq
  simp only [packFL, append_toNat, BitVec.extractLsb'_toNat, Nat.shiftRight_eq_div_pow]
  have := g.isLt
  have := (BitVec.ofBool q).isLt
  have := op.isLt
  have := d.isLt
  have := i.isLt
  omega

@[simp] theorem join_z10_v5_0_5 (u : BitVec 5) : (0#10 ++ u : BitVec 15).extractLsb' 0 5 = u := by
  apply BitVec.eq_of_toNat_eq
  simp only [append_toNat, BitVec.extractLsb'_toNat, Nat.shiftRight_eq_div_pow, toNat_literal]
  have := u.isLt
  omega

@[simp] theorem packFL_5_10 (g : BitVec 4) (q : Bool) (op : BitVec 7) (d : BitVec 5) (i : BitVec 15) :
    (packFL g q op d i).extractLsb' 5 10 = i.extractLsb' 5 10 := by
  apply BitVec.eq_of_toNat_eq
  simp only [packFL, append_toNat, BitVec.extractLsb'_toNat, Nat.shiftRight_eq_div_pow]
  have := g.isLt
  have := (BitVec.ofBool q).isLt
  have := op.isLt
  have := d.isLt
  have := i.isLt
  omega

@[simp] theorem join_z10_v5_5_10 (u : BitVec 5) : (0#10 ++ u : BitVec 15).extractLsb' 5 10 = 0#10 := by
  apply BitVec.eq_of_toNat_eq
  simp only [append_toNat, BitVec.extractLsb'_toNat, Nat.shiftRight_eq_div_pow, toNat_literal]
  have := u.isLt
  omega

@[simp] theorem packFT_fG (g : BitVec 4) (q : Bool) (op : BitVec 7) (d : BitVec 5) (n : BitVec 6) (lag : BitVec 9) :
    fG (packFT g q op d n lag) = g := by
  apply BitVec.eq_of_toNat_eq
  simp only [packFT, fG, append_toNat, BitVec.extractLsb'_toNat, Nat.shiftRight_eq_div_pow]
  have := g.isLt
  have := (BitVec.ofBool q).isLt
  have := op.isLt
  have := d.isLt
  have := n.isLt
  have := lag.isLt
  omega

@[simp] theorem packFT_rD (g : BitVec 4) (q : Bool) (op : BitVec 7) (d : BitVec 5) (n : BitVec 6) (lag : BitVec 9) :
    rD (packFT g q op d n lag) = d := by
  apply BitVec.eq_of_toNat_eq
  simp only [packFT, rD, append_toNat, BitVec.extractLsb'_toNat, Nat.shiftRight_eq_div_pow]
  have := g.isLt
  have := (BitVec.ofBool q).isLt
  have := op.isLt
  have := d.isLt
  have := n.isLt
  have := lag.isLt
  omega

@[simp] theorem packFT_9_6 (g : BitVec 4) (q : Bool) (op : BitVec 7) (d : BitVec 5) (n : BitVec 6) (lag : BitVec 9) :
    (packFT g q op d n lag).extractLsb' 9 6 = n := by
  apply BitVec.eq_of_toNat_eq
  simp only [packFT, append_toNat, BitVec.extractLsb'_toNat, Nat.shiftRight_eq_div_pow]
  have := g.isLt
  have := (BitVec.ofBool q).isLt
  have := op.isLt
  have := d.isLt
  have := n.isLt
  have := lag.isLt
  omega

@[simp] theorem packFT_0_5 (g : BitVec 4) (q : Bool) (op : BitVec 7) (d : BitVec 5) (n : BitVec 6) (lag : BitVec 9) :
    (packFT g q op d n lag).extractLsb' 0 5 = lag.extractLsb' 0 5 := by
  apply BitVec.eq_of_toNat_eq
  simp only [packFT, append_toNat, BitVec.extractLsb'_toNat, Nat.shiftRight_eq_div_pow]
  have := g.isLt
  have := (BitVec.ofBool q).isLt
  have := op.isLt
  have := d.isLt
  have := n.isLt
  have := lag.isLt
  omega

@[simp] theorem join_v4_v5_0_5 (u : BitVec 4) (v : BitVec 5) : (u ++ v : BitVec 9).extractLsb' 0 5 = v := by
  apply BitVec.eq_of_toNat_eq
  simp only [append_toNat, BitVec.extractLsb'_toNat, Nat.shiftRight_eq_div_pow]
  have := u.isLt
  have := v.isLt
  omega

@[simp] theorem packFT_5_4 (g : BitVec 4) (q : Bool) (op : BitVec 7) (d : BitVec 5) (n : BitVec 6) (lag : BitVec 9) :
    (packFT g q op d n lag).extractLsb' 5 4 = lag.extractLsb' 5 4 := by
  apply BitVec.eq_of_toNat_eq
  simp only [packFT, append_toNat, BitVec.extractLsb'_toNat, Nat.shiftRight_eq_div_pow]
  have := g.isLt
  have := (BitVec.ofBool q).isLt
  have := op.isLt
  have := d.isLt
  have := n.isLt
  have := lag.isLt
  omega

@[simp] theorem join_v4_v5_5_4 (u : BitVec 4) (v : BitVec 5) : (u ++ v : BitVec 9).extractLsb' 5 4 = u := by
  apply BitVec.eq_of_toNat_eq
  simp only [append_toNat, BitVec.extractLsb'_toNat, Nat.shiftRight_eq_div_pow]
  have := u.isLt
  have := v.isLt
  omega

@[simp] theorem packFT_opOf (g : BitVec 4) (q : Bool) (op : BitVec 7) (d : BitVec 5) (n : BitVec 6) (lag : BitVec 9) :
    opOf (packFT g q op d n lag) = op := by
  apply BitVec.eq_of_toNat_eq
  simp only [packFT, opOf, append_toNat, BitVec.extractLsb'_toNat, Nat.shiftRight_eq_div_pow]
  have := g.isLt
  have := (BitVec.ofBool q).isLt
  have := op.isLt
  have := d.isLt
  have := n.isLt
  have := lag.isLt
  omega

@[simp] theorem join_v2_v2_v5_0_5 (u v : BitVec 2) (w : BitVec 5) : (u ++ v ++ w : BitVec 9).extractLsb' 0 5 = w := by
  apply BitVec.eq_of_toNat_eq
  simp only [append_toNat, BitVec.extractLsb'_toNat, Nat.shiftRight_eq_div_pow]
  have := u.isLt
  have := v.isLt
  have := w.isLt
  omega

@[simp] theorem packFT_5_2 (g : BitVec 4) (q : Bool) (op : BitVec 7) (d : BitVec 5) (n : BitVec 6) (lag : BitVec 9) :
    (packFT g q op d n lag).extractLsb' 5 2 = lag.extractLsb' 5 2 := by
  apply BitVec.eq_of_toNat_eq
  simp only [packFT, append_toNat, BitVec.extractLsb'_toNat, Nat.shiftRight_eq_div_pow]
  have := g.isLt
  have := (BitVec.ofBool q).isLt
  have := op.isLt
  have := d.isLt
  have := n.isLt
  have := lag.isLt
  omega

@[simp] theorem join_v2_v2_v5_5_2 (u v : BitVec 2) (w : BitVec 5) : (u ++ v ++ w : BitVec 9).extractLsb' 5 2 = v := by
  apply BitVec.eq_of_toNat_eq
  simp only [append_toNat, BitVec.extractLsb'_toNat, Nat.shiftRight_eq_div_pow]
  have := u.isLt
  have := v.isLt
  have := w.isLt
  omega

@[simp] theorem packFT_7_2 (g : BitVec 4) (q : Bool) (op : BitVec 7) (d : BitVec 5) (n : BitVec 6) (lag : BitVec 9) :
    (packFT g q op d n lag).extractLsb' 7 2 = lag.extractLsb' 7 2 := by
  apply BitVec.eq_of_toNat_eq
  simp only [packFT, append_toNat, BitVec.extractLsb'_toNat, Nat.shiftRight_eq_div_pow]
  have := g.isLt
  have := (BitVec.ofBool q).isLt
  have := op.isLt
  have := d.isLt
  have := n.isLt
  have := lag.isLt
  omega

@[simp] theorem join_v2_v2_v5_7_2 (u v : BitVec 2) (w : BitVec 5) : (u ++ v ++ w : BitVec 9).extractLsb' 7 2 = u := by
  apply BitVec.eq_of_toNat_eq
  simp only [append_toNat, BitVec.extractLsb'_toNat, Nat.shiftRight_eq_div_pow]
  have := u.isLt
  have := v.isLt
  have := w.isLt
  omega

@[simp] theorem packFL_0_6 (g : BitVec 4) (q : Bool) (op : BitVec 7) (d : BitVec 5) (i : BitVec 15) :
    (packFL g q op d i).extractLsb' 0 6 = i.extractLsb' 0 6 := by
  apply BitVec.eq_of_toNat_eq
  simp only [packFL, append_toNat, BitVec.extractLsb'_toNat, Nat.shiftRight_eq_div_pow]
  have := g.isLt
  have := (BitVec.ofBool q).isLt
  have := op.isLt
  have := d.isLt
  have := i.isLt
  omega

@[simp] theorem join_z9_v6_0_6 (u : BitVec 6) : (0#9 ++ u : BitVec 15).extractLsb' 0 6 = u := by
  apply BitVec.eq_of_toNat_eq
  simp only [append_toNat, BitVec.extractLsb'_toNat, Nat.shiftRight_eq_div_pow, toNat_literal]
  have := u.isLt
  omega

@[simp] theorem packFL_6_9 (g : BitVec 4) (q : Bool) (op : BitVec 7) (d : BitVec 5) (i : BitVec 15) :
    (packFL g q op d i).extractLsb' 6 9 = i.extractLsb' 6 9 := by
  apply BitVec.eq_of_toNat_eq
  simp only [packFL, append_toNat, BitVec.extractLsb'_toNat, Nat.shiftRight_eq_div_pow]
  have := g.isLt
  have := (BitVec.ofBool q).isLt
  have := op.isLt
  have := d.isLt
  have := i.isLt
  omega

@[simp] theorem join_z9_v6_6_9 (u : BitVec 6) : (0#9 ++ u : BitVec 15).extractLsb' 6 9 = 0#9 := by
  apply BitVec.eq_of_toNat_eq
  simp only [append_toNat, BitVec.extractLsb'_toNat, Nat.shiftRight_eq_div_pow, toNat_literal]
  have := u.isLt
  omega

@[simp] theorem packFT_0_9 (g : BitVec 4) (q : Bool) (op : BitVec 7) (d : BitVec 5) (n : BitVec 6) (lag : BitVec 9) :
    (packFT g q op d n lag).extractLsb' 0 9 = lag := by
  apply BitVec.eq_of_toNat_eq
  simp only [packFT, append_toNat, BitVec.extractLsb'_toNat, Nat.shiftRight_eq_div_pow]
  have := g.isLt
  have := (BitVec.ofBool q).isLt
  have := op.isLt
  have := d.isLt
  have := n.isLt
  have := lag.isLt
  omega

@[simp] theorem packF3_3_2 (g : BitVec 4) (q : Bool) (op : BitVec 7) (d a b f : BitVec 5) :
    (packF3 g q op d a b f).extractLsb' 3 2 = f.extractLsb' 3 2 := by
  apply BitVec.eq_of_toNat_eq
  simp only [packF3, append_toNat, BitVec.extractLsb'_toNat, Nat.shiftRight_eq_div_pow]
  have := g.isLt
  have := (BitVec.ofBool q).isLt
  have := op.isLt
  have := d.isLt
  have := a.isLt
  have := b.isLt
  have := f.isLt
  omega

@[simp] theorem join_z2_v3_3_2 (u : BitVec 3) : (0#2 ++ u : BitVec 5).extractLsb' 3 2 = 0#2 := by
  apply BitVec.eq_of_toNat_eq
  simp only [append_toNat, BitVec.extractLsb'_toNat, Nat.shiftRight_eq_div_pow, toNat_literal]
  have := u.isLt
  omega

@[simp] theorem packF3_0_3 (g : BitVec 4) (q : Bool) (op : BitVec 7) (d a b f : BitVec 5) :
    (packF3 g q op d a b f).extractLsb' 0 3 = f.extractLsb' 0 3 := by
  apply BitVec.eq_of_toNat_eq
  simp only [packF3, append_toNat, BitVec.extractLsb'_toNat, Nat.shiftRight_eq_div_pow]
  have := g.isLt
  have := (BitVec.ofBool q).isLt
  have := op.isLt
  have := d.isLt
  have := a.isLt
  have := b.isLt
  have := f.isLt
  omega

@[simp] theorem join_z2_v3_0_3 (u : BitVec 3) : (0#2 ++ u : BitVec 5).extractLsb' 0 3 = u := by
  apply BitVec.eq_of_toNat_eq
  simp only [append_toNat, BitVec.extractLsb'_toNat, Nat.shiftRight_eq_div_pow, toNat_literal]
  have := u.isLt
  omega

@[simp] theorem packF3_15_3 (g : BitVec 4) (q : Bool) (op : BitVec 7) (d a b f : BitVec 5) :
    (packF3 g q op d a b f).extractLsb' 15 3 = d.extractLsb' 0 3 := by
  apply BitVec.eq_of_toNat_eq
  simp only [packF3, append_toNat, BitVec.extractLsb'_toNat, Nat.shiftRight_eq_div_pow]
  have := g.isLt
  have := (BitVec.ofBool q).isLt
  have := op.isLt
  have := d.isLt
  have := a.isLt
  have := b.isLt
  have := f.isLt
  omega

@[simp] theorem packF3_18_2 (g : BitVec 4) (q : Bool) (op : BitVec 7) (d a b f : BitVec 5) :
    (packF3 g q op d a b f).extractLsb' 18 2 = d.extractLsb' 3 2 := by
  apply BitVec.eq_of_toNat_eq
  simp only [packF3, append_toNat, BitVec.extractLsb'_toNat, Nat.shiftRight_eq_div_pow]
  have := g.isLt
  have := (BitVec.ofBool q).isLt
  have := op.isLt
  have := d.isLt
  have := a.isLt
  have := b.isLt
  have := f.isLt
  omega

@[simp] theorem packExt_15_1 (x : Tokens) (e : BitVec 16) : (packExt x e).extractLsb' 15 1 = e.extractLsb' 15 1 := by
  apply BitVec.eq_of_toNat_eq
  simp only [packExt, append_toNat, BitVec.extractLsb'_toNat, Nat.shiftRight_eq_div_pow]
  have := x.kp.isLt
  have := x.kc0.isLt
  have := x.kc1.isLt
  have := x.kc2.isLt
  have := e.isLt
  omega

@[simp] theorem join_z1_v2_v6_v7_15_1 (u : BitVec 2) (v : BitVec 6) (w : BitVec 7) :
    (0#1 ++ u ++ v ++ w : BitVec 16).extractLsb' 15 1 = 0#1 := by
  apply BitVec.eq_of_toNat_eq
  simp only [append_toNat, BitVec.extractLsb'_toNat, Nat.shiftRight_eq_div_pow, toNat_literal]
  have := u.isLt
  have := v.isLt
  have := w.isLt
  omega

@[simp] theorem packExt_0_7 (x : Tokens) (e : BitVec 16) : (packExt x e).extractLsb' 0 7 = e.extractLsb' 0 7 := by
  apply BitVec.eq_of_toNat_eq
  simp only [packExt, append_toNat, BitVec.extractLsb'_toNat, Nat.shiftRight_eq_div_pow]
  have := x.kp.isLt
  have := x.kc0.isLt
  have := x.kc1.isLt
  have := x.kc2.isLt
  have := e.isLt
  omega

@[simp] theorem join_z1_v2_v6_v7_0_7 (u : BitVec 2) (v : BitVec 6) (w : BitVec 7) :
    (0#1 ++ u ++ v ++ w : BitVec 16).extractLsb' 0 7 = w := by
  apply BitVec.eq_of_toNat_eq
  simp only [append_toNat, BitVec.extractLsb'_toNat, Nat.shiftRight_eq_div_pow, toNat_literal]
  have := u.isLt
  have := v.isLt
  have := w.isLt
  omega

@[simp] theorem packExt_7_6 (x : Tokens) (e : BitVec 16) : (packExt x e).extractLsb' 7 6 = e.extractLsb' 7 6 := by
  apply BitVec.eq_of_toNat_eq
  simp only [packExt, append_toNat, BitVec.extractLsb'_toNat, Nat.shiftRight_eq_div_pow]
  have := x.kp.isLt
  have := x.kc0.isLt
  have := x.kc1.isLt
  have := x.kc2.isLt
  have := e.isLt
  omega

@[simp] theorem join_z1_v2_v6_v7_7_6 (u : BitVec 2) (v : BitVec 6) (w : BitVec 7) :
    (0#1 ++ u ++ v ++ w : BitVec 16).extractLsb' 7 6 = v := by
  apply BitVec.eq_of_toNat_eq
  simp only [append_toNat, BitVec.extractLsb'_toNat, Nat.shiftRight_eq_div_pow, toNat_literal]
  have := u.isLt
  have := v.isLt
  have := w.isLt
  omega

@[simp] theorem packExt_13_2 (x : Tokens) (e : BitVec 16) : (packExt x e).extractLsb' 13 2 = e.extractLsb' 13 2 := by
  apply BitVec.eq_of_toNat_eq
  simp only [packExt, append_toNat, BitVec.extractLsb'_toNat, Nat.shiftRight_eq_div_pow]
  have := x.kp.isLt
  have := x.kc0.isLt
  have := x.kc1.isLt
  have := x.kc2.isLt
  have := e.isLt
  omega

@[simp] theorem join_z1_v2_v6_v7_13_2 (u : BitVec 2) (v : BitVec 6) (w : BitVec 7) :
    (0#1 ++ u ++ v ++ w : BitVec 16).extractLsb' 13 2 = u := by
  apply BitVec.eq_of_toNat_eq
  simp only [append_toNat, BitVec.extractLsb'_toNat, Nat.shiftRight_eq_div_pow, toNat_literal]
  have := u.isLt
  have := v.isLt
  have := w.isLt
  omega

@[simp] theorem join_z1_v2_z13_15_1 (u : BitVec 2) : (0#1 ++ u ++ 0#13 : BitVec 16).extractLsb' 15 1 = 0#1 := by
  apply BitVec.eq_of_toNat_eq
  simp only [append_toNat, BitVec.extractLsb'_toNat, Nat.shiftRight_eq_div_pow, toNat_literal]
  have := u.isLt
  omega

@[simp] theorem join_z1_v2_z13_13_2 (u : BitVec 2) : (0#1 ++ u ++ 0#13 : BitVec 16).extractLsb' 13 2 = u := by
  apply BitVec.eq_of_toNat_eq
  simp only [append_toNat, BitVec.extractLsb'_toNat, Nat.shiftRight_eq_div_pow, toNat_literal]
  have := u.isLt
  omega

@[simp] theorem packExt_0_13 (x : Tokens) (e : BitVec 16) : (packExt x e).extractLsb' 0 13 = e.extractLsb' 0 13 := by
  apply BitVec.eq_of_toNat_eq
  simp only [packExt, append_toNat, BitVec.extractLsb'_toNat, Nat.shiftRight_eq_div_pow]
  have := x.kp.isLt
  have := x.kc0.isLt
  have := x.kc1.isLt
  have := x.kc2.isLt
  have := e.isLt
  omega

@[simp] theorem join_z1_v2_z13_0_13 (u : BitVec 2) : (0#1 ++ u ++ 0#13 : BitVec 16).extractLsb' 0 13 = 0#13 := by
  apply BitVec.eq_of_toNat_eq
  simp only [append_toNat, BitVec.extractLsb'_toNat, Nat.shiftRight_eq_div_pow, toNat_literal]
  have := u.isLt
  omega

@[simp] theorem packExt_13_1 (x : Tokens) (e : BitVec 16) : (packExt x e).extractLsb' 13 1 = e.extractLsb' 13 1 := by
  apply BitVec.eq_of_toNat_eq
  simp only [packExt, append_toNat, BitVec.extractLsb'_toNat, Nat.shiftRight_eq_div_pow]
  have := x.kp.isLt
  have := x.kc0.isLt
  have := x.kc1.isLt
  have := x.kc2.isLt
  have := e.isLt
  omega

@[simp] theorem join_l2_v1_v6_v7_13_1 (u : BitVec 1) (v : BitVec 6) (w : BitVec 7) :
    (2#2 ++ u ++ v ++ w : BitVec 16).extractLsb' 13 1 = u := by
  apply BitVec.eq_of_toNat_eq
  simp only [append_toNat, BitVec.extractLsb'_toNat, Nat.shiftRight_eq_div_pow, toNat_literal]
  have := u.isLt
  have := v.isLt
  have := w.isLt
  omega

@[simp] theorem join_l2_v1_v6_v7_0_7 (u : BitVec 1) (v : BitVec 6) (w : BitVec 7) :
    (2#2 ++ u ++ v ++ w : BitVec 16).extractLsb' 0 7 = w := by
  apply BitVec.eq_of_toNat_eq
  simp only [append_toNat, BitVec.extractLsb'_toNat, Nat.shiftRight_eq_div_pow, toNat_literal]
  have := u.isLt
  have := v.isLt
  have := w.isLt
  omega

@[simp] theorem join_l2_v1_v6_v7_7_6 (u : BitVec 1) (v : BitVec 6) (w : BitVec 7) :
    (2#2 ++ u ++ v ++ w : BitVec 16).extractLsb' 7 6 = v := by
  apply BitVec.eq_of_toNat_eq
  simp only [append_toNat, BitVec.extractLsb'_toNat, Nat.shiftRight_eq_div_pow, toNat_literal]
  have := u.isLt
  have := v.isLt
  have := w.isLt
  omega

@[simp] theorem packExt_14_2 (x : Tokens) (e : BitVec 16) : (packExt x e).extractLsb' 14 2 = e.extractLsb' 14 2 := by
  apply BitVec.eq_of_toNat_eq
  simp only [packExt, append_toNat, BitVec.extractLsb'_toNat, Nat.shiftRight_eq_div_pow]
  have := x.kp.isLt
  have := x.kc0.isLt
  have := x.kc1.isLt
  have := x.kc2.isLt
  have := e.isLt
  omega

@[simp] theorem join_l2_v1_v6_v7_14_2 (u : BitVec 1) (v : BitVec 6) (w : BitVec 7) :
    (2#2 ++ u ++ v ++ w : BitVec 16).extractLsb' 14 2 = 2#2 := by
  apply BitVec.eq_of_toNat_eq
  simp only [append_toNat, BitVec.extractLsb'_toNat, Nat.shiftRight_eq_div_pow, toNat_literal]
  have := u.isLt
  have := v.isLt
  have := w.isLt
  omega

@[simp] theorem packExt_13_3 (x : Tokens) (e : BitVec 16) : (packExt x e).extractLsb' 13 3 = e.extractLsb' 13 3 := by
  apply BitVec.eq_of_toNat_eq
  simp only [packExt, append_toNat, BitVec.extractLsb'_toNat, Nat.shiftRight_eq_div_pow]
  have := x.kp.isLt
  have := x.kc0.isLt
  have := x.kc1.isLt
  have := x.kc2.isLt
  have := e.isLt
  omega

@[simp] theorem join_v3_z13_13_3 (u : BitVec 3) : (u ++ 0#13 : BitVec 16).extractLsb' 13 3 = u := by
  apply BitVec.eq_of_toNat_eq
  simp only [append_toNat, BitVec.extractLsb'_toNat, Nat.shiftRight_eq_div_pow, toNat_literal]
  have := u.isLt
  omega

@[simp] theorem join_v3_z13_0_13 (u : BitVec 3) : (u ++ 0#13 : BitVec 16).extractLsb' 0 13 = 0#13 := by
  apply BitVec.eq_of_toNat_eq
  simp only [append_toNat, BitVec.extractLsb'_toNat, Nat.shiftRight_eq_div_pow, toNat_literal]
  have := u.isLt
  omega

@[simp] theorem join_v2_z3_3_2 (u : BitVec 2) : (u ++ 0#3 : BitVec 5).extractLsb' 3 2 = u := by
  apply BitVec.eq_of_toNat_eq
  simp only [append_toNat, BitVec.extractLsb'_toNat, Nat.shiftRight_eq_div_pow, toNat_literal]
  have := u.isLt
  omega

@[simp] theorem join_v2_z3_0_3 (u : BitVec 2) : (u ++ 0#3 : BitVec 5).extractLsb' 0 3 = 0#3 := by
  apply BitVec.eq_of_toNat_eq
  simp only [append_toNat, BitVec.extractLsb'_toNat, Nat.shiftRight_eq_div_pow, toNat_literal]
  have := u.isLt
  omega

@[simp] theorem packF3_2_1 (g : BitVec 4) (q : Bool) (op : BitVec 7) (d a b f : BitVec 5) :
    (packF3 g q op d a b f).extractLsb' 2 1 = f.extractLsb' 2 1 := by
  apply BitVec.eq_of_toNat_eq
  simp only [packF3, append_toNat, BitVec.extractLsb'_toNat, Nat.shiftRight_eq_div_pow]
  have := g.isLt
  have := (BitVec.ofBool q).isLt
  have := op.isLt
  have := d.isLt
  have := a.isLt
  have := b.isLt
  have := f.isLt
  omega

@[simp] theorem join_v2_b1_v2_2_1 (u : BitVec 2) (v : Bool) (w : BitVec 2) :
    (u ++ BitVec.ofBool v ++ w : BitVec 5).extractLsb' 2 1 = BitVec.ofBool v := by
  apply BitVec.eq_of_toNat_eq
  simp only [append_toNat, BitVec.extractLsb'_toNat, Nat.shiftRight_eq_div_pow]
  have := u.isLt
  have := (BitVec.ofBool v).isLt
  have := w.isLt
  omega

@[simp] theorem join_v2_b1_v2_3_2 (u : BitVec 2) (v : Bool) (w : BitVec 2) :
    (u ++ BitVec.ofBool v ++ w : BitVec 5).extractLsb' 3 2 = u := by
  apply BitVec.eq_of_toNat_eq
  simp only [append_toNat, BitVec.extractLsb'_toNat, Nat.shiftRight_eq_div_pow]
  have := u.isLt
  have := (BitVec.ofBool v).isLt
  have := w.isLt
  omega

@[simp] theorem packF3_0_2 (g : BitVec 4) (q : Bool) (op : BitVec 7) (d a b f : BitVec 5) :
    (packF3 g q op d a b f).extractLsb' 0 2 = f.extractLsb' 0 2 := by
  apply BitVec.eq_of_toNat_eq
  simp only [packF3, append_toNat, BitVec.extractLsb'_toNat, Nat.shiftRight_eq_div_pow]
  have := g.isLt
  have := (BitVec.ofBool q).isLt
  have := op.isLt
  have := d.isLt
  have := a.isLt
  have := b.isLt
  have := f.isLt
  omega

@[simp] theorem join_v2_b1_v2_0_2 (u : BitVec 2) (v : Bool) (w : BitVec 2) :
    (u ++ BitVec.ofBool v ++ w : BitVec 5).extractLsb' 0 2 = w := by
  apply BitVec.eq_of_toNat_eq
  simp only [append_toNat, BitVec.extractLsb'_toNat, Nat.shiftRight_eq_div_pow]
  have := u.isLt
  have := (BitVec.ofBool v).isLt
  have := w.isLt
  omega

@[simp] theorem join_z1_b1_v3_0_3 (u : Bool) (v : BitVec 3) :
    (0#1 ++ BitVec.ofBool u ++ v : BitVec 5).extractLsb' 0 3 = v := by
  apply BitVec.eq_of_toNat_eq
  simp only [append_toNat, BitVec.extractLsb'_toNat, Nat.shiftRight_eq_div_pow, toNat_literal]
  have := (BitVec.ofBool u).isLt
  have := v.isLt
  omega

@[simp] theorem join_z1_b1_v3_4_1 (u : Bool) (v : BitVec 3) :
    (0#1 ++ BitVec.ofBool u ++ v : BitVec 5).extractLsb' 4 1 = 0#1 := by
  apply BitVec.eq_of_toNat_eq
  simp only [append_toNat, BitVec.extractLsb'_toNat, Nat.shiftRight_eq_div_pow, toNat_literal]
  have := (BitVec.ofBool u).isLt
  have := v.isLt
  omega

@[simp] theorem packF3_18_1 (g : BitVec 4) (q : Bool) (op : BitVec 7) (d a b f : BitVec 5) :
    (packF3 g q op d a b f).extractLsb' 18 1 = d.extractLsb' 3 1 := by
  apply BitVec.eq_of_toNat_eq
  simp only [packF3, append_toNat, BitVec.extractLsb'_toNat, Nat.shiftRight_eq_div_pow]
  have := g.isLt
  have := (BitVec.ofBool q).isLt
  have := op.isLt
  have := d.isLt
  have := a.isLt
  have := b.isLt
  have := f.isLt
  omega

@[simp] theorem join_z1_b1_v3_3_1 (u : Bool) (v : BitVec 3) :
    (0#1 ++ BitVec.ofBool u ++ v : BitVec 5).extractLsb' 3 1 = BitVec.ofBool u := by
  apply BitVec.eq_of_toNat_eq
  simp only [append_toNat, BitVec.extractLsb'_toNat, Nat.shiftRight_eq_div_pow, toNat_literal]
  have := (BitVec.ofBool u).isLt
  have := v.isLt
  omega

@[simp] theorem packF3_13_2 (g : BitVec 4) (q : Bool) (op : BitVec 7) (d a b f : BitVec 5) :
    (packF3 g q op d a b f).extractLsb' 13 2 = a.extractLsb' 3 2 := by
  apply BitVec.eq_of_toNat_eq
  simp only [packF3, append_toNat, BitVec.extractLsb'_toNat, Nat.shiftRight_eq_div_pow]
  have := g.isLt
  have := (BitVec.ofBool q).isLt
  have := op.isLt
  have := d.isLt
  have := a.isLt
  have := b.isLt
  have := f.isLt
  omega

@[simp] theorem packF3_10_3 (g : BitVec 4) (q : Bool) (op : BitVec 7) (d a b f : BitVec 5) :
    (packF3 g q op d a b f).extractLsb' 10 3 = a.extractLsb' 0 3 := by
  apply BitVec.eq_of_toNat_eq
  simp only [packF3, append_toNat, BitVec.extractLsb'_toNat, Nat.shiftRight_eq_div_pow]
  have := g.isLt
  have := (BitVec.ofBool q).isLt
  have := op.isLt
  have := d.isLt
  have := a.isLt
  have := b.isLt
  have := f.isLt
  omega

@[simp] theorem packFL_15_3 (g : BitVec 4) (q : Bool) (op : BitVec 7) (d : BitVec 5) (i : BitVec 15) :
    (packFL g q op d i).extractLsb' 15 3 = d.extractLsb' 0 3 := by
  apply BitVec.eq_of_toNat_eq
  simp only [packFL, append_toNat, BitVec.extractLsb'_toNat, Nat.shiftRight_eq_div_pow]
  have := g.isLt
  have := (BitVec.ofBool q).isLt
  have := op.isLt
  have := d.isLt
  have := i.isLt
  omega

@[simp] theorem packFL_18_2 (g : BitVec 4) (q : Bool) (op : BitVec 7) (d : BitVec 5) (i : BitVec 15) :
    (packFL g q op d i).extractLsb' 18 2 = d.extractLsb' 3 2 := by
  apply BitVec.eq_of_toNat_eq
  simp only [packFL, append_toNat, BitVec.extractLsb'_toNat, Nat.shiftRight_eq_div_pow]
  have := g.isLt
  have := (BitVec.ofBool q).isLt
  have := op.isLt
  have := d.isLt
  have := i.isLt
  omega

@[simp] theorem packM_0_2 (mop : BitVec 4) (sel : BitVec 1) (p : BitVec 3) (rest : BitVec 24) :
    (packM mop sel p rest).extractLsb' 0 2 = rest.extractLsb' 0 2 := by
  apply BitVec.eq_of_toNat_eq
  simp only [packM, append_toNat, BitVec.extractLsb'_toNat, Nat.shiftRight_eq_div_pow]
  have := mop.isLt
  have := sel.isLt
  have := p.isLt
  have := rest.isLt
  omega

@[simp] theorem join_z22_v2_0_2 (u : BitVec 2) : (0#22 ++ u : BitVec 24).extractLsb' 0 2 = u := by
  apply BitVec.eq_of_toNat_eq
  simp only [append_toNat, BitVec.extractLsb'_toNat, Nat.shiftRight_eq_div_pow, toNat_literal]
  have := u.isLt
  omega

@[simp] theorem packM_0_1 (mop : BitVec 4) (sel : BitVec 1) (p : BitVec 3) (rest : BitVec 24) :
    (packM mop sel p rest).extractLsb' 0 1 = rest.extractLsb' 0 1 := by
  apply BitVec.eq_of_toNat_eq
  simp only [packM, append_toNat, BitVec.extractLsb'_toNat, Nat.shiftRight_eq_div_pow]
  have := mop.isLt
  have := sel.isLt
  have := p.isLt
  have := rest.isLt
  omega

@[simp] theorem join_z23_b1_0_1 (u : Bool) :
    (0#23 ++ BitVec.ofBool u : BitVec 24).extractLsb' 0 1 = BitVec.ofBool u := by
  apply BitVec.eq_of_toNat_eq
  simp only [append_toNat, BitVec.extractLsb'_toNat, Nat.shiftRight_eq_div_pow, toNat_literal]
  have := (BitVec.ofBool u).isLt
  omega

@[simp] theorem packM_27_1 (mop : BitVec 4) (sel : BitVec 1) (p : BitVec 3) (rest : BitVec 24) :
    (packM mop sel p rest).extractLsb' 27 1 = sel := by
  apply BitVec.eq_of_toNat_eq
  simp only [packM, append_toNat, BitVec.extractLsb'_toNat, Nat.shiftRight_eq_div_pow]
  have := mop.isLt
  have := sel.isLt
  have := p.isLt
  have := rest.isLt
  omega

@[simp] theorem packM_24_3 (mop : BitVec 4) (sel : BitVec 1) (p : BitVec 3) (rest : BitVec 24) :
    (packM mop sel p rest).extractLsb' 24 3 = p := by
  apply BitVec.eq_of_toNat_eq
  simp only [packM, append_toNat, BitVec.extractLsb'_toNat, Nat.shiftRight_eq_div_pow]
  have := mop.isLt
  have := sel.isLt
  have := p.isLt
  have := rest.isLt
  omega

@[simp] theorem packM_1_23 (mop : BitVec 4) (sel : BitVec 1) (p : BitVec 3) (rest : BitVec 24) :
    (packM mop sel p rest).extractLsb' 1 23 = rest.extractLsb' 1 23 := by
  apply BitVec.eq_of_toNat_eq
  simp only [packM, append_toNat, BitVec.extractLsb'_toNat, Nat.shiftRight_eq_div_pow]
  have := mop.isLt
  have := sel.isLt
  have := p.isLt
  have := rest.isLt
  omega

@[simp] theorem join_z23_b1_1_23 (u : Bool) : (0#23 ++ BitVec.ofBool u : BitVec 24).extractLsb' 1 23 = 0#23 := by
  apply BitVec.eq_of_toNat_eq
  simp only [append_toNat, BitVec.extractLsb'_toNat, Nat.shiftRight_eq_div_pow, toNat_literal]
  have := (BitVec.ofBool u).isLt
  omega

@[simp] theorem packM_0_24 (mop : BitVec 4) (sel : BitVec 1) (p : BitVec 3) (rest : BitVec 24) :
    (packM mop sel p rest).extractLsb' 0 24 = rest := by
  apply BitVec.eq_of_toNat_eq
  simp only [packM, append_toNat, BitVec.extractLsb'_toNat, Nat.shiftRight_eq_div_pow]
  have := mop.isLt
  have := sel.isLt
  have := p.isLt
  have := rest.isLt
  omega

@[simp] theorem packM_0_12 (mop : BitVec 4) (sel : BitVec 1) (p : BitVec 3) (rest : BitVec 24) :
    (packM mop sel p rest).extractLsb' 0 12 = rest.extractLsb' 0 12 := by
  apply BitVec.eq_of_toNat_eq
  simp only [packM, append_toNat, BitVec.extractLsb'_toNat, Nat.shiftRight_eq_div_pow]
  have := mop.isLt
  have := sel.isLt
  have := p.isLt
  have := rest.isLt
  omega

@[simp] theorem join_z12_v12_0_12 (u : BitVec 12) : (0#12 ++ u : BitVec 24).extractLsb' 0 12 = u := by
  apply BitVec.eq_of_toNat_eq
  simp only [append_toNat, BitVec.extractLsb'_toNat, Nat.shiftRight_eq_div_pow, toNat_literal]
  have := u.isLt
  omega

@[simp] theorem packM_0_16 (mop : BitVec 4) (sel : BitVec 1) (p : BitVec 3) (rest : BitVec 24) :
    (packM mop sel p rest).extractLsb' 0 16 = rest.extractLsb' 0 16 := by
  apply BitVec.eq_of_toNat_eq
  simp only [packM, append_toNat, BitVec.extractLsb'_toNat, Nat.shiftRight_eq_div_pow]
  have := mop.isLt
  have := sel.isLt
  have := p.isLt
  have := rest.isLt
  omega

@[simp] theorem join_z8_v16_0_16 (u : BitVec 16) : (0#8 ++ u : BitVec 24).extractLsb' 0 16 = u := by
  apply BitVec.eq_of_toNat_eq
  simp only [append_toNat, BitVec.extractLsb'_toNat, Nat.shiftRight_eq_div_pow, toNat_literal]
  have := u.isLt
  omega

@[simp] theorem packM_16_8 (mop : BitVec 4) (sel : BitVec 1) (p : BitVec 3) (rest : BitVec 24) :
    (packM mop sel p rest).extractLsb' 16 8 = rest.extractLsb' 16 8 := by
  apply BitVec.eq_of_toNat_eq
  simp only [packM, append_toNat, BitVec.extractLsb'_toNat, Nat.shiftRight_eq_div_pow]
  have := mop.isLt
  have := sel.isLt
  have := p.isLt
  have := rest.isLt
  omega

@[simp] theorem join_z8_v16_16_8 (u : BitVec 16) : (0#8 ++ u : BitVec 24).extractLsb' 16 8 = 0#8 := by
  apply BitVec.eq_of_toNat_eq
  simp only [append_toNat, BitVec.extractLsb'_toNat, Nat.shiftRight_eq_div_pow, toNat_literal]
  have := u.isLt
  omega

@[simp] theorem packM_0_10 (mop : BitVec 4) (sel : BitVec 1) (p : BitVec 3) (rest : BitVec 24) :
    (packM mop sel p rest).extractLsb' 0 10 = rest.extractLsb' 0 10 := by
  apply BitVec.eq_of_toNat_eq
  simp only [packM, append_toNat, BitVec.extractLsb'_toNat, Nat.shiftRight_eq_div_pow]
  have := mop.isLt
  have := sel.isLt
  have := p.isLt
  have := rest.isLt
  omega

@[simp] theorem join_z14_v10_0_10 (u : BitVec 10) : (0#14 ++ u : BitVec 24).extractLsb' 0 10 = u := by
  apply BitVec.eq_of_toNat_eq
  simp only [append_toNat, BitVec.extractLsb'_toNat, Nat.shiftRight_eq_div_pow, toNat_literal]
  have := u.isLt
  omega

@[simp] theorem packM_0_4 (mop : BitVec 4) (sel : BitVec 1) (p : BitVec 3) (rest : BitVec 24) :
    (packM mop sel p rest).extractLsb' 0 4 = rest.extractLsb' 0 4 := by
  apply BitVec.eq_of_toNat_eq
  simp only [packM, append_toNat, BitVec.extractLsb'_toNat, Nat.shiftRight_eq_div_pow]
  have := mop.isLt
  have := sel.isLt
  have := p.isLt
  have := rest.isLt
  omega

@[simp] theorem join_z20_v4_0_4 (u : BitVec 4) : (0#20 ++ u : BitVec 24).extractLsb' 0 4 = u := by
  apply BitVec.eq_of_toNat_eq
  simp only [append_toNat, BitVec.extractLsb'_toNat, Nat.shiftRight_eq_div_pow, toNat_literal]
  have := u.isLt
  omega

@[simp] theorem packFL_0_20 (g : BitVec 4) (q : Bool) (op : BitVec 7) :
    (packFL g q op 0#5 0#15).extractLsb' 0 20 = 0#20 := by
  apply BitVec.eq_of_toNat_eq
  simp only [packFL, append_toNat, BitVec.extractLsb'_toNat, Nat.shiftRight_eq_div_pow, toNat_literal]
  have := g.isLt
  have := (BitVec.ofBool q).isLt
  have := op.isLt
  omega

@[simp] theorem packM_0_28 (op : BitVec 4) : (packM op 0#1 0#3 0#24).extractLsb' 0 28 = 0#28 := by
  apply BitVec.eq_of_toNat_eq
  simp only [packM, append_toNat, BitVec.extractLsb'_toNat, Nat.shiftRight_eq_div_pow, toNat_literal]
  have := op.isLt
  omega

@[simp] theorem packM_fmt_2_26 (op : BitVec 4) (v : BitVec 2) :
    (packM op 0#1 0#3 (0#22 ++ v)).extractLsb' 2 26 = 0#26 := by
  apply BitVec.eq_of_toNat_eq
  simp only [packM, append_toNat, BitVec.extractLsb'_toNat, Nat.shiftRight_eq_div_pow, toNat_literal]
  have := op.isLt
  have := v.isLt
  omega

@[simp] theorem packM_flag_1_27 (op : BitVec 4) (v : Bool) :
    (packM op 0#1 0#3 (0#23 ++ BitVec.ofBool v)).extractLsb' 1 27 = 0#27 := by
  apply BitVec.eq_of_toNat_eq
  simp only [packM, append_toNat, BitVec.extractLsb'_toNat, Nat.shiftRight_eq_div_pow, toNat_literal]
  have := op.isLt
  have := (BitVec.ofBool v).isLt
  omega

@[simp] theorem packM_count_12_15 (op : BitVec 4) (v : BitVec 12) :
    (packM op 0#1 0#3 (0#12 ++ v)).extractLsb' 12 15 = 0#15 := by
  apply BitVec.eq_of_toNat_eq
  simp only [packM, append_toNat, BitVec.extractLsb'_toNat, Nat.shiftRight_eq_div_pow, toNat_literal]
  have := op.isLt
  have := v.isLt
  omega

@[simp] theorem packM_rows_10_18 (op : BitVec 4) (v : BitVec 10) :
    (packM op 0#1 0#3 (0#14 ++ v)).extractLsb' 10 18 = 0#18 := by
  apply BitVec.eq_of_toNat_eq
  simp only [packM, append_toNat, BitVec.extractLsb'_toNat, Nat.shiftRight_eq_div_pow, toNat_literal]
  have := op.isLt
  have := v.isLt
  omega

@[simp] theorem packM_token_4_24 (op v : BitVec 4) : (packM op 0#1 0#3 (0#20 ++ v)).extractLsb' 4 24 = 0#24 := by
  apply BitVec.eq_of_toNat_eq
  simp only [packM, append_toNat, BitVec.extractLsb'_toNat, Nat.shiftRight_eq_div_pow, toNat_literal]
  have := op.isLt
  have := v.isLt
  omega

@[simp] theorem anch_26_2 (n : BitVec 10) (a : BitVec 16) : (44#6 ++ n ++ a : BitVec 32).extractLsb' 26 2 = 0#2 := by
  apply BitVec.eq_of_toNat_eq
  simp only [append_toNat, BitVec.extractLsb'_toNat, Nat.shiftRight_eq_div_pow, toNat_literal]
  have := n.isLt
  have := a.isLt
  omega

@[simp] theorem anch_16_10 (n : BitVec 10) (a : BitVec 16) : (44#6 ++ n ++ a : BitVec 32).extractLsb' 16 10 = n := by
  apply BitVec.eq_of_toNat_eq
  simp only [append_toNat, BitVec.extractLsb'_toNat, Nat.shiftRight_eq_div_pow, toNat_literal]
  have := n.isLt
  have := a.isLt
  omega

@[simp] theorem anch_0_16 (n : BitVec 10) (a : BitVec 16) : (44#6 ++ n ++ a : BitVec 32).extractLsb' 0 16 = a := by
  apply BitVec.eq_of_toNat_eq
  simp only [append_toNat, BitVec.extractLsb'_toNat, Nat.shiftRight_eq_div_pow, toNat_literal]
  have := n.isLt
  have := a.isLt
  omega

@[simp] theorem anch_28_4 (n : BitVec 10) (a : BitVec 16) : (44#6 ++ n ++ a : BitVec 32).extractLsb' 28 4 = 11#4 := by
  apply BitVec.eq_of_toNat_eq
  simp only [append_toNat, BitVec.extractLsb'_toNat, Nat.shiftRight_eq_div_pow, toNat_literal]
  have := n.isLt
  have := a.isLt
  omega

@[simp] theorem packM_28_4 (mop : BitVec 4) (sel : BitVec 1) (p : BitVec 3) (rest : BitVec 24) :
    (packM mop sel p rest).extractLsb' 28 4 = mop := by
  apply BitVec.eq_of_toNat_eq
  simp only [packM, append_toNat, BitVec.extractLsb'_toNat, Nat.shiftRight_eq_div_pow]
  have := mop.isLt
  have := sel.isLt
  have := p.isLt
  have := rest.isLt
  omega

@[simp] theorem packExt_0_16 (x : Tokens) (e : BitVec 16) : (packExt x e).extractLsb' 0 16 = e := by
  apply BitVec.eq_of_toNat_eq
  simp only [packExt, append_toNat, BitVec.extractLsb'_toNat, Nat.shiftRight_eq_div_pow]
  have := x.kp.isLt
  have := x.kc0.isLt
  have := x.kc1.isLt
  have := x.kc2.isLt
  have := e.isLt
  omega

@[simp] theorem packF3_fQ (g : BitVec 4) (q : Bool) (op : BitVec 7) (d a b f : BitVec 5) :
    fQ (packF3 g q op d a b f) = q := by
  have h : (packF3 g q op d a b f).extractLsb' 27 1 = BitVec.ofBool q := by
    apply BitVec.eq_of_toNat_eq
    simp only [packF3, append_toNat, BitVec.extractLsb'_toNat, Nat.shiftRight_eq_div_pow]
    have := g.isLt
    have := (BitVec.ofBool q).isLt
    have := op.isLt
    have := d.isLt
    have := a.isLt
    have := b.isLt
    have := f.isLt
    omega
  cases q <;> simp [fQ, h]

@[simp] theorem packFI_fQ (g : BitVec 4) (q : Bool) (op : BitVec 7) (d a : BitVec 5) (i : BitVec 10) :
    fQ (packFI g q op d a i) = q := by
  have h : (packFI g q op d a i).extractLsb' 27 1 = BitVec.ofBool q := by
    apply BitVec.eq_of_toNat_eq
    simp only [packFI, append_toNat, BitVec.extractLsb'_toNat, Nat.shiftRight_eq_div_pow]
    have := g.isLt
    have := (BitVec.ofBool q).isLt
    have := op.isLt
    have := d.isLt
    have := a.isLt
    have := i.isLt
    omega
  cases q <;> simp [fQ, h]

@[simp] theorem packFL_fQ (g : BitVec 4) (q : Bool) (op : BitVec 7) (d : BitVec 5) (i : BitVec 15) :
    fQ (packFL g q op d i) = q := by
  have h : (packFL g q op d i).extractLsb' 27 1 = BitVec.ofBool q := by
    apply BitVec.eq_of_toNat_eq
    simp only [packFL, append_toNat, BitVec.extractLsb'_toNat, Nat.shiftRight_eq_div_pow]
    have := g.isLt
    have := (BitVec.ofBool q).isLt
    have := op.isLt
    have := d.isLt
    have := i.isLt
    omega
  cases q <;> simp [fQ, h]

@[simp] theorem packFB_fQ (g : BitVec 4) (q : Bool) (op : BitVec 7) (i : BitVec 20) : fQ (packFB g q op i) = q := by
  have h : (packFB g q op i).extractLsb' 27 1 = BitVec.ofBool q := by
    apply BitVec.eq_of_toNat_eq
    simp only [packFB, append_toNat, BitVec.extractLsb'_toNat, Nat.shiftRight_eq_div_pow]
    have := g.isLt
    have := (BitVec.ofBool q).isLt
    have := op.isLt
    have := i.isLt
    omega
  cases q <;> simp [fQ, h]

@[simp] theorem packFT_fQ (g : BitVec 4) (q : Bool) (op : BitVec 7) (d : BitVec 5) (n : BitVec 6) (lag : BitVec 9) :
    fQ (packFT g q op d n lag) = q := by
  have h : (packFT g q op d n lag).extractLsb' 27 1 = BitVec.ofBool q := by
    apply BitVec.eq_of_toNat_eq
    simp only [packFT, append_toNat, BitVec.extractLsb'_toNat, Nat.shiftRight_eq_div_pow]
    have := g.isLt
    have := (BitVec.ofBool q).isLt
    have := op.isLt
    have := d.isLt
    have := n.isLt
    have := lag.isLt
    omega
  cases q <;> simp [fQ, h]

/-! ### The decoders at each opcode -/

theorem decodeScalar_0x0 {w : Lane} (h : opOf w = 0x0#7) : decodeScalar w =
    checked (w.extractLsb' 0 20 == 0) (.nop (fG w) (fQ w) none) := by
  rw [decodeScalar, h]; rfl

theorem decodeScalar_0x1 {w : Lane} (h : opOf w = 0x1#7) : decodeScalar w =
    checked (fF w == 0) (.add (fG w) (fQ w) (rD w) (rA w) (rB w)) := by
  rw [decodeScalar, h]; rfl

theorem decodeScalar_0x2 {w : Lane} (h : opOf w = 0x2#7) : decodeScalar w =
    checked (fF w == 0) (.sub (fG w) (fQ w) (rD w) (rA w) (rB w)) := by
  rw [decodeScalar, h]; rfl

theorem decodeScalar_0x4 {w : Lane} (h : opOf w = 0x4#7) : decodeScalar w =
    checked (fF w == 0) (.mul (fG w) (fQ w) (rD w) (rA w) (rB w)) := by
  rw [decodeScalar, h]; rfl

theorem decodeScalar_0x5 {w : Lane} (h : opOf w = 0x5#7) : decodeScalar w =
    checked (fF w == 0) (.mulh (fG w) (fQ w) (rD w) (rA w) (rB w)) := by
  rw [decodeScalar, h]; rfl

theorem decodeScalar_0x6 {w : Lane} (h : opOf w = 0x6#7) : decodeScalar w =
    checked (fF w == 0) (.mulhn (fG w) (fQ w) (rD w) (rA w) (rB w)) := by
  rw [decodeScalar, h]; rfl

theorem decodeScalar_0x7 {w : Lane} (h : opOf w = 0x7#7) : decodeScalar w =
    checked (fF w == 0) (.div (fG w) (fQ w) (rD w) (rA w) (rB w)) := by
  rw [decodeScalar, h]; rfl

theorem decodeScalar_0x8 {w : Lane} (h : opOf w = 0x8#7) : decodeScalar w =
    checked (fF w == 0) (.divn (fG w) (fQ w) (rD w) (rA w) (rB w)) := by
  rw [decodeScalar, h]; rfl

theorem decodeScalar_0x9 {w : Lane} (h : opOf w = 0x9#7) : decodeScalar w =
    checked (fF w == 0) (.rem (fG w) (fQ w) (rD w) (rA w) (rB w)) := by
  rw [decodeScalar, h]; rfl

theorem decodeScalar_0xa {w : Lane} (h : opOf w = 0xa#7) : decodeScalar w =
    checked (fF w == 0) (.remn (fG w) (fQ w) (rD w) (rA w) (rB w)) := by
  rw [decodeScalar, h]; rfl

theorem decodeScalar_0xb {w : Lane} (h : opOf w = 0xb#7) : decodeScalar w =
    checked (fF w == 0) (.min (fG w) (fQ w) (rD w) (rA w) (rB w)) := by
  rw [decodeScalar, h]; rfl

theorem decodeScalar_0xc {w : Lane} (h : opOf w = 0xc#7) : decodeScalar w =
    checked (fF w == 0) (.max (fG w) (fQ w) (rD w) (rA w) (rB w)) := by
  rw [decodeScalar, h]; rfl

theorem decodeScalar_0xd {w : Lane} (h : opOf w = 0xd#7) : decodeScalar w =
    checked (fF w == 0) (.minn (fG w) (fQ w) (rD w) (rA w) (rB w)) := by
  rw [decodeScalar, h]; rfl

theorem decodeScalar_0xe {w : Lane} (h : opOf w = 0xe#7) : decodeScalar w =
    checked (fF w == 0) (.maxn (fG w) (fQ w) (rD w) (rA w) (rB w)) := by
  rw [decodeScalar, h]; rfl

theorem decodeScalar_0xf {w : Lane} (h : opOf w = 0xf#7) : decodeScalar w =
    checked (fF w == 0) (.and (fG w) (fQ w) (rD w) (rA w) (rB w)) := by
  rw [decodeScalar, h]; rfl

theorem decodeScalar_0x10 {w : Lane} (h : opOf w = 0x10#7) : decodeScalar w =
    checked (fF w == 0) (.or (fG w) (fQ w) (rD w) (rA w) (rB w)) := by
  rw [decodeScalar, h]; rfl

theorem decodeScalar_0x11 {w : Lane} (h : opOf w = 0x11#7) : decodeScalar w =
    checked (fF w == 0) (.xor (fG w) (fQ w) (rD w) (rA w) (rB w)) := by
  rw [decodeScalar, h]; rfl

theorem decodeScalar_0x12 {w : Lane} (h : opOf w = 0x12#7) : decodeScalar w =
    checked (fF w == 0) (.andn (fG w) (fQ w) (rD w) (rA w) (rB w)) := by
  rw [decodeScalar, h]; rfl

theorem decodeScalar_0x13 {w : Lane} (h : opOf w = 0x13#7) : decodeScalar w =
    checked (fF w == 0) (.shl (fG w) (fQ w) (rD w) (rA w) (rB w)) := by
  rw [decodeScalar, h]; rfl

theorem decodeScalar_0x14 {w : Lane} (h : opOf w = 0x14#7) : decodeScalar w =
    checked (fF w == 0) (.shr (fG w) (fQ w) (rD w) (rA w) (rB w)) := by
  rw [decodeScalar, h]; rfl

theorem decodeScalar_0x15 {w : Lane} (h : opOf w = 0x15#7) : decodeScalar w =
    checked (fF w == 0) (.sra (fG w) (fQ w) (rD w) (rA w) (rB w)) := by
  rw [decodeScalar, h]; rfl

theorem decodeScalar_0x3 {w : Lane} (h : opOf w = 0x3#7) : decodeScalar w =
    checked (true) (.addi (fG w) (fQ w) (rD w) (rA w) (fI10 w)) := by
  rw [decodeScalar, h]; rfl

theorem decodeScalar_0x16 {w : Lane} (h : opOf w = 0x16#7) : decodeScalar w =
    checked (w.extractLsb' 6 4 == 0) (.shli (fG w) (fQ w) (rD w) (rA w) (w.extractLsb' 0 6)) := by
  rw [decodeScalar, h]; rfl

theorem decodeScalar_0x17 {w : Lane} (h : opOf w = 0x17#7) : decodeScalar w =
    checked (w.extractLsb' 6 4 == 0) (.shri (fG w) (fQ w) (rD w) (rA w) (w.extractLsb' 0 6)) := by
  rw [decodeScalar, h]; rfl

theorem decodeScalar_0x18 {w : Lane} (h : opOf w = 0x18#7) : decodeScalar w =
    checked (w.extractLsb' 6 4 == 0) (.srai (fG w) (fQ w) (rD w) (rA w) (w.extractLsb' 0 6)) := by
  rw [decodeScalar, h]; rfl

theorem decodeScalar_0x19 {w : Lane} (h : opOf w = 0x19#7) : decodeScalar w =
    checked (true) (.movi (fG w) (fQ w) (rD w) (fI15 w)) := by
  rw [decodeScalar, h]; rfl

theorem decodeScalar_0x1a {w : Lane} (h : opOf w = 0x1a#7) : decodeScalar w =
    checked (true) (.lhi (fG w) (fQ w) (rD w) (fI15 w)) := by
  rw [decodeScalar, h]; rfl

theorem decodeScalar_0x1b {w : Lane} (h : opOf w = 0x1b#7) : decodeScalar w =
    checked (rB w == 0 && fF w == 0) (.sxI8 (fG w) (fQ w) (rD w) (rA w)) := by
  rw [decodeScalar, h]; rfl

theorem decodeScalar_0x1c {w : Lane} (h : opOf w = 0x1c#7) : decodeScalar w =
    checked (rB w == 0 && fF w == 0) (.sxI16 (fG w) (fQ w) (rD w) (rA w)) := by
  rw [decodeScalar, h]; rfl

theorem decodeScalar_0x1d {w : Lane} (h : opOf w = 0x1d#7) : decodeScalar w =
    checked (rB w == 0 && fF w == 0) (.sxI32 (fG w) (fQ w) (rD w) (rA w)) := by
  rw [decodeScalar, h]; rfl

theorem decodeScalar_0x1e {w : Lane} (h : opOf w = 0x1e#7) : decodeScalar w =
    checked (rB w == 0 && fF w == 0) (.zxN8 (fG w) (fQ w) (rD w) (rA w)) := by
  rw [decodeScalar, h]; rfl

theorem decodeScalar_0x1f {w : Lane} (h : opOf w = 0x1f#7) : decodeScalar w =
    checked (rB w == 0 && fF w == 0) (.zxN16 (fG w) (fQ w) (rD w) (rA w)) := by
  rw [decodeScalar, h]; rfl

theorem decodeScalar_0x20 {w : Lane} (h : opOf w = 0x20#7) : decodeScalar w =
    checked (rB w == 0 && fF w == 0) (.zxN32 (fG w) (fQ w) (rD w) (rA w)) := by
  rw [decodeScalar, h]; rfl

theorem decodeScalar_0x21 {w : Lane} (h : opOf w = 0x21#7) : decodeScalar w =
    checked (rB w == 0 && fF w == 0) (.clz (fG w) (fQ w) (rD w) (rA w)) := by
  rw [decodeScalar, h]; rfl

theorem decodeScalar_0x22 {w : Lane} (h : opOf w = 0x22#7) : decodeScalar w =
    checked (rB w == 0 && fF w == 0) (.ctz (fG w) (fQ w) (rD w) (rA w)) := by
  rw [decodeScalar, h]; rfl

theorem decodeScalar_0x23 {w : Lane} (h : opOf w = 0x23#7) : decodeScalar w =
    checked (rB w == 0 && fF w == 0) (.popc (fG w) (fQ w) (rD w) (rA w)) := by
  rw [decodeScalar, h]; rfl

theorem decodeScalar_0x24 {w : Lane} (h : opOf w = 0x24#7) : decodeScalar w =
    checked (w.extractLsb' 4 1 == 0) (.sel (fG w) (fQ w) (rD w) (rA w) (rB w) (w.extractLsb' 0 4)) := by
  rw [decodeScalar, h]; rfl

theorem decodeScalar_0x25 {w : Lane} (h : opOf w = 0x25#7) : decodeScalar w =
    checked (w.extractLsb' 15 1 == 0 && w.extractLsb' 19 1 == 0 && fF w == 0) (.cmpEq (fG w) (fQ w) (w.extractLsb' 16 3) (rA w) (rB w)) := by
  rw [decodeScalar, h]; rfl

theorem decodeScalar_0x26 {w : Lane} (h : opOf w = 0x26#7) : decodeScalar w =
    checked (w.extractLsb' 15 1 == 0 && w.extractLsb' 19 1 == 0 && fF w == 0) (.cmpNe (fG w) (fQ w) (w.extractLsb' 16 3) (rA w) (rB w)) := by
  rw [decodeScalar, h]; rfl

theorem decodeScalar_0x27 {w : Lane} (h : opOf w = 0x27#7) : decodeScalar w =
    checked (w.extractLsb' 15 1 == 0 && w.extractLsb' 19 1 == 0 && fF w == 0) (.cmpLt (fG w) (fQ w) (w.extractLsb' 16 3) (rA w) (rB w)) := by
  rw [decodeScalar, h]; rfl

theorem decodeScalar_0x28 {w : Lane} (h : opOf w = 0x28#7) : decodeScalar w =
    checked (w.extractLsb' 15 1 == 0 && w.extractLsb' 19 1 == 0 && fF w == 0) (.cmpLe (fG w) (fQ w) (w.extractLsb' 16 3) (rA w) (rB w)) := by
  rw [decodeScalar, h]; rfl

theorem decodeScalar_0x29 {w : Lane} (h : opOf w = 0x29#7) : decodeScalar w =
    checked (w.extractLsb' 15 1 == 0 && w.extractLsb' 19 1 == 0 && fF w == 0) (.cmpLtn (fG w) (fQ w) (w.extractLsb' 16 3) (rA w) (rB w)) := by
  rw [decodeScalar, h]; rfl

theorem decodeScalar_0x2a {w : Lane} (h : opOf w = 0x2a#7) : decodeScalar w =
    checked (w.extractLsb' 15 1 == 0 && w.extractLsb' 19 1 == 0 && fF w == 0) (.cmpLen (fG w) (fQ w) (w.extractLsb' 16 3) (rA w) (rB w)) := by
  rw [decodeScalar, h]; rfl

theorem decodeScalar_0x2b {w : Lane} (h : opOf w = 0x2b#7) : decodeScalar w =
    checked (w.extractLsb' 15 1 == 0 && w.extractLsb' 19 1 == 0) (.cmpiEq (fG w) (fQ w) (w.extractLsb' 16 3) (rA w) (fI10 w)) := by
  rw [decodeScalar, h]; rfl

theorem decodeScalar_0x2c {w : Lane} (h : opOf w = 0x2c#7) : decodeScalar w =
    checked (w.extractLsb' 15 1 == 0 && w.extractLsb' 19 1 == 0) (.cmpiNe (fG w) (fQ w) (w.extractLsb' 16 3) (rA w) (fI10 w)) := by
  rw [decodeScalar, h]; rfl

theorem decodeScalar_0x2d {w : Lane} (h : opOf w = 0x2d#7) : decodeScalar w =
    checked (w.extractLsb' 15 1 == 0 && w.extractLsb' 19 1 == 0) (.cmpiLt (fG w) (fQ w) (w.extractLsb' 16 3) (rA w) (fI10 w)) := by
  rw [decodeScalar, h]; rfl

theorem decodeScalar_0x2e {w : Lane} (h : opOf w = 0x2e#7) : decodeScalar w =
    checked (w.extractLsb' 15 1 == 0 && w.extractLsb' 19 1 == 0) (.cmpiLe (fG w) (fQ w) (w.extractLsb' 16 3) (rA w) (fI10 w)) := by
  rw [decodeScalar, h]; rfl

theorem decodeScalar_0x2f {w : Lane} (h : opOf w = 0x2f#7) : decodeScalar w =
    checked (w.extractLsb' 15 1 == 0 && w.extractLsb' 19 1 == 0) (.cmpiLtn (fG w) (fQ w) (w.extractLsb' 16 3) (rA w) (fI10 w)) := by
  rw [decodeScalar, h]; rfl

theorem decodeScalar_0x30 {w : Lane} (h : opOf w = 0x30#7) : decodeScalar w =
    checked (w.extractLsb' 15 1 == 0 && w.extractLsb' 19 1 == 0) (.cmpiLen (fG w) (fQ w) (w.extractLsb' 16 3) (rA w) (fI10 w)) := by
  rw [decodeScalar, h]; rfl

theorem decodeA_0x40 {w : Lane} (h : opOf w = 0x40#7) : decodeA w =
    checked (true) (.b (fG w) (fQ w) (fI20 w)) := by
  rw [decodeA, h]; rfl

theorem decodeA_0x41 {w : Lane} (h : opOf w = 0x41#7) : decodeA w =
    checked (rD w == 0 && rB w == 0 && fF w == 0) (.bi (fG w) (fQ w) (rA w)) := by
  rw [decodeA, h]; rfl

theorem decodeA_0x42 {w : Lane} (h : opOf w = 0x42#7) : decodeA w =
    checked (rD w == 0) (.jt (fG w) (fQ w) (rA w) (rB w) (fF w)) := by
  rw [decodeA, h]; rfl

theorem decodeA_0x43 {w : Lane} (h : opOf w = 0x43#7) : decodeA w =
    checked (true) (.call (fG w) (fQ w) (fI20 w)) := by
  rw [decodeA, h]; rfl

theorem decodeA_0x44 {w : Lane} (h : opOf w = 0x44#7) : decodeA w =
    checked (rD w == 0 && rB w == 0 && fF w == 0) (.calli (fG w) (fQ w) (rA w)) := by
  rw [decodeA, h]; rfl

theorem decodeA_0x45 {w : Lane} (h : opOf w = 0x45#7) : decodeA w =
    checked (w.extractLsb' 0 20 == 0) (.ret (fG w) (fQ w)) := by
  rw [decodeA, h]; rfl

theorem decodeA_0x47 {w : Lane} (h : opOf w = 0x47#7) : decodeA w =
    checked (w.extractLsb' 0 20 == 0) (.halt (fG w) (fQ w)) := by
  rw [decodeA, h]; rfl

theorem decodeA_0x49 {w : Lane} (h : opOf w = 0x49#7) : decodeA w =
    checked (w.extractLsb' 0 20 == 0) (.rett (fG w) (fQ w)) := by
  rw [decodeA, h]; rfl

theorem decodeA_0x46 {w : Lane} (h : opOf w = 0x46#7) : decodeA w =
    checked (!fQ w) (.loop (fG w) (rD w) (fI15 w)) := by
  rw [decodeA, h]; rfl

theorem decodeA_0x48 {w : Lane} (h : opOf w = 0x48#7) : decodeA w =
    checked (rD w == 0) (.trap (fG w) (fQ w) (fI15 w)) := by
  rw [decodeA, h]; rfl

theorem decodeB_0x40 {w : Lane} (h : opOf w = 0x40#7) : decodeB w =
    checked (w.extractLsb' 19 1 == 0 && w.extractLsb' 14 1 == 0 && w.extractLsb' 9 1 == 0 && fF w == 0) (.pand (fG w) (fQ w) (w.extractLsb' 15 4) (w.extractLsb' 10 4) (w.extractLsb' 5 4)) := by
  rw [decodeB, h]; rfl

theorem decodeB_0x41 {w : Lane} (h : opOf w = 0x41#7) : decodeB w =
    checked (w.extractLsb' 19 1 == 0 && w.extractLsb' 14 1 == 0 && w.extractLsb' 9 1 == 0 && fF w == 0) (.por (fG w) (fQ w) (w.extractLsb' 15 4) (w.extractLsb' 10 4) (w.extractLsb' 5 4)) := by
  rw [decodeB, h]; rfl

theorem decodeB_0x42 {w : Lane} (h : opOf w = 0x42#7) : decodeB w =
    checked (w.extractLsb' 19 1 == 0 && w.extractLsb' 14 1 == 0 && w.extractLsb' 9 1 == 0 && fF w == 0) (.pxor (fG w) (fQ w) (w.extractLsb' 15 4) (w.extractLsb' 10 4) (w.extractLsb' 5 4)) := by
  rw [decodeB, h]; rfl

theorem decodeB_0x43 {w : Lane} (h : opOf w = 0x43#7) : decodeB w =
    checked (w.extractLsb' 19 1 == 0 && w.extractLsb' 14 1 == 0 && rB w == 0 && fF w == 0) (.pmov (fG w) (fQ w) (w.extractLsb' 15 4) (w.extractLsb' 10 4)) := by
  rw [decodeB, h]; rfl

theorem decodeB_0x44 {w : Lane} (h : opOf w = 0x44#7) : decodeB w =
    checked (w.extractLsb' 5 10 == 0 && validSpecial (w.extractLsb' 0 5)) (.mfs (fG w) (fQ w) (rD w) (w.extractLsb' 0 5)) := by
  rw [decodeB, h]; rfl

theorem decodeB_0x45 {w : Lane} (h : opOf w = 0x45#7) : decodeB w =
    checked (w.extractLsb' 5 10 == 0 && validSpecial (w.extractLsb' 0 5)) (.mts (fG w) (fQ w) (rD w) (w.extractLsb' 0 5)) := by
  rw [decodeB, h]; rfl

theorem decodeM_0x0 {w : Lane} (h : opOf w = 0x0#7) : decodeM w =
    checked (w.extractLsb' 0 20 == 0) (.nop (fG w) (fQ w) none) := by
  rw [decodeM, h]; rfl

theorem decodeM_0x1 {w : Lane} (h : opOf w = 0x1#7) : decodeM w =
    checked (true) (.ldI8 (fG w) (fQ w) (rD w) (rA w) (fI10 w)) := by
  rw [decodeM, h]; rfl

theorem decodeM_0x2 {w : Lane} (h : opOf w = 0x2#7) : decodeM w =
    checked (true) (.ldN8 (fG w) (fQ w) (rD w) (rA w) (fI10 w)) := by
  rw [decodeM, h]; rfl

theorem decodeM_0x3 {w : Lane} (h : opOf w = 0x3#7) : decodeM w =
    checked (true) (.ldI16 (fG w) (fQ w) (rD w) (rA w) (fI10 w)) := by
  rw [decodeM, h]; rfl

theorem decodeM_0x4 {w : Lane} (h : opOf w = 0x4#7) : decodeM w =
    checked (true) (.ldN16 (fG w) (fQ w) (rD w) (rA w) (fI10 w)) := by
  rw [decodeM, h]; rfl

theorem decodeM_0x5 {w : Lane} (h : opOf w = 0x5#7) : decodeM w =
    checked (true) (.ldI32 (fG w) (fQ w) (rD w) (rA w) (fI10 w)) := by
  rw [decodeM, h]; rfl

theorem decodeM_0x6 {w : Lane} (h : opOf w = 0x6#7) : decodeM w =
    checked (true) (.ldN32 (fG w) (fQ w) (rD w) (rA w) (fI10 w)) := by
  rw [decodeM, h]; rfl

theorem decodeM_0x7 {w : Lane} (h : opOf w = 0x7#7) : decodeM w =
    checked (true) (.ld64 (fG w) (fQ w) (rD w) (rA w) (fI10 w)) := by
  rw [decodeM, h]; rfl

theorem decodeM_0x8 {w : Lane} (h : opOf w = 0x8#7) : decodeM w =
    checked (true) (.st8 (fG w) (fQ w) (rD w) (rA w) (fI10 w)) := by
  rw [decodeM, h]; rfl

theorem decodeM_0x9 {w : Lane} (h : opOf w = 0x9#7) : decodeM w =
    checked (true) (.st16 (fG w) (fQ w) (rD w) (rA w) (fI10 w)) := by
  rw [decodeM, h]; rfl

theorem decodeM_0xa {w : Lane} (h : opOf w = 0xa#7) : decodeM w =
    checked (true) (.st32 (fG w) (fQ w) (rD w) (rA w) (fI10 w)) := by
  rw [decodeM, h]; rfl

theorem decodeM_0xb {w : Lane} (h : opOf w = 0xb#7) : decodeM w =
    checked (true) (.st64 (fG w) (fQ w) (rD w) (rA w) (fI10 w)) := by
  rw [decodeM, h]; rfl

theorem decodeM_0x18 {w : Lane} (h : opOf w = 0x18#7) : decodeM w =
    checked (true) (.gld (fG w) (fQ w) (rD w) (rA w) (fI10 w)) := by
  rw [decodeM, h]; rfl

theorem decodeM_0x19 {w : Lane} (h : opOf w = 0x19#7) : decodeM w =
    checked (true) (.gst (fG w) (fQ w) (rD w) (rA w) (fI10 w)) := by
  rw [decodeM, h]; rfl

theorem decodeM_0x10 {w : Lane} (h : opOf w = 0x10#7) : decodeM w =
    checked (true) (.tld (fG w) (fQ w) (rD w) (w.extractLsb' 9 6) (w.extractLsb' 5 4) (w.extractLsb' 0 5)) := by
  rw [decodeM, h]; rfl

theorem decodeM_0x11 {w : Lane} (h : opOf w = 0x11#7) : decodeM w =
    checked (true) (.tst (fG w) (fQ w) (rD w) (w.extractLsb' 9 6) (w.extractLsb' 5 4) (w.extractLsb' 0 5)) := by
  rw [decodeM, h]; rfl

theorem decodeM_0x12 {w : Lane} (h : opOf w = 0x12#7) : decodeM w =
    checked (true) (.rst (fG w) (fQ w) (rD w) (w.extractLsb' 9 6) (w.extractLsb' 7 2) (w.extractLsb' 5 2) (w.extractLsb' 0 5)) := by
  rw [decodeM, h]; rfl

theorem decodeM_0x20 {w : Lane} (h : opOf w = 0x20#7) : decodeM w =
    checked (fF w == 0) (.aadd (fG w) (fQ w) (rD w) (rA w) (rB w)) := by
  rw [decodeM, h]; rfl

theorem decodeM_0x21 {w : Lane} (h : opOf w = 0x21#7) : decodeM w =
    checked (fF w == 0) (.amin (fG w) (fQ w) (rD w) (rA w) (rB w)) := by
  rw [decodeM, h]; rfl

theorem decodeM_0x22 {w : Lane} (h : opOf w = 0x22#7) : decodeM w =
    checked (fF w == 0) (.amax (fG w) (fQ w) (rD w) (rA w) (rB w)) := by
  rw [decodeM, h]; rfl

theorem decodeM_0x23 {w : Lane} (h : opOf w = 0x23#7) : decodeM w =
    checked (fF w == 0) (.aswp (fG w) (fQ w) (rD w) (rA w) (rB w)) := by
  rw [decodeM, h]; rfl

theorem decodeM_0x24 {w : Lane} (h : opOf w = 0x24#7) : decodeM w =
    checked (true) (.acas (fG w) (fQ w) (rD w) (rA w) (rB w) (fF w)) := by
  rw [decodeM, h]; rfl

theorem decodeM_0x25 {w : Lane} (h : opOf w = 0x25#7) : decodeM w =
    checked (rD w == 0 && fF w == 0) (.acadd (fG w) (fQ w) (rA w) (rB w)) := by
  rw [decodeM, h]; rfl

theorem decodeM_0x30 {w : Lane} (h : opOf w = 0x30#7) : decodeM w =
    checked (w.extractLsb' 0 20 == 0) (.drainCl (fG w) (fQ w)) := by
  rw [decodeM, h]; rfl

theorem decodeM_0x31 {w : Lane} (h : opOf w = 0x31#7) : decodeM w =
    checked (w.extractLsb' 0 20 == 0) (.drainDie (fG w) (fQ w)) := by
  rw [decodeM, h]; rfl

theorem decodeM_0x32 {w : Lane} (h : opOf w = 0x32#7) : decodeM w =
    checked (w.extractLsb' 0 20 == 0) (.drainDev (fG w) (fQ w)) := by
  rw [decodeM, h]; rfl

theorem decodeM_0x33 {w : Lane} (h : opOf w = 0x33#7) : decodeM w =
    checked (w.extractLsb' 0 20 == 0) (.drainSys (fG w) (fQ w)) := by
  rw [decodeM, h]; rfl

theorem decodeEPlain_0x0 {w : Lane} {x : Option Ext} (h : opOf w = 0x0#7) : decodeEPlain w x =
    checked (w.extractLsb' 0 20 == 0) (.nop (fG w) (fQ w) x) := by
  rw [decodeEPlain, h]; rfl

theorem decodeEPlain_0x1 {w : Lane} {x : Option Ext} (h : opOf w = 0x1#7) : decodeEPlain w x =
    checked (w.extractLsb' 0 20 == 0) (.tick (fG w) (fQ w) x) := by
  rw [decodeEPlain, h]; rfl

theorem decodeEPlain_0x10 {w : Lane} {x : Option Ext} (h : opOf w = 0x10#7) : decodeEPlain w x =
    checked (w.extractLsb' 0 20 == 0) (.gacq (fG w) (fQ w) x) := by
  rw [decodeEPlain, h]; rfl

theorem decodeEPlain_0x11 {w : Lane} {x : Option Ext} (h : opOf w = 0x11#7) : decodeEPlain w x =
    checked (w.extractLsb' 0 20 == 0) (.grel (fG w) (fQ w) x) := by
  rw [decodeEPlain, h]; rfl

theorem decodeEPlain_0x30 {w : Lane} {x : Option Ext} (h : opOf w = 0x30#7) : decodeEPlain w x =
    checked (w.extractLsb' 0 20 == 0) (.kwait (fG w) (fQ w) x) := by
  rw [decodeEPlain, h]; rfl

theorem decodeEPlain_0x38 {w : Lane} {x : Option Ext} (h : opOf w = 0x38#7) : decodeEPlain w x =
    checked (w.extractLsb' 0 20 == 0) (.trig (fG w) (fQ w) x) := by
  rw [decodeEPlain, h]; rfl

theorem decodeEPlain_0x40 {w : Lane} {x : Option Ext} (h : opOf w = 0x40#7) : decodeEPlain w x =
    checked (w.extractLsb' 0 20 == 0) (.arriveCl (fG w) (fQ w) x) := by
  rw [decodeEPlain, h]; rfl

theorem decodeEPlain_0x41 {w : Lane} {x : Option Ext} (h : opOf w = 0x41#7) : decodeEPlain w x =
    checked (w.extractLsb' 0 20 == 0) (.arriveDie (fG w) (fQ w) x) := by
  rw [decodeEPlain, h]; rfl

theorem decodeEPlain_0x42 {w : Lane} {x : Option Ext} (h : opOf w = 0x42#7) : decodeEPlain w x =
    checked (w.extractLsb' 0 20 == 0) (.arriveDev (fG w) (fQ w) x) := by
  rw [decodeEPlain, h]; rfl

theorem decodeEPlain_0x43 {w : Lane} {x : Option Ext} (h : opOf w = 0x43#7) : decodeEPlain w x =
    checked (w.extractLsb' 0 20 == 0) (.waitCl (fG w) (fQ w) x) := by
  rw [decodeEPlain, h]; rfl

theorem decodeEPlain_0x44 {w : Lane} {x : Option Ext} (h : opOf w = 0x44#7) : decodeEPlain w x =
    checked (w.extractLsb' 0 20 == 0) (.waitDie (fG w) (fQ w) x) := by
  rw [decodeEPlain, h]; rfl

theorem decodeEPlain_0x45 {w : Lane} {x : Option Ext} (h : opOf w = 0x45#7) : decodeEPlain w x =
    checked (w.extractLsb' 0 20 == 0) (.waitDev (fG w) (fQ w) x) := by
  rw [decodeEPlain, h]; rfl

theorem decodeEPlain_0x46 {w : Lane} {x : Option Ext} (h : opOf w = 0x46#7) : decodeEPlain w x =
    checked (w.extractLsb' 0 20 == 0) (.sync (fG w) (fQ w) x) := by
  rw [decodeEPlain, h]; rfl

theorem decodeEPlain_0x2 {w : Lane} {x : Option Ext} (h : opOf w = 0x2#7) : decodeEPlain w x =
    checked (rD w == 0 && w.extractLsb' 6 9 == 0 && decide (1 ≤ (w.extractLsb' 0 6).toNat) && decide ((w.extractLsb' 0 6).toNat ≤ 32)) (.spec (fG w) (fQ w) (w.extractLsb' 0 6) x) := by
  rw [decodeEPlain, h]; rfl

theorem decodeEPlain_0x3 {w : Lane} {x : Option Ext} (h : opOf w = 0x3#7) : decodeEPlain w x =
    checked (true) (.commit (fG w) (fQ w) (rD w) (fI15 w) x) := by
  rw [decodeEPlain, h]; rfl

theorem decodeEPlain_0x4 {w : Lane} {x : Option Ext} (h : opOf w = 0x4#7) : decodeEPlain w x =
    checked (rD w == 0 && w.extractLsb' 0 9 == 0) (.sclr (fG w) (fQ w) (w.extractLsb' 9 6) x) := by
  rw [decodeEPlain, h]; rfl

theorem decodeEPlain_0x5 {w : Lane} {x : Option Ext} (h : opOf w = 0x5#7) : decodeEPlain w x =
    checked (w.extractLsb' 0 9 == 0) (.sstat (fG w) (fQ w) (rD w) (w.extractLsb' 9 6) x) := by
  rw [decodeEPlain, h]; rfl

theorem decodeEPlain_0x6 {w : Lane} {x : Option Ext} (h : opOf w = 0x6#7) : decodeEPlain w x =
    .ok (.ckpt (fG w) { d := rD w, q := fQ w, i := fI15 w } x) := by
  rw [decodeEPlain, h]; rfl

theorem decodeEPlain_0x12 {w : Lane} {x : Option Ext} (h : opOf w = 0x12#7) : decodeEPlain w x =
    checked (rD w == 0) (.gcfg (fG w) (fQ w) (fI15 w) x) := by
  rw [decodeEPlain, h]; rfl

theorem decodeEPlain_0x13 {w : Lane} {x : Option Ext} (h : opOf w = 0x13#7) : decodeEPlain w x =
    checked (rD w == 0 && rB w == 0 && fF w == 0) (.grun (fG w) (fQ w) (rA w) x) := by
  rw [decodeEPlain, h]; rfl

theorem decodeEPlain_0x14 {w : Lane} {x : Option Ext} (h : opOf w = 0x14#7) : decodeEPlain w x =
    checked (rB w == 0 && w.extractLsb' 3 2 == 0 && decide ((w.extractLsb' 0 3).toNat ≤ 4)) (.gset (fG w) (fQ w) (rD w) (rA w) (w.extractLsb' 0 3) x) := by
  rw [decodeEPlain, h]; rfl

theorem decodeEPlain_0x18 {w : Lane} {x : Option Ext} (h : opOf w = 0x18#7) : decodeEPlain w x =
    checked (rD w == 0 && w.extractLsb' 5 10 == 0) (.mxload (fG w) (fQ w) (w.extractLsb' 0 5) x) := by
  rw [decodeEPlain, h]; rfl

theorem decodeEPlain_0x1a {w : Lane} {x : Option Ext} (h : opOf w = 0x1a#7) : decodeEPlain w x =
    checked (rD w == 0 && w.extractLsb' 5 10 == 0) (.mxcall (fG w) (fQ w) (w.extractLsb' 0 5) x) := by
  rw [decodeEPlain, h]; rfl

theorem decodeEPlain_0x19 {w : Lane} {x : Option Ext} (h : opOf w = 0x19#7) : decodeEPlain w x =
    checked (rD w == 0 && rB w == 0 && w.extractLsb' 3 2 == 0) (.mxp (fG w) (fQ w) (w.extractLsb' 0 3) (rA w) x) := by
  rw [decodeEPlain, h]; rfl

theorem decodeEPlain_0x26 {w : Lane} {x : Option Ext} (h : opOf w = 0x26#7) : decodeEPlain w x =
    checked (rD w == 0 && rB w == 0) (.spos (fG w) (fQ w) (fF w) (rA w) x) := by
  rw [decodeEPlain, h]; rfl

theorem decodeEPlain_0x28 {w : Lane} {x : Option Ext} (h : opOf w = 0x28#7) : decodeEPlain w x =
    checked (w.extractLsb' 18 2 == 0 && rB w == 0 && w.extractLsb' 4 1 == 0 && decide ((w.extractLsb' 0 4).toNat ≤ 11)) (.dset (fG w) (fQ w) (w.extractLsb' 15 3) (w.extractLsb' 0 4) (rA w) x) := by
  rw [decodeEPlain, h]; rfl

theorem decodeEPlain_0x29 {w : Lane} {x : Option Ext} (h : opOf w = 0x29#7) : decodeEPlain w x =
    checked (w.extractLsb' 13 2 == 0 && rB w == 0 && w.extractLsb' 4 1 == 0 && decide ((w.extractLsb' 0 4).toNat ≤ 11)) (.dget (fG w) (fQ w) (rD w) (w.extractLsb' 10 3) (w.extractLsb' 0 4) x) := by
  rw [decodeEPlain, h]; rfl

theorem decodeEPlain_0x2a {w : Lane} {x : Option Ext} (h : opOf w = 0x2a#7) : decodeEPlain w x =
    checked (w.extractLsb' 18 2 == 0 && fI15 w == 0) (.dclr (fG w) (fQ w) (w.extractLsb' 15 3) x) := by
  rw [decodeEPlain, h]; rfl

theorem decodeEPlain_0x31 {w : Lane} {x : Option Ext} (h : opOf w = 0x31#7) : decodeEPlain w x =
    checked (fI15 w == 0) (.kpoll (fG w) (fQ w) (rD w) x) := by
  rw [decodeEPlain, h]; rfl

theorem decodeEPlain_0x39 {w : Lane} {x : Option Ext} (h : opOf w = 0x39#7) : decodeEPlain w x =
    checked (rD w == 0 && fF w == 0) (.launch (fG w) (fQ w) (rA w) (rB w) x) := by
  rw [decodeEPlain, h]; rfl

theorem decodeStream_0x20 {w x : Lane} (h : opOf w = 0x20#7) : decodeStream w x =
    if fF w == 0 then checked (w.extractLsb' 18 2 == 0 && rB w == 0 && fF w == 0 && x.extractLsb' 15 1 == 0 && decide ((x.extractLsb' 0 7).toNat ≤ 64)) (.sload (fG w) (fQ w) (x.extractLsb' 13 2) (x.extractLsb' 7 6) (x.extractLsb' 0 7) (w.extractLsb' 15 3) (rA w) (tokensOf x))
    else checked (w.extractLsb' 18 2 == 0 && fF w == 1 && x.extractLsb' 15 1 == 0 && x.extractLsb' 0 13 == 0) (.sloadPl (fG w) (fQ w) (x.extractLsb' 13 2) (w.extractLsb' 15 3) (rA w) (rB w) (tokensOf x)) := by
  rw [decodeStream, h]; rfl

theorem decodeStream_0x21 {w x : Lane} (h : opOf w = 0x21#7) : decodeStream w x =
    checked (w.extractLsb' 18 2 == 0 && rB w == 0 && fF w == 0 && x.extractLsb' 14 2 == 2) (.sstore (fG w) (fQ w) (x.extractLsb' 13 1) (x.extractLsb' 7 6) (x.extractLsb' 0 7) (w.extractLsb' 15 3) (rA w) (tokensOf x)) := by
  rw [decodeStream, h]; rfl

theorem decodeStream_0x22 {w x : Lane} (h : opOf w = 0x22#7) : decodeStream w x =
    checked (w.extractLsb' 18 2 == 0 && w.extractLsb' 3 2 == 0 && decide ((x.extractLsb' 13 3).toNat < 6) && x.extractLsb' 0 13 == 0) (.scopy (fG w) (fQ w) (x.extractLsb' 13 3) (w.extractLsb' 15 3) (w.extractLsb' 0 3) (rA w) (rB w) (tokensOf x)) := by
  rw [decodeStream, h]; rfl

theorem decodeStream_0x23 {w x : Lane} (h : opOf w = 0x23#7) : decodeStream w x =
    checked (w.extractLsb' 18 2 == 0 && w.extractLsb' 0 3 == 0 && decide ((w.extractLsb' 3 2).toNat ≤ 2) && x.extractLsb' 15 1 == 0 && decide ((x.extractLsb' 0 7).toNat ≤ 64)) (.sgather (fG w) (fQ w) (x.extractLsb' 13 2) (x.extractLsb' 7 6) (x.extractLsb' 0 7) (w.extractLsb' 15 3) (rA w) (rB w) (w.extractLsb' 3 2) (tokensOf x)) := by
  rw [decodeStream, h]; rfl

theorem decodeStream_0x24 {w x : Lane} (h : opOf w = 0x24#7) : decodeStream w x =
    checked (w.extractLsb' 19 1 == 0 && decide ((w.extractLsb' 0 2).toNat ≤ 2) && decide ((w.extractLsb' 3 2).toNat ≤ 2) && x.extractLsb' 15 1 == 0 && decide ((x.extractLsb' 0 7).toNat ≤ 64)) (.sreduce (fG w) (fQ w) (w.extractLsb' 18 1 == 1) (x.extractLsb' 13 2) (x.extractLsb' 7 6) (x.extractLsb' 0 7) (w.extractLsb' 15 3) (rA w) (rB w) (w.extractLsb' 0 2) (w.extractLsb' 2 1 == 1) (w.extractLsb' 3 2) (tokensOf x)) := by
  rw [decodeStream, h]; rfl

theorem decodeStream_0x25 {w x : Lane} (h : opOf w = 0x25#7) : decodeStream w x =
    checked (w.extractLsb' 18 2 == 0 && w.extractLsb' 0 3 == 0 && decide ((w.extractLsb' 3 2).toNat ≤ 2) && x.extractLsb' 14 2 == 2) (.sscatter (fG w) (fQ w) (x.extractLsb' 13 1) (x.extractLsb' 7 6) (x.extractLsb' 0 7) (w.extractLsb' 15 3) (rA w) (rB w) (w.extractLsb' 3 2) (tokensOf x)) := by
  rw [decodeStream, h]; rfl

theorem decodeMicro_0x0 {w : Lane} (h : w.extractLsb' 28 4 = 0x0#4) : decodeMicro w =
    checked (w.extractLsb' 0 28 == 0) .mEnd := by
  rw [decodeMicro, h]; rfl

theorem decodeMicro_0x1 {w : Lane} (h : w.extractLsb' 28 4 = 0x1#4) : decodeMicro w =
    checked (w.extractLsb' 2 26 == 0) (.fmt (w.extractLsb' 0 2)) := by
  rw [decodeMicro, h]; rfl

theorem decodeMicro_0x2 {w : Lane} (h : w.extractLsb' 28 4 = 0x2#4) : decodeMicro w =
    checked (w.extractLsb' 1 27 == 0) (.bindA (w.extractLsb' 0 1 == 1)) := by
  rw [decodeMicro, h]; rfl

theorem decodeMicro_0x3 {w : Lane} (h : w.extractLsb' 28 4 = 0x3#4) : decodeMicro w =
    checked (w.extractLsb' 27 1 == 0 && w.extractLsb' 1 23 == 0) (.bindB (w.extractLsb' 24 3) (w.extractLsb' 0 1 == 1)) := by
  rw [decodeMicro, h]; rfl

theorem decodeMicro_0x4 {w : Lane} (h : w.extractLsb' 28 4 = 0x4#4) : decodeMicro w =
    checked (w.extractLsb' 27 1 == 0 && w.extractLsb' 1 23 == 0) (.bindAcc (w.extractLsb' 24 3) (w.extractLsb' 0 1 == 1)) := by
  rw [decodeMicro, h]; rfl

theorem decodeMicro_0x5 {w : Lane} (h : w.extractLsb' 28 4 = 0x5#4) : decodeMicro w =
    checked (w.extractLsb' 27 1 == 0 && w.extractLsb' 0 24 == 0) (.scl (w.extractLsb' 24 3)) := by
  rw [decodeMicro, h]; rfl

theorem decodeMicro_0x6 {w : Lane} (h : w.extractLsb' 28 4 = 0x6#4) : decodeMicro w =
    if w.extractLsb' 27 1 == 0 then
    checked (w.extractLsb' 12 15 == 0 && w.extractLsb' 0 12 != 0) (.pass (w.extractLsb' 0 12))
    else checked (w.extractLsb' 0 24 == 0) (.passParam (w.extractLsb' 24 3)) := by
  rw [decodeMicro, h]; rfl

theorem decodeMicro_0x7 {w : Lane} (h : w.extractLsb' 28 4 = 0x7#4) : decodeMicro w =
    if w.extractLsb' 27 1 == 0 then
    checked (w.extractLsb' 12 15 == 0 && w.extractLsb' 0 12 != 0) (.lp (w.extractLsb' 0 12))
    else checked (w.extractLsb' 0 24 == 0) (.lpParam (w.extractLsb' 24 3)) := by
  rw [decodeMicro, h]; rfl

theorem decodeMicro_0x8 {w : Lane} (h : w.extractLsb' 28 4 = 0x8#4) : decodeMicro w =
    checked (w.extractLsb' 0 28 == 0) .el := by
  rw [decodeMicro, h]; rfl

theorem decodeMicro_0x9 {w : Lane} (h : w.extractLsb' 28 4 = 0x9#4) : decodeMicro w =
    checked (w.extractLsb' 27 1 == 0 && w.extractLsb' 16 8 == 0) (.padd (w.extractLsb' 24 3) (w.extractLsb' 0 16)) := by
  rw [decodeMicro, h]; rfl

theorem decodeMicro_0xA {w : Lane} (h : w.extractLsb' 28 4 = 0xA#4) : decodeMicro w =
    checked (w.extractLsb' 10 18 == 0) (.zacc (w.extractLsb' 0 10)) := by
  rw [decodeMicro, h]; rfl

theorem decodeMicro_0xB {w : Lane} (h : w.extractLsb' 28 4 = 0xB#4) : decodeMicro w =
    checked (w.extractLsb' 26 2 == 0) (.anch (w.extractLsb' 16 10) (w.extractLsb' 0 16)) := by
  rw [decodeMicro, h]; rfl

theorem decodeMicro_0xC {w : Lane} (h : w.extractLsb' 28 4 = 0xC#4) : decodeMicro w =
    checked (w.extractLsb' 0 28 == 0) .tok := by
  rw [decodeMicro, h]; rfl

theorem decodeMicro_0xD {w : Lane} (h : w.extractLsb' 28 4 = 0xD#4) : decodeMicro w =
    checked (w.extractLsb' 4 24 == 0 && w.extractLsb' 0 4 != 0) (.wt (w.extractLsb' 0 4)) := by
  rw [decodeMicro, h]; rfl

theorem decodeA_scalar (w : Lane) (h : (opOf w).toNat < 0x40) : decodeA w = decodeScalar w := by
  rw [decodeA]; split <;> simp_all

theorem decodeB_scalar (w : Lane) (h : (opOf w).toNat < 0x40) : decodeB w = decodeScalar w := by
  rw [decodeB]; split <;> simp_all

@[simp] theorem tokensOf_packExt (x : Tokens) (e : BitVec 16) : tokensOf (packExt x e) = x := by
  have field (s : Nat) (v : BitVec 4) (h : (packExt x e).toNat / 2 ^ s % 16 = v.toNat) :
      (packExt x e).extractLsb' s 4 = v :=
    BitVec.eq_of_toNat_eq (by rw [BitVec.extractLsb'_toNat, Nat.shiftRight_eq_div_pow]; exact h)
  have h0 := x.kp.isLt
  have h1 := x.kc0.isLt
  have h2 := x.kc1.isLt
  have h3 := x.kc2.isLt
  have h4 := e.isLt
  simp only [tokensOf]
  rw [field 28 x.kp, field 24 x.kc0, field 20 x.kc1, field 16 x.kc2] <;>
    simp only [packExt, append_toNat] <;> omega

@[simp] theorem ofBool_eq_one (b : Bool) : (BitVec.ofBool b == 1#1) = b := by cases b <;> rfl

/-! ### Every constructor -/

namespace Laws.Encoding

/-- The words of an instruction decode to it: a slot word, with its extension word, in every class whose table holds the
instruction, and a micro-word as a micro-operation; an event has no words and no class. -/
def roundTrip (i : Instr) : Prop :=
  match encode i with
  | [] => i.classes = [] ∧ i.isMicro = false
  | w :: ws =>
    (i.classes ≠ [] ∨ i.isMicro = true) ∧ (∀ c ∈ i.classes, decodeSlot c w ws.head? = .ok i)
      ∧ (i.isMicro = true → decodeMicro w = .ok i)

/-- A well-formed instruction's words decode to it. -/
def Statement (i : Instr) : Prop := i.wf = true → roundTrip i

theorem roundTrip_event {i : Instr} (he : encode i = []) (hc : i.classes = []) (hm : i.isMicro = false) : roundTrip i := by
  rw [roundTrip, he]; exact ⟨hc, hm⟩

theorem roundTrip_micro {i : Instr} {w : Lane} (he : encode i = [w]) (hc : i.classes = []) (hm : i.isMicro = true)
    (h : decodeMicro w = .ok i) : roundTrip i := by
  rw [roundTrip, he]; simp [hc, hm, h]

theorem roundTrip_slot {i : Instr} {w : Lane} {ws : List Lane} {c : SlotClass} {cs : List SlotClass}
    (he : encode i = w :: ws) (hc : i.classes = c :: cs) (hm : i.isMicro = false)
    (h : ∀ d ∈ c :: cs, decodeSlot d w ws.head? = .ok i) : roundTrip i := by
  rw [roundTrip, he]; simp only [hc, hm]; exact ⟨by simp, h, by simp⟩

theorem wf_mfs {g : Pred} {q : Bool} {d : Reg} {n : BitVec 5}
    (h : Instr.wf (.mfs g q d n) = true) : validSpecial n = true := by
  have h : (validSpecial n) = true := h
  simpa [and_assoc] using h

theorem wf_mts {g : Pred} {q : Bool} {d : Reg} {n : BitVec 5}
    (h : Instr.wf (.mts g q d n) = true) : validSpecial n = true := by
  have h : (validSpecial n) = true := h
  simpa [and_assoc] using h

theorem wf_spec {g : Pred} {q : Bool} {n : BitVec 6} {x : Option Ext}
    (h : Instr.wf (.spec g q n x) = true) : 1 ≤ n.toNat ∧ n.toNat ≤ 32 := by
  have h : (decide (1 ≤ n.toNat) && decide (n.toNat ≤ 32)) = true := h
  simpa [and_assoc] using h

theorem wf_gset {g : Pred} {q : Bool} {t : BitVec 5} {a : Reg} {f : BitVec 3} {x : Option Ext}
    (h : Instr.wf (.gset g q t a f x) = true) : f.toNat ≤ 4 := by
  have h : (decide (f.toNat ≤ 4)) = true := h
  simpa [and_assoc] using h

theorem wf_dset {g : Pred} {q : Bool} {k : DescNum} {w : BitVec 4} {a : Reg} {x : Option Ext}
    (h : Instr.wf (.dset g q k w a x) = true) : w.toNat ≤ 11 := by
  have h : (decide (w.toNat ≤ 11)) = true := h
  simpa [and_assoc] using h

theorem wf_dget {g : Pred} {q : Bool} {d : Reg} {k : DescNum} {w : BitVec 4} {x : Option Ext}
    (h : Instr.wf (.dget g q d k w x) = true) : w.toNat ≤ 11 := by
  have h : (decide (w.toNat ≤ 11)) = true := h
  simpa [and_assoc] using h

theorem wf_sload {g : Pred} {q : Bool} {e : BitVec 2} {n : SigNum} {pos : BitVec 7} {k : DescNum} {a : Reg} {x : Tokens}
    (h : Instr.wf (.sload g q e n pos k a x) = true) : pos.toNat ≤ 64 := by
  have h : (decide (pos.toNat ≤ 64)) = true := h
  simpa [and_assoc] using h

theorem wf_scopy {g : Pred} {q : Bool} {e : BitVec 3} {k j : DescNum} {a b : Reg} {x : Tokens}
    (h : Instr.wf (.scopy g q e k j a b x) = true) : e.toNat < 6 := by
  have h : (decide (e.toNat < 6)) = true := h
  simpa [and_assoc] using h

theorem wf_sgather {g : Pred} {q : Bool} {e : BitVec 2} {n : SigNum} {pos : BitVec 7} {k : DescNum} {a b : Reg} {oor : BitVec 2} {x : Tokens}
    (h : Instr.wf (.sgather g q e n pos k a b oor x) = true) : pos.toNat ≤ 64 ∧ oor.toNat ≤ 2 := by
  have h : (decide (pos.toNat ≤ 64) && decide (oor.toNat ≤ 2)) = true := h
  simpa [and_assoc] using h

theorem wf_sreduce {g : Pred} {q w : Bool} {e : BitVec 2} {n : SigNum} {pos : BitVec 7} {k : DescNum} {a b : Reg} {red : BitVec 2} {dis : Bool} {oor : BitVec 2} {x : Tokens}
    (h : Instr.wf (.sreduce g q w e n pos k a b red dis oor x) = true) : pos.toNat ≤ 64 ∧ red.toNat ≤ 2 ∧ oor.toNat ≤ 2 := by
  have h : (decide (pos.toNat ≤ 64) && decide (red.toNat ≤ 2) && decide (oor.toNat ≤ 2)) = true := h
  simpa [and_assoc] using h

theorem wf_sscatter {g : Pred} {q : Bool} {e : BitVec 1} {n : SigNum} {off : BitVec 7} {k : DescNum} {a b : Reg} {oor : BitVec 2} {x : Tokens}
    (h : Instr.wf (.sscatter g q e n off k a b oor x) = true) : oor.toNat ≤ 2 := by
  have h : (decide (oor.toNat ≤ 2)) = true := h
  simpa [and_assoc] using h

theorem wf_pass {c : BitVec 12}
    (h : Instr.wf (.pass c) = true) : c ≠ 0#12 := by
  have h : (c != 0) = true := h
  simpa [and_assoc] using h

theorem wf_lp {c : BitVec 12}
    (h : Instr.wf (.lp c) = true) : c ≠ 0#12 := by
  have h : (c != 0) = true := h
  simpa [and_assoc] using h

theorem wf_wt {k : BitVec 4}
    (h : Instr.wf (.wt k) = true) : k ≠ 0#4 := by
  have h : (k != 0) = true := h
  simpa [and_assoc] using h

theorem nop (g : Pred) (q : Bool) (x : Option Ext) : Statement (.nop g q x) := by
  cases x <;> exact fun _ => roundTrip_slot rfl rfl rfl (by simp [checked, encodeExt, decodeSlot, decodeA_scalar, decodeB_scalar, decodeE, isStreamOp, decodeScalar_0x0, decodeM_0x0, decodeEPlain_0x0])

theorem add (g : Pred) (q : Bool) (d a b : Reg) : Statement (.add g q d a b) :=
  fun _ => roundTrip_slot rfl rfl rfl (by simp [checked, decodeSlot, decodeA_scalar, decodeB_scalar, decodeScalar_0x1])

theorem sub (g : Pred) (q : Bool) (d a b : Reg) : Statement (.sub g q d a b) :=
  fun _ => roundTrip_slot rfl rfl rfl (by simp [checked, decodeSlot, decodeA_scalar, decodeB_scalar, decodeScalar_0x2])

theorem addi (g : Pred) (q : Bool) (d a : Reg) (i : BitVec 10) : Statement (.addi g q d a i) :=
  fun _ => roundTrip_slot rfl rfl rfl (by simp [checked, decodeSlot, decodeA_scalar, decodeB_scalar, decodeScalar_0x3])

theorem mul (g : Pred) (q : Bool) (d a b : Reg) : Statement (.mul g q d a b) :=
  fun _ => roundTrip_slot rfl rfl rfl (by simp [checked, decodeSlot, decodeA_scalar, decodeB_scalar, decodeScalar_0x4])

theorem mulh (g : Pred) (q : Bool) (d a b : Reg) : Statement (.mulh g q d a b) :=
  fun _ => roundTrip_slot rfl rfl rfl (by simp [checked, decodeSlot, decodeA_scalar, decodeB_scalar, decodeScalar_0x5])

theorem mulhn (g : Pred) (q : Bool) (d a b : Reg) : Statement (.mulhn g q d a b) :=
  fun _ => roundTrip_slot rfl rfl rfl (by simp [checked, decodeSlot, decodeA_scalar, decodeB_scalar, decodeScalar_0x6])

theorem div (g : Pred) (q : Bool) (d a b : Reg) : Statement (.div g q d a b) :=
  fun _ => roundTrip_slot rfl rfl rfl (by simp [checked, decodeSlot, decodeA_scalar, decodeB_scalar, decodeScalar_0x7])

theorem divn (g : Pred) (q : Bool) (d a b : Reg) : Statement (.divn g q d a b) :=
  fun _ => roundTrip_slot rfl rfl rfl (by simp [checked, decodeSlot, decodeA_scalar, decodeB_scalar, decodeScalar_0x8])

theorem rem (g : Pred) (q : Bool) (d a b : Reg) : Statement (.rem g q d a b) :=
  fun _ => roundTrip_slot rfl rfl rfl (by simp [checked, decodeSlot, decodeA_scalar, decodeB_scalar, decodeScalar_0x9])

theorem remn (g : Pred) (q : Bool) (d a b : Reg) : Statement (.remn g q d a b) :=
  fun _ => roundTrip_slot rfl rfl rfl (by simp [checked, decodeSlot, decodeA_scalar, decodeB_scalar, decodeScalar_0xa])

theorem min (g : Pred) (q : Bool) (d a b : Reg) : Statement (.min g q d a b) :=
  fun _ => roundTrip_slot rfl rfl rfl (by simp [checked, decodeSlot, decodeA_scalar, decodeB_scalar, decodeScalar_0xb])

theorem max (g : Pred) (q : Bool) (d a b : Reg) : Statement (.max g q d a b) :=
  fun _ => roundTrip_slot rfl rfl rfl (by simp [checked, decodeSlot, decodeA_scalar, decodeB_scalar, decodeScalar_0xc])

theorem minn (g : Pred) (q : Bool) (d a b : Reg) : Statement (.minn g q d a b) :=
  fun _ => roundTrip_slot rfl rfl rfl (by simp [checked, decodeSlot, decodeA_scalar, decodeB_scalar, decodeScalar_0xd])

theorem maxn (g : Pred) (q : Bool) (d a b : Reg) : Statement (.maxn g q d a b) :=
  fun _ => roundTrip_slot rfl rfl rfl (by simp [checked, decodeSlot, decodeA_scalar, decodeB_scalar, decodeScalar_0xe])

theorem and (g : Pred) (q : Bool) (d a b : Reg) : Statement (.and g q d a b) :=
  fun _ => roundTrip_slot rfl rfl rfl (by simp [checked, decodeSlot, decodeA_scalar, decodeB_scalar, decodeScalar_0xf])

theorem or (g : Pred) (q : Bool) (d a b : Reg) : Statement (.or g q d a b) :=
  fun _ => roundTrip_slot rfl rfl rfl (by simp [checked, decodeSlot, decodeA_scalar, decodeB_scalar, decodeScalar_0x10])

theorem xor (g : Pred) (q : Bool) (d a b : Reg) : Statement (.xor g q d a b) :=
  fun _ => roundTrip_slot rfl rfl rfl (by simp [checked, decodeSlot, decodeA_scalar, decodeB_scalar, decodeScalar_0x11])

theorem andn (g : Pred) (q : Bool) (d a b : Reg) : Statement (.andn g q d a b) :=
  fun _ => roundTrip_slot rfl rfl rfl (by simp [checked, decodeSlot, decodeA_scalar, decodeB_scalar, decodeScalar_0x12])

theorem shl (g : Pred) (q : Bool) (d a b : Reg) : Statement (.shl g q d a b) :=
  fun _ => roundTrip_slot rfl rfl rfl (by simp [checked, decodeSlot, decodeA_scalar, decodeB_scalar, decodeScalar_0x13])

theorem shr (g : Pred) (q : Bool) (d a b : Reg) : Statement (.shr g q d a b) :=
  fun _ => roundTrip_slot rfl rfl rfl (by simp [checked, decodeSlot, decodeA_scalar, decodeB_scalar, decodeScalar_0x14])

theorem sra (g : Pred) (q : Bool) (d a b : Reg) : Statement (.sra g q d a b) :=
  fun _ => roundTrip_slot rfl rfl rfl (by simp [checked, decodeSlot, decodeA_scalar, decodeB_scalar, decodeScalar_0x15])

theorem shli (g : Pred) (q : Bool) (d a : Reg) (i : BitVec 6) : Statement (.shli g q d a i) :=
  fun _ => roundTrip_slot rfl rfl rfl (by simp [checked, decodeSlot, decodeA_scalar, decodeB_scalar, decodeScalar_0x16])

theorem shri (g : Pred) (q : Bool) (d a : Reg) (i : BitVec 6) : Statement (.shri g q d a i) :=
  fun _ => roundTrip_slot rfl rfl rfl (by simp [checked, decodeSlot, decodeA_scalar, decodeB_scalar, decodeScalar_0x17])

theorem srai (g : Pred) (q : Bool) (d a : Reg) (i : BitVec 6) : Statement (.srai g q d a i) :=
  fun _ => roundTrip_slot rfl rfl rfl (by simp [checked, decodeSlot, decodeA_scalar, decodeB_scalar, decodeScalar_0x18])

theorem movi (g : Pred) (q : Bool) (d : Reg) (i : BitVec 15) : Statement (.movi g q d i) :=
  fun _ => roundTrip_slot rfl rfl rfl (by simp [checked, decodeSlot, decodeA_scalar, decodeB_scalar, decodeScalar_0x19])

theorem lhi (g : Pred) (q : Bool) (d : Reg) (i : BitVec 15) : Statement (.lhi g q d i) :=
  fun _ => roundTrip_slot rfl rfl rfl (by simp [checked, decodeSlot, decodeA_scalar, decodeB_scalar, decodeScalar_0x1a])

theorem sxI8 (g : Pred) (q : Bool) (d a : Reg) : Statement (.sxI8 g q d a) :=
  fun _ => roundTrip_slot rfl rfl rfl (by simp [checked, decodeSlot, decodeA_scalar, decodeB_scalar, decodeScalar_0x1b])

theorem sxI16 (g : Pred) (q : Bool) (d a : Reg) : Statement (.sxI16 g q d a) :=
  fun _ => roundTrip_slot rfl rfl rfl (by simp [checked, decodeSlot, decodeA_scalar, decodeB_scalar, decodeScalar_0x1c])

theorem sxI32 (g : Pred) (q : Bool) (d a : Reg) : Statement (.sxI32 g q d a) :=
  fun _ => roundTrip_slot rfl rfl rfl (by simp [checked, decodeSlot, decodeA_scalar, decodeB_scalar, decodeScalar_0x1d])

theorem zxN8 (g : Pred) (q : Bool) (d a : Reg) : Statement (.zxN8 g q d a) :=
  fun _ => roundTrip_slot rfl rfl rfl (by simp [checked, decodeSlot, decodeA_scalar, decodeB_scalar, decodeScalar_0x1e])

theorem zxN16 (g : Pred) (q : Bool) (d a : Reg) : Statement (.zxN16 g q d a) :=
  fun _ => roundTrip_slot rfl rfl rfl (by simp [checked, decodeSlot, decodeA_scalar, decodeB_scalar, decodeScalar_0x1f])

theorem zxN32 (g : Pred) (q : Bool) (d a : Reg) : Statement (.zxN32 g q d a) :=
  fun _ => roundTrip_slot rfl rfl rfl (by simp [checked, decodeSlot, decodeA_scalar, decodeB_scalar, decodeScalar_0x20])

theorem clz (g : Pred) (q : Bool) (d a : Reg) : Statement (.clz g q d a) :=
  fun _ => roundTrip_slot rfl rfl rfl (by simp [checked, decodeSlot, decodeA_scalar, decodeB_scalar, decodeScalar_0x21])

theorem ctz (g : Pred) (q : Bool) (d a : Reg) : Statement (.ctz g q d a) :=
  fun _ => roundTrip_slot rfl rfl rfl (by simp [checked, decodeSlot, decodeA_scalar, decodeB_scalar, decodeScalar_0x22])

theorem popc (g : Pred) (q : Bool) (d a : Reg) : Statement (.popc g q d a) :=
  fun _ => roundTrip_slot rfl rfl rfl (by simp [checked, decodeSlot, decodeA_scalar, decodeB_scalar, decodeScalar_0x23])

theorem sel (g : Pred) (q : Bool) (d a b : Reg) (f : Pred) : Statement (.sel g q d a b f) :=
  fun _ => roundTrip_slot rfl rfl rfl (by simp [checked, decodeSlot, decodeA_scalar, decodeB_scalar, decodeScalar_0x24])

theorem cmpEq (g : Pred) (q : Bool) (pd : PredPair) (a b : Reg) : Statement (.cmpEq g q pd a b) :=
  fun _ => roundTrip_slot rfl rfl rfl (by simp [checked, decodeSlot, decodeA_scalar, decodeB_scalar, decodeScalar_0x25])

theorem cmpNe (g : Pred) (q : Bool) (pd : PredPair) (a b : Reg) : Statement (.cmpNe g q pd a b) :=
  fun _ => roundTrip_slot rfl rfl rfl (by simp [checked, decodeSlot, decodeA_scalar, decodeB_scalar, decodeScalar_0x26])

theorem cmpLt (g : Pred) (q : Bool) (pd : PredPair) (a b : Reg) : Statement (.cmpLt g q pd a b) :=
  fun _ => roundTrip_slot rfl rfl rfl (by simp [checked, decodeSlot, decodeA_scalar, decodeB_scalar, decodeScalar_0x27])

theorem cmpLe (g : Pred) (q : Bool) (pd : PredPair) (a b : Reg) : Statement (.cmpLe g q pd a b) :=
  fun _ => roundTrip_slot rfl rfl rfl (by simp [checked, decodeSlot, decodeA_scalar, decodeB_scalar, decodeScalar_0x28])

theorem cmpLtn (g : Pred) (q : Bool) (pd : PredPair) (a b : Reg) : Statement (.cmpLtn g q pd a b) :=
  fun _ => roundTrip_slot rfl rfl rfl (by simp [checked, decodeSlot, decodeA_scalar, decodeB_scalar, decodeScalar_0x29])

theorem cmpLen (g : Pred) (q : Bool) (pd : PredPair) (a b : Reg) : Statement (.cmpLen g q pd a b) :=
  fun _ => roundTrip_slot rfl rfl rfl (by simp [checked, decodeSlot, decodeA_scalar, decodeB_scalar, decodeScalar_0x2a])

theorem cmpiEq (g : Pred) (q : Bool) (pd : PredPair) (a : Reg) (i : BitVec 10) : Statement (.cmpiEq g q pd a i) :=
  fun _ => roundTrip_slot rfl rfl rfl (by simp [checked, decodeSlot, decodeA_scalar, decodeB_scalar, decodeScalar_0x2b])

theorem cmpiNe (g : Pred) (q : Bool) (pd : PredPair) (a : Reg) (i : BitVec 10) : Statement (.cmpiNe g q pd a i) :=
  fun _ => roundTrip_slot rfl rfl rfl (by simp [checked, decodeSlot, decodeA_scalar, decodeB_scalar, decodeScalar_0x2c])

theorem cmpiLt (g : Pred) (q : Bool) (pd : PredPair) (a : Reg) (i : BitVec 10) : Statement (.cmpiLt g q pd a i) :=
  fun _ => roundTrip_slot rfl rfl rfl (by simp [checked, decodeSlot, decodeA_scalar, decodeB_scalar, decodeScalar_0x2d])

theorem cmpiLe (g : Pred) (q : Bool) (pd : PredPair) (a : Reg) (i : BitVec 10) : Statement (.cmpiLe g q pd a i) :=
  fun _ => roundTrip_slot rfl rfl rfl (by simp [checked, decodeSlot, decodeA_scalar, decodeB_scalar, decodeScalar_0x2e])

theorem cmpiLtn (g : Pred) (q : Bool) (pd : PredPair) (a : Reg) (i : BitVec 10) : Statement (.cmpiLtn g q pd a i) :=
  fun _ => roundTrip_slot rfl rfl rfl (by simp [checked, decodeSlot, decodeA_scalar, decodeB_scalar, decodeScalar_0x2f])

theorem cmpiLen (g : Pred) (q : Bool) (pd : PredPair) (a : Reg) (i : BitVec 10) : Statement (.cmpiLen g q pd a i) :=
  fun _ => roundTrip_slot rfl rfl rfl (by simp [checked, decodeSlot, decodeA_scalar, decodeB_scalar, decodeScalar_0x30])

theorem b (g : Pred) (q : Bool) (i : BitVec 20) : Statement (.b g q i) :=
  fun _ => roundTrip_slot rfl rfl rfl (by simp [checked, decodeSlot, decodeA_0x40])

theorem bi (g : Pred) (q : Bool) (a : Reg) : Statement (.bi g q a) :=
  fun _ => roundTrip_slot rfl rfl rfl (by simp [checked, decodeSlot, decodeA_0x41])

theorem jt (g : Pred) (q : Bool) (a b : Reg) (n : BitVec 5) : Statement (.jt g q a b n) :=
  fun _ => roundTrip_slot rfl rfl rfl (by simp [checked, decodeSlot, decodeA_0x42])

theorem call (g : Pred) (q : Bool) (i : BitVec 20) : Statement (.call g q i) :=
  fun _ => roundTrip_slot rfl rfl rfl (by simp [checked, decodeSlot, decodeA_0x43])

theorem calli (g : Pred) (q : Bool) (a : Reg) : Statement (.calli g q a) :=
  fun _ => roundTrip_slot rfl rfl rfl (by simp [checked, decodeSlot, decodeA_0x44])

theorem ret (g : Pred) (q : Bool) : Statement (.ret g q) :=
  fun _ => roundTrip_slot rfl rfl rfl (by simp [checked, decodeSlot, decodeA_0x45])

theorem loop (g : Pred) (d : Reg) (i : BitVec 15) : Statement (.loop g d i) :=
  fun _ => roundTrip_slot rfl rfl rfl (by simp [checked, decodeSlot, decodeA_0x46])

theorem halt (g : Pred) (q : Bool) : Statement (.halt g q) :=
  fun _ => roundTrip_slot rfl rfl rfl (by simp [checked, decodeSlot, decodeA_0x47])

theorem trap (g : Pred) (q : Bool) (n : BitVec 15) : Statement (.trap g q n) :=
  fun _ => roundTrip_slot rfl rfl rfl (by simp [checked, decodeSlot, decodeA_0x48])

theorem rett (g : Pred) (q : Bool) : Statement (.rett g q) :=
  fun _ => roundTrip_slot rfl rfl rfl (by simp [checked, decodeSlot, decodeA_0x49])

theorem pand (g : Pred) (q : Bool) (d a b : Pred) : Statement (.pand g q d a b) :=
  fun _ => roundTrip_slot rfl rfl rfl (by simp [checked, decodeSlot, decodeB_0x40])

theorem por (g : Pred) (q : Bool) (d a b : Pred) : Statement (.por g q d a b) :=
  fun _ => roundTrip_slot rfl rfl rfl (by simp [checked, decodeSlot, decodeB_0x41])

theorem pxor (g : Pred) (q : Bool) (d a b : Pred) : Statement (.pxor g q d a b) :=
  fun _ => roundTrip_slot rfl rfl rfl (by simp [checked, decodeSlot, decodeB_0x42])

theorem pmov (g : Pred) (q : Bool) (d a : Pred) : Statement (.pmov g q d a) :=
  fun _ => roundTrip_slot rfl rfl rfl (by simp [checked, decodeSlot, decodeB_0x43])

theorem mfs (g : Pred) (q : Bool) (d : Reg) (n : BitVec 5) : Statement (.mfs g q d n) := by
  intro h
  replace h := wf_mfs h
  exact roundTrip_slot rfl rfl rfl (by simp [checked, decodeSlot, decodeB_0x44, h])

theorem mts (g : Pred) (q : Bool) (d : Reg) (n : BitVec 5) : Statement (.mts g q d n) := by
  intro h
  replace h := wf_mts h
  exact roundTrip_slot rfl rfl rfl (by simp [checked, decodeSlot, decodeB_0x45, h])

theorem ldI8 (g : Pred) (q : Bool) (d a : Reg) (i : BitVec 10) : Statement (.ldI8 g q d a i) :=
  fun _ => roundTrip_slot rfl rfl rfl (by simp [checked, decodeSlot, decodeM_0x1])

theorem ldN8 (g : Pred) (q : Bool) (d a : Reg) (i : BitVec 10) : Statement (.ldN8 g q d a i) :=
  fun _ => roundTrip_slot rfl rfl rfl (by simp [checked, decodeSlot, decodeM_0x2])

theorem ldI16 (g : Pred) (q : Bool) (d a : Reg) (i : BitVec 10) : Statement (.ldI16 g q d a i) :=
  fun _ => roundTrip_slot rfl rfl rfl (by simp [checked, decodeSlot, decodeM_0x3])

theorem ldN16 (g : Pred) (q : Bool) (d a : Reg) (i : BitVec 10) : Statement (.ldN16 g q d a i) :=
  fun _ => roundTrip_slot rfl rfl rfl (by simp [checked, decodeSlot, decodeM_0x4])

theorem ldI32 (g : Pred) (q : Bool) (d a : Reg) (i : BitVec 10) : Statement (.ldI32 g q d a i) :=
  fun _ => roundTrip_slot rfl rfl rfl (by simp [checked, decodeSlot, decodeM_0x5])

theorem ldN32 (g : Pred) (q : Bool) (d a : Reg) (i : BitVec 10) : Statement (.ldN32 g q d a i) :=
  fun _ => roundTrip_slot rfl rfl rfl (by simp [checked, decodeSlot, decodeM_0x6])

theorem ld64 (g : Pred) (q : Bool) (d a : Reg) (i : BitVec 10) : Statement (.ld64 g q d a i) :=
  fun _ => roundTrip_slot rfl rfl rfl (by simp [checked, decodeSlot, decodeM_0x7])

theorem st8 (g : Pred) (q : Bool) (d a : Reg) (i : BitVec 10) : Statement (.st8 g q d a i) :=
  fun _ => roundTrip_slot rfl rfl rfl (by simp [checked, decodeSlot, decodeM_0x8])

theorem st16 (g : Pred) (q : Bool) (d a : Reg) (i : BitVec 10) : Statement (.st16 g q d a i) :=
  fun _ => roundTrip_slot rfl rfl rfl (by simp [checked, decodeSlot, decodeM_0x9])

theorem st32 (g : Pred) (q : Bool) (d a : Reg) (i : BitVec 10) : Statement (.st32 g q d a i) :=
  fun _ => roundTrip_slot rfl rfl rfl (by simp [checked, decodeSlot, decodeM_0xa])

theorem st64 (g : Pred) (q : Bool) (d a : Reg) (i : BitVec 10) : Statement (.st64 g q d a i) :=
  fun _ => roundTrip_slot rfl rfl rfl (by simp [checked, decodeSlot, decodeM_0xb])

theorem tld (g : Pred) (q : Bool) (d : Reg) (n : SigNum) (lag : BitVec 4) (u : BitVec 5) :
    Statement (.tld g q d n lag u) :=
  fun _ => roundTrip_slot rfl rfl rfl (by simp [checked, decodeSlot, decodeM_0x10])

theorem tst (g : Pred) (q : Bool) (d : Reg) (n : SigNum) (lag : BitVec 4) (u : BitVec 5) :
    Statement (.tst g q d n lag u) :=
  fun _ => roundTrip_slot rfl rfl rfl (by simp [checked, decodeSlot, decodeM_0x11])

theorem rst (g : Pred) (q : Bool) (d : Reg) (n : SigNum) (pos a : BitVec 2) (u : BitVec 5) :
    Statement (.rst g q d n pos a u) :=
  fun _ => roundTrip_slot rfl rfl rfl (by simp [checked, decodeSlot, decodeM_0x12])

theorem gld (g : Pred) (q : Bool) (d a : Reg) (i : BitVec 10) : Statement (.gld g q d a i) :=
  fun _ => roundTrip_slot rfl rfl rfl (by simp [checked, decodeSlot, decodeM_0x18])

theorem gst (g : Pred) (q : Bool) (d a : Reg) (i : BitVec 10) : Statement (.gst g q d a i) :=
  fun _ => roundTrip_slot rfl rfl rfl (by simp [checked, decodeSlot, decodeM_0x19])

theorem aadd (g : Pred) (q : Bool) (d a b : Reg) : Statement (.aadd g q d a b) :=
  fun _ => roundTrip_slot rfl rfl rfl (by simp [checked, decodeSlot, decodeM_0x20])

theorem amin (g : Pred) (q : Bool) (d a b : Reg) : Statement (.amin g q d a b) :=
  fun _ => roundTrip_slot rfl rfl rfl (by simp [checked, decodeSlot, decodeM_0x21])

theorem amax (g : Pred) (q : Bool) (d a b : Reg) : Statement (.amax g q d a b) :=
  fun _ => roundTrip_slot rfl rfl rfl (by simp [checked, decodeSlot, decodeM_0x22])

theorem aswp (g : Pred) (q : Bool) (d a b : Reg) : Statement (.aswp g q d a b) :=
  fun _ => roundTrip_slot rfl rfl rfl (by simp [checked, decodeSlot, decodeM_0x23])

theorem acas (g : Pred) (q : Bool) (d a b f : Reg) : Statement (.acas g q d a b f) :=
  fun _ => roundTrip_slot rfl rfl rfl (by simp [checked, decodeSlot, decodeM_0x24])

theorem acadd (g : Pred) (q : Bool) (a b : Reg) : Statement (.acadd g q a b) :=
  fun _ => roundTrip_slot rfl rfl rfl (by simp [checked, decodeSlot, decodeM_0x25])

theorem drainCl (g : Pred) (q : Bool) : Statement (.drainCl g q) :=
  fun _ => roundTrip_slot rfl rfl rfl (by simp [checked, decodeSlot, decodeM_0x30])

theorem drainDie (g : Pred) (q : Bool) : Statement (.drainDie g q) :=
  fun _ => roundTrip_slot rfl rfl rfl (by simp [checked, decodeSlot, decodeM_0x31])

theorem drainDev (g : Pred) (q : Bool) : Statement (.drainDev g q) :=
  fun _ => roundTrip_slot rfl rfl rfl (by simp [checked, decodeSlot, decodeM_0x32])

theorem drainSys (g : Pred) (q : Bool) : Statement (.drainSys g q) :=
  fun _ => roundTrip_slot rfl rfl rfl (by simp [checked, decodeSlot, decodeM_0x33])

theorem tick (g : Pred) (q : Bool) (x : Option Ext) : Statement (.tick g q x) := by
  cases x <;> exact fun _ => roundTrip_slot rfl rfl rfl (by simp [checked, encodeExt, decodeSlot, decodeE, isStreamOp, decodeEPlain_0x1])

theorem spec (g : Pred) (q : Bool) (n : BitVec 6) (x : Option Ext) : Statement (.spec g q n x) := by
  intro h
  replace h := wf_spec h
  cases x <;> exact roundTrip_slot rfl rfl rfl (by simp [checked, encodeExt, decodeSlot, decodeE, isStreamOp, decodeEPlain_0x2, h])

theorem commit (g : Pred) (q : Bool) (d : Reg) (n : BitVec 15) (x : Option Ext) : Statement (.commit g q d n x) := by
  cases x <;> exact fun _ => roundTrip_slot rfl rfl rfl (by simp [checked, encodeExt, decodeSlot, decodeE, isStreamOp, decodeEPlain_0x3])

theorem sclr (g : Pred) (q : Bool) (n : SigNum) (x : Option Ext) : Statement (.sclr g q n x) := by
  cases x <;> exact fun _ => roundTrip_slot rfl rfl rfl (by simp [checked, encodeExt, decodeSlot, decodeE, isStreamOp, decodeEPlain_0x4])

theorem sstat (g : Pred) (q : Bool) (d : Reg) (n : SigNum) (x : Option Ext) : Statement (.sstat g q d n x) := by
  cases x <;> exact fun _ => roundTrip_slot rfl rfl rfl (by simp [checked, encodeExt, decodeSlot, decodeE, isStreamOp, decodeEPlain_0x5])

theorem ckpt (g : Pred) (d : CkptFields) (x : Option Ext) : Statement (.ckpt g d x) := by
  cases x <;> exact fun _ => roundTrip_slot rfl rfl rfl (by simp [checked, encodeExt, decodeSlot, decodeE, isStreamOp, decodeEPlain_0x6])

theorem gacq (g : Pred) (q : Bool) (x : Option Ext) : Statement (.gacq g q x) := by
  cases x <;> exact fun _ => roundTrip_slot rfl rfl rfl (by simp [checked, encodeExt, decodeSlot, decodeE, isStreamOp, decodeEPlain_0x10])

theorem grel (g : Pred) (q : Bool) (x : Option Ext) : Statement (.grel g q x) := by
  cases x <;> exact fun _ => roundTrip_slot rfl rfl rfl (by simp [checked, encodeExt, decodeSlot, decodeE, isStreamOp, decodeEPlain_0x11])

theorem gcfg (g : Pred) (q : Bool) (n : BitVec 15) (x : Option Ext) : Statement (.gcfg g q n x) := by
  cases x <;> exact fun _ => roundTrip_slot rfl rfl rfl (by simp [checked, encodeExt, decodeSlot, decodeE, isStreamOp, decodeEPlain_0x12])

theorem grun (g : Pred) (q : Bool) (a : Reg) (x : Option Ext) : Statement (.grun g q a x) := by
  cases x <;> exact fun _ => roundTrip_slot rfl rfl rfl (by simp [checked, encodeExt, decodeSlot, decodeE, isStreamOp, decodeEPlain_0x13])

theorem gset (g : Pred) (q : Bool) (t : BitVec 5) (a : Reg) (f : BitVec 3) (x : Option Ext) :
    Statement (.gset g q t a f x) := by
  intro h
  replace h := wf_gset h
  cases x <;> exact roundTrip_slot rfl rfl rfl (by simp [checked, encodeExt, decodeSlot, decodeE, isStreamOp, decodeEPlain_0x14, h])

theorem mxload (g : Pred) (q : Bool) (n : BitVec 5) (x : Option Ext) : Statement (.mxload g q n x) := by
  cases x <;> exact fun _ => roundTrip_slot rfl rfl rfl (by simp [checked, encodeExt, decodeSlot, decodeE, isStreamOp, decodeEPlain_0x18])

theorem mxp (g : Pred) (q : Bool) (n : BitVec 3) (a : Reg) (x : Option Ext) : Statement (.mxp g q n a x) := by
  cases x <;> exact fun _ => roundTrip_slot rfl rfl rfl (by simp [checked, encodeExt, decodeSlot, decodeE, isStreamOp, decodeEPlain_0x19])

theorem mxcall (g : Pred) (q : Bool) (n : BitVec 5) (x : Option Ext) : Statement (.mxcall g q n x) := by
  cases x <;> exact fun _ => roundTrip_slot rfl rfl rfl (by simp [checked, encodeExt, decodeSlot, decodeE, isStreamOp, decodeEPlain_0x1a])

theorem sload (g : Pred) (q : Bool) (e : BitVec 2) (n : SigNum) (pos : BitVec 7) (k : DescNum) (a : Reg)
    (x : Tokens) :
    Statement (.sload g q e n pos k a x) := by
  intro h
  replace h := wf_sload h
  exact roundTrip_slot rfl rfl rfl (by simp [checked, decodeSlot, decodeE, isStreamOp, decodeStream_0x20, h])

theorem sloadPl (g : Pred) (q : Bool) (e : BitVec 2) (k : DescNum) (a b : Reg) (x : Tokens) :
    Statement (.sloadPl g q e k a b x) :=
  fun _ => roundTrip_slot rfl rfl rfl (by simp [checked, decodeSlot, decodeE, isStreamOp, decodeStream_0x20])

theorem sstore (g : Pred) (q : Bool) (e : BitVec 1) (n : SigNum) (off : BitVec 7) (k : DescNum) (a : Reg)
    (x : Tokens) :
    Statement (.sstore g q e n off k a x) :=
  fun _ => roundTrip_slot rfl rfl rfl (by simp [checked, decodeSlot, decodeE, isStreamOp, decodeStream_0x21])

theorem scopy (g : Pred) (q : Bool) (e : BitVec 3) (k j : DescNum) (a b : Reg) (x : Tokens) :
    Statement (.scopy g q e k j a b x) := by
  intro h
  replace h := wf_scopy h
  exact roundTrip_slot rfl rfl rfl (by simp [checked, decodeSlot, decodeE, isStreamOp, decodeStream_0x22, h])

theorem sgather (g : Pred) (q : Bool) (e : BitVec 2) (n : SigNum) (pos : BitVec 7) (k : DescNum) (a b : Reg)
    (oor : BitVec 2) (x : Tokens) :
    Statement (.sgather g q e n pos k a b oor x) := by
  intro h
  replace h := wf_sgather h
  exact roundTrip_slot rfl rfl rfl (by simp [checked, decodeSlot, decodeE, isStreamOp, decodeStream_0x23, h])

theorem sreduce (g : Pred) (q w : Bool) (e : BitVec 2) (n : SigNum) (pos : BitVec 7) (k : DescNum) (a b : Reg)
    (red : BitVec 2) (dis : Bool) (oor : BitVec 2) (x : Tokens) :
    Statement (.sreduce g q w e n pos k a b red dis oor x) := by
  intro h
  replace h := wf_sreduce h
  exact roundTrip_slot rfl rfl rfl (by simp [checked, decodeSlot, decodeE, isStreamOp, decodeStream_0x24, h])

theorem sscatter (g : Pred) (q : Bool) (e : BitVec 1) (n : SigNum) (off : BitVec 7) (k : DescNum) (a b : Reg)
    (oor : BitVec 2) (x : Tokens) :
    Statement (.sscatter g q e n off k a b oor x) := by
  intro h
  replace h := wf_sscatter h
  exact roundTrip_slot rfl rfl rfl (by simp [checked, decodeSlot, decodeE, isStreamOp, decodeStream_0x25, h])

theorem spos (g : Pred) (q : Bool) (n : BitVec 5) (a : Reg) (x : Option Ext) : Statement (.spos g q n a x) := by
  cases x <;> exact fun _ => roundTrip_slot rfl rfl rfl (by simp [checked, encodeExt, decodeSlot, decodeE, isStreamOp, decodeEPlain_0x26])

theorem dset (g : Pred) (q : Bool) (k : DescNum) (w : BitVec 4) (a : Reg) (x : Option Ext) :
    Statement (.dset g q k w a x) := by
  intro h
  replace h := wf_dset h
  cases x <;> exact roundTrip_slot rfl rfl rfl (by simp [checked, encodeExt, decodeSlot, decodeE, isStreamOp, decodeEPlain_0x28, h])

theorem dget (g : Pred) (q : Bool) (d : Reg) (k : DescNum) (w : BitVec 4) (x : Option Ext) :
    Statement (.dget g q d k w x) := by
  intro h
  replace h := wf_dget h
  cases x <;> exact roundTrip_slot rfl rfl rfl (by simp [checked, encodeExt, decodeSlot, decodeE, isStreamOp, decodeEPlain_0x29, h])

theorem dclr (g : Pred) (q : Bool) (k : DescNum) (x : Option Ext) : Statement (.dclr g q k x) := by
  cases x <;> exact fun _ => roundTrip_slot rfl rfl rfl (by simp [checked, encodeExt, decodeSlot, decodeE, isStreamOp, decodeEPlain_0x2a])

theorem kwait (g : Pred) (q : Bool) (x : Option Ext) : Statement (.kwait g q x) := by
  cases x <;> exact fun _ => roundTrip_slot rfl rfl rfl (by simp [checked, encodeExt, decodeSlot, decodeE, isStreamOp, decodeEPlain_0x30])

theorem kpoll (g : Pred) (q : Bool) (d : Reg) (x : Option Ext) : Statement (.kpoll g q d x) := by
  cases x <;> exact fun _ => roundTrip_slot rfl rfl rfl (by simp [checked, encodeExt, decodeSlot, decodeE, isStreamOp, decodeEPlain_0x31])

theorem trig (g : Pred) (q : Bool) (x : Option Ext) : Statement (.trig g q x) := by
  cases x <;> exact fun _ => roundTrip_slot rfl rfl rfl (by simp [checked, encodeExt, decodeSlot, decodeE, isStreamOp, decodeEPlain_0x38])

theorem launch (g : Pred) (q : Bool) (a b : Reg) (x : Option Ext) : Statement (.launch g q a b x) := by
  cases x <;> exact fun _ => roundTrip_slot rfl rfl rfl (by simp [checked, encodeExt, decodeSlot, decodeE, isStreamOp, decodeEPlain_0x39])

theorem arriveCl (g : Pred) (q : Bool) (x : Option Ext) : Statement (.arriveCl g q x) := by
  cases x <;> exact fun _ => roundTrip_slot rfl rfl rfl (by simp [checked, encodeExt, decodeSlot, decodeE, isStreamOp, decodeEPlain_0x40])

theorem arriveDie (g : Pred) (q : Bool) (x : Option Ext) : Statement (.arriveDie g q x) := by
  cases x <;> exact fun _ => roundTrip_slot rfl rfl rfl (by simp [checked, encodeExt, decodeSlot, decodeE, isStreamOp, decodeEPlain_0x41])

theorem arriveDev (g : Pred) (q : Bool) (x : Option Ext) : Statement (.arriveDev g q x) := by
  cases x <;> exact fun _ => roundTrip_slot rfl rfl rfl (by simp [checked, encodeExt, decodeSlot, decodeE, isStreamOp, decodeEPlain_0x42])

theorem waitCl (g : Pred) (q : Bool) (x : Option Ext) : Statement (.waitCl g q x) := by
  cases x <;> exact fun _ => roundTrip_slot rfl rfl rfl (by simp [checked, encodeExt, decodeSlot, decodeE, isStreamOp, decodeEPlain_0x43])

theorem waitDie (g : Pred) (q : Bool) (x : Option Ext) : Statement (.waitDie g q x) := by
  cases x <;> exact fun _ => roundTrip_slot rfl rfl rfl (by simp [checked, encodeExt, decodeSlot, decodeE, isStreamOp, decodeEPlain_0x44])

theorem waitDev (g : Pred) (q : Bool) (x : Option Ext) : Statement (.waitDev g q x) := by
  cases x <;> exact fun _ => roundTrip_slot rfl rfl rfl (by simp [checked, encodeExt, decodeSlot, decodeE, isStreamOp, decodeEPlain_0x45])

theorem sync (g : Pred) (q : Bool) (x : Option Ext) : Statement (.sync g q x) := by
  cases x <;> exact fun _ => roundTrip_slot rfl rfl rfl (by simp [checked, encodeExt, decodeSlot, decodeE, isStreamOp, decodeEPlain_0x46])

theorem emptyBundle : Statement .emptyBundle :=
  fun _ => roundTrip_event rfl rfl rfl

theorem slotTableEffect (n : CoreId) : Statement (.slotTableEffect n) :=
  fun _ => roundTrip_event rfl rfl rfl

theorem tickStep (c : CtxId) : Statement (.tickStep c) :=
  fun _ => roundTrip_event rfl rfl rfl

theorem gridGrant (n : CoreId) : Statement (.gridGrant n) :=
  fun _ => roundTrip_event rfl rfl rfl

theorem configurationLoad (n : CoreId) : Statement (.configurationLoad n) :=
  fun _ => roundTrip_event rfl rfl rfl

theorem gsetApply (n : CoreId) : Statement (.gsetApply n) :=
  fun _ => roundTrip_event rfl rfl rfl

theorem grunStart (n : CoreId) : Statement (.grunStart n) :=
  fun _ => roundTrip_event rfl rfl rfl

theorem gridWord (n : CoreId) : Statement (.gridWord n) :=
  fun _ => roundTrip_event rfl rfl rfl

theorem attarComplete (n : CoreId) (t : Fin 32) : Statement (.attarComplete n t) :=
  fun _ => roundTrip_event rfl rfl rfl

theorem grunPerform (n : CoreId) : Statement (.grunPerform n) :=
  fun _ => roundTrip_event rfl rfl rfl

theorem readoutSnapshot (n : CoreId) (p : Fin 2) : Statement (.readoutSnapshot n p) :=
  fun _ => roundTrip_event rfl rfl rfl

theorem readoutRowDeliver (n : CoreId) (p : Fin 2) : Statement (.readoutRowDeliver n p) :=
  fun _ => roundTrip_event rfl rfl rfl

theorem routineLoad (n : CoreId) : Statement (.routineLoad n) :=
  fun _ => roundTrip_event rfl rfl rfl

theorem routineCallStart (n : CoreId) : Statement (.routineCallStart n) :=
  fun _ => roundTrip_event rfl rfl rfl

theorem mEnd : Statement .mEnd :=
  fun _ => roundTrip_micro rfl rfl rfl (by simp [checked, decodeMicro_0x0])

theorem fmt (f : BitVec 2) : Statement (.fmt f) :=
  fun _ => roundTrip_micro rfl rfl rfl (by simp [checked, decodeMicro_0x1])

theorem bindA (m : Bool) : Statement (.bindA m) :=
  fun _ => roundTrip_micro rfl rfl rfl (by simp [checked, decodeMicro_0x2])

theorem bindB (p : BitVec 3) (s : Bool) : Statement (.bindB p s) :=
  fun _ => roundTrip_micro rfl rfl rfl (by simp [checked, decodeMicro_0x3])

theorem bindAcc (p : BitVec 3) (s : Bool) : Statement (.bindAcc p s) :=
  fun _ => roundTrip_micro rfl rfl rfl (by simp [checked, decodeMicro_0x4])

theorem scl (p : BitVec 3) : Statement (.scl p) :=
  fun _ => roundTrip_micro rfl rfl rfl (by simp [checked, decodeMicro_0x5])

theorem pass (c : BitVec 12) : Statement (.pass c) := by
  intro h
  replace h := wf_pass h
  exact roundTrip_micro rfl rfl rfl (by simp [checked, decodeMicro_0x6, h])

theorem passParam (p : BitVec 3) : Statement (.passParam p) :=
  fun _ => roundTrip_micro rfl rfl rfl (by simp [checked, decodeMicro_0x6])

theorem lp (c : BitVec 12) : Statement (.lp c) := by
  intro h
  replace h := wf_lp h
  exact roundTrip_micro rfl rfl rfl (by simp [checked, decodeMicro_0x7, h])

theorem lpParam (p : BitVec 3) : Statement (.lpParam p) :=
  fun _ => roundTrip_micro rfl rfl rfl (by simp [checked, decodeMicro_0x7])

theorem el : Statement .el :=
  fun _ => roundTrip_micro rfl rfl rfl (by simp [checked, decodeMicro_0x8])

theorem padd (p : BitVec 3) (v : BitVec 16) : Statement (.padd p v) :=
  fun _ => roundTrip_micro rfl rfl rfl (by simp [checked, decodeMicro_0x9])

theorem zacc (n : BitVec 10) : Statement (.zacc n) :=
  fun _ => roundTrip_micro rfl rfl rfl (by simp [checked, decodeMicro_0xA])

theorem anch (n : BitVec 10) (a : BitVec 16) : Statement (.anch n a) :=
  fun _ => roundTrip_micro rfl rfl rfl (by simp [checked, decodeMicro_0xB])

theorem tok : Statement .tok :=
  fun _ => roundTrip_micro rfl rfl rfl (by simp [checked, decodeMicro_0xC])

theorem wt (k : BitVec 4) : Statement (.wt k) := by
  intro h
  replace h := wf_wt h
  exact roundTrip_micro rfl rfl rfl (by simp [checked, decodeMicro_0xD, h])

theorem arrayCycle (n : CoreId) : Statement (.arrayCycle n) :=
  fun _ => roundTrip_event rfl rfl rfl

theorem accumulateLand (n : CoreId) : Statement (.accumulateLand n) :=
  fun _ => roundTrip_event rfl rfl rfl

theorem streamCommandTake (n : CoreId) (e : Fin 6) : Statement (.streamCommandTake n e) :=
  fun _ => roundTrip_event rfl rfl rfl

theorem fillWindow (n : CoreId) (e : Fin 6) : Statement (.fillWindow n e) :=
  fun _ => roundTrip_event rfl rfl rfl

theorem indexLookup (n : CoreId) (e : Fin 6) : Statement (.indexLookup n e) :=
  fun _ => roundTrip_event rfl rfl rfl

theorem drainSample (n : CoreId) (e : Fin 6) : Statement (.drainSample n e) :=
  fun _ => roundTrip_event rfl rfl rfl

theorem copyUnit (n : CoreId) (e : Fin 6) : Statement (.copyUnit n e) :=
  fun _ => roundTrip_event rfl rfl rfl

theorem streamRetry (n : CoreId) (e : Fin 6) : Statement (.streamRetry n e) :=
  fun _ => roundTrip_event rfl rfl rfl

theorem yarrowGather (n : CoreId) (e : Fin 6) : Statement (.yarrowGather n e) :=
  fun _ => roundTrip_event rfl rfl rfl

theorem yarrowPool (n : CoreId) (e : Fin 6) : Statement (.yarrowPool n e) :=
  fun _ => roundTrip_event rfl rfl rfl

theorem yarrowScatterAdd (n : CoreId) (e : Fin 6) : Statement (.yarrowScatterAdd n e) :=
  fun _ => roundTrip_event rfl rfl rfl

theorem atomicPerform (k : Nat) : Statement (.atomicPerform k) :=
  fun _ => roundTrip_event rfl rfl rfl

theorem cellAddPerform (k : Nat) : Statement (.cellAddPerform k) :=
  fun _ => roundTrip_event rfl rfl rfl

theorem deviceReadReturn (c : CtxId) : Statement (.deviceReadReturn c) :=
  fun _ => roundTrip_event rfl rfl rfl

theorem deviceWritePerform (k : Nat) : Statement (.deviceWritePerform k) :=
  fun _ => roundTrip_event rfl rfl rfl

theorem remoteWritePerform (n : CoreId) : Statement (.remoteWritePerform n) :=
  fun _ => roundTrip_event rfl rfl rfl

theorem launchPost (c : CtxId) : Statement (.launchPost c) :=
  fun _ => roundTrip_event rfl rfl rfl

theorem barrierRelease (c : CtxId) : Statement (.barrierRelease c) :=
  fun _ => roundTrip_event rfl rfl rfl

theorem syncRestart (c : CtxId) : Statement (.syncRestart c) :=
  fun _ => roundTrip_event rfl rfl rfl

theorem launchPlacement : Statement .launchPlacement :=
  fun _ => roundTrip_event rfl rfl rfl

theorem aging (q : BitVec 7) : Statement (.aging q) :=
  fun _ => roundTrip_event rfl rfl rfl

theorem contextRelease (c : CtxId) : Statement (.contextRelease c) :=
  fun _ => roundTrip_event rfl rfl rfl

theorem kernelComplete (k : Nat) : Statement (.kernelComplete k) :=
  fun _ => roundTrip_event rfl rfl rfl

theorem faultRecordPost : Statement .faultRecordPost :=
  fun _ => roundTrip_event rfl rfl rfl

theorem tailWrite (q : BitVec 7) (v : BitVec 32) : Statement (.tailWrite q v) :=
  fun _ => roundTrip_event rfl rfl rfl

theorem stopClear (q : BitVec 7) : Statement (.stopClear q) :=
  fun _ => roundTrip_event rfl rfl rfl

theorem registerWrite (off : BitVec 17) (v : BitVec 32) : Statement (.registerWrite off v) :=
  fun _ => roundTrip_event rfl rfl rfl

theorem load (dom : DomNum) (addr size : Word) : Statement (.load dom addr size) :=
  fun _ => roundTrip_event rfl rfl rfl

theorem unload (obj : BitVec 16) : Statement (.unload obj) :=
  fun _ => roundTrip_event rfl rfl rfl

theorem create (spec : DomainSpec) : Statement (.create spec) :=
  fun _ => roundTrip_event rfl rfl rfl

theorem destroy (dom : DomNum) : Statement (.destroy dom) :=
  fun _ => roundTrip_event rfl rfl rfl

theorem map (dom : DomNum) (entries : List (BitVec 6 × RangeEntry)) (root : Option Word) :
    Statement (.map dom entries root) :=
  fun _ => roundTrip_event rfl rfl rfl

theorem inval (dom : DomNum) : Statement (.inval dom) :=
  fun _ => roundTrip_event rfl rfl rfl

theorem invalidationPerform (dom : DomNum) : Statement (.invalidationPerform dom) :=
  fun _ => roundTrip_event rfl rfl rfl

theorem qcfg (q : BitVec 7) (cfg : QueueCfg) : Statement (.qcfg q cfg) :=
  fun _ => roundTrip_event rfl rfl rfl

theorem power (plim : BitVec 32) : Statement (.power plim) :=
  fun _ => roundTrip_event rfl rfl rfl

theorem slot (n : CoreId) (v : Word) : Statement (.slot n v) :=
  fun _ => roundTrip_event rfl rfl rfl

theorem ctxget (dom : DomNum) (c : CtxId) (addr : Word) : Statement (.ctxget dom c addr) :=
  fun _ => roundTrip_event rfl rfl rfl

theorem resume (dom : DomNum) (c : CtxId) (epc btarg : Word) : Statement (.resume dom c epc btarg) :=
  fun _ => roundTrip_event rfl rfl rfl

theorem abort (dom : DomNum) (c : CtxId) : Statement (.abort dom c) :=
  fun _ => roundTrip_event rfl rfl rfl

theorem getVersion : Statement .getVersion :=
  fun _ => roundTrip_event rfl rfl rfl

theorem getCapabilities : Statement .getCapabilities :=
  fun _ => roundTrip_event rfl rfl rfl

theorem negotiateAlgorithms : Statement .negotiateAlgorithms :=
  fun _ => roundTrip_event rfl rfl rfl

theorem getDigests : Statement .getDigests :=
  fun _ => roundTrip_event rfl rfl rfl

theorem getCertificate : Statement .getCertificate :=
  fun _ => roundTrip_event rfl rfl rfl

theorem challenge : Statement .challenge :=
  fun _ => roundTrip_event rfl rfl rfl

theorem getMeasurements (idx : BitVec 8) : Statement (.getMeasurements idx) :=
  fun _ => roundTrip_event rfl rfl rfl

theorem keyExchange : Statement .keyExchange :=
  fun _ => roundTrip_event rfl rfl rfl

theorem finish : Statement .finish :=
  fun _ => roundTrip_event rfl rfl rfl

theorem endSession : Statement .endSession :=
  fun _ => roundTrip_event rfl rfl rfl

theorem cxlMemRead (addr : Word) (len : BitVec 7) : Statement (.cxlMemRead addr len) :=
  fun _ => roundTrip_event rfl rfl rfl

theorem cxlMemWrite (addr : Word) (data : List Byte) : Statement (.cxlMemWrite addr data) :=
  fun _ => roundTrip_event rfl rfl rfl

theorem boot (firstOk monitorOk trainOk : Bool) : Statement (.boot firstOk monitorOk trainOk) :=
  fun _ => roundTrip_event rfl rfl rfl

theorem powerSample (avgMs avgFast idle : BitVec 32) : Statement (.powerSample avgMs avgFast idle) :=
  fun _ => roundTrip_event rfl rfl rfl

theorem linkFlitCrcFail (port : BitVec 4) : Statement (.linkFlitCrcFail port) :=
  fun _ => roundTrip_event rfl rfl rfl

theorem hostAccessError (src : AccessRef) (poison : Bool) : Statement (.hostAccessError src poison) :=
  fun _ => roundTrip_event rfl rfl rfl

theorem uncorrectableError (n : CoreId) (store : StoreKind) (off : BitVec 48) (single : Bool) :
    Statement (.uncorrectableError n store off single) :=
  fun _ => roundTrip_event rfl rfl rfl

theorem landingAfterLastEnd (n : CoreId) : Statement (.landingAfterLastEnd n) :=
  fun _ => roundTrip_event rfl rfl rfl

theorem linkPortUp (port : BitVec 4) (peerPort : BitVec 8) (peerPart : BitVec 16) :
    Statement (.linkPortUp port peerPort peerPart) :=
  fun _ => roundTrip_event rfl rfl rfl

theorem apertureAccessArrival (port : BitVec 4) (addr : Word) (write : Option (List Byte)) (len : BitVec 7) :
    Statement (.apertureAccessArrival port addr write len) :=
  fun _ => roundTrip_event rfl rfl rfl

theorem mailboxOpcodeRefused (op : BitVec 32) : Statement (.mailboxOpcodeRefused op) :=
  fun _ => roundTrip_event rfl rfl rfl

end Laws.Encoding

end Sys2Proof
end

