-- ==== Sys2Proof/Certificates/Slice0/Obligations.lean ====
section
/-! DEFINITION. The statements for the provers: what the decoder, the step and the meanings do, in the words of the spec's rules. -/

namespace Sys2Proof.Claims

open Sys2Proof.Machine

/-- The guard of a slot's instruction; events, micro-operations and the empty bundle have none (R104, R106). -/
def guardOf : Instr → Option Pred
  | .ret g _ | .halt g _ | .rett g _ | .drainCl g _ | .drainDie g _ | .drainDev g _ | .drainSys g _ => some g
  | .nop g _ _ | .b g _ _ | .bi g _ _ | .call g _ _ | .calli g _ _ | .loop g _ _ | .trap g _ _ | .tick g _ _
    | .gacq g _ _ | .grel g _ _ | .ckpt g _ _ | .kwait g _ _ | .trig g _ _ | .arriveCl g _ _ | .arriveDie g _ _
    | .arriveDev g _ _ | .waitCl g _ _ | .waitDie g _ _ | .waitDev g _ _ | .sync g _ _ => some g
  | .movi g _ _ _ | .lhi g _ _ _ | .sxI8 g _ _ _ | .sxI16 g _ _ _ | .sxI32 g _ _ _ | .zxN8 g _ _ _
    | .zxN16 g _ _ _ | .zxN32 g _ _ _ | .clz g _ _ _ | .ctz g _ _ _ | .popc g _ _ _ | .pmov g _ _ _ | .mfs g _ _ _
    | .mts g _ _ _ | .acadd g _ _ _ | .spec g _ _ _ | .sclr g _ _ _ | .gcfg g _ _ _ | .grun g _ _ _
    | .mxload g _ _ _ | .mxcall g _ _ _ | .dclr g _ _ _ | .kpoll g _ _ _ => some g
  | .add g _ _ _ _ | .sub g _ _ _ _ | .addi g _ _ _ _ | .mul g _ _ _ _ | .mulh g _ _ _ _ | .mulhn g _ _ _ _
    | .div g _ _ _ _ | .divn g _ _ _ _ | .rem g _ _ _ _ | .remn g _ _ _ _ | .min g _ _ _ _ | .max g _ _ _ _
    | .minn g _ _ _ _ | .maxn g _ _ _ _ | .and g _ _ _ _ | .or g _ _ _ _ | .xor g _ _ _ _ | .andn g _ _ _ _
    | .shl g _ _ _ _ | .shr g _ _ _ _ | .sra g _ _ _ _ | .shli g _ _ _ _ | .shri g _ _ _ _ | .srai g _ _ _ _
    | .cmpEq g _ _ _ _ | .cmpNe g _ _ _ _ | .cmpLt g _ _ _ _ | .cmpLe g _ _ _ _ | .cmpLtn g _ _ _ _
    | .cmpLen g _ _ _ _ | .cmpiEq g _ _ _ _ | .cmpiNe g _ _ _ _ | .cmpiLt g _ _ _ _ | .cmpiLe g _ _ _ _
    | .cmpiLtn g _ _ _ _ | .cmpiLen g _ _ _ _ | .jt g _ _ _ _ | .pand g _ _ _ _ | .por g _ _ _ _ | .pxor g _ _ _ _
    | .ldI8 g _ _ _ _ | .ldN8 g _ _ _ _ | .ldI16 g _ _ _ _ | .ldN16 g _ _ _ _ | .ldI32 g _ _ _ _
    | .ldN32 g _ _ _ _ | .ld64 g _ _ _ _ | .st8 g _ _ _ _ | .st16 g _ _ _ _ | .st32 g _ _ _ _ | .st64 g _ _ _ _
    | .gld g _ _ _ _ | .gst g _ _ _ _ | .aadd g _ _ _ _ | .amin g _ _ _ _ | .amax g _ _ _ _ | .aswp g _ _ _ _
    | .commit g _ _ _ _ | .sstat g _ _ _ _ | .mxp g _ _ _ _ | .spos g _ _ _ _ | .launch g _ _ _ _ => some g
  | .sel g _ _ _ _ _ | .tld g _ _ _ _ _ | .tst g _ _ _ _ _ | .acas g _ _ _ _ _ | .gset g _ _ _ _ _
    | .dset g _ _ _ _ _ | .dget g _ _ _ _ _ => some g
  | .rst g _ _ _ _ _ _ | .sloadPl g _ _ _ _ _ _ => some g
  | .sload g _ _ _ _ _ _ _ | .sstore g _ _ _ _ _ _ _ | .scopy g _ _ _ _ _ _ _ => some g
  | .sgather g _ _ _ _ _ _ _ _ _ | .sscatter g _ _ _ _ _ _ _ _ _ => some g
  | .sreduce g _ _ _ _ _ _ _ _ _ _ _ _ => some g
  | _ => none

/-- The instruction answers a next state whose only change is one result in flight (R110): with latency `n` for `d`, and with a
value of which `P` holds. A result for x0, p0 or p1 is discarded (see `ResultsLand`). -/
def gives (i : Instr) (s : State) (d : Dest) (n : Nat) (q : Bool) (P : Word → Prop) : Prop :=
  ∃ v, P v ∧ exec i s = .next (s.setMe (s.me.enter d v n q))

/-- `n` bundles of a context begun one after another, none of which issues a result: what step 1 of each lands (R110). -/
def arrivals : Nat → Block → Block
  | 0, b => b
  | n + 1, b => arrivals n b.arrive'

/-- Only one context differs. -/
def onlyCtx (c : CtxId) (s t : State) : Prop := t = s.setCtx c (t.ctx c)

/-- Only one core differs. -/
def onlyCore (n : CoreId) (s t : State) : Prop := t = s.setCore n (t.core n)

/-- The context's registers and flags are those before: x, p, d, k, staged parameters, FLAGS and the special registers that
`mts` writes. -/
def sameRegisters (x y : Ctx) : Prop :=
  y.x = x.x ∧ y.p = x.p ∧ y.d = x.d ∧ y.k = x.k ∧ y.mp = x.mp ∧ y.flags = x.flags ∧ y.tvec = x.tvec ∧ y.epc = x.epc ∧
    y.btarg = x.btarg ∧ y.cause = x.cause ∧ y.faddr = x.faddr

/-- Beside the context whose bundle issues, its core's translation caches alone may differ among the cores. -/
def onlyCaches (s t : State) : Prop :=
  { t.myCore with ctxs := s.myCore.ctxs, ranges := s.myCore.ranges, pages := s.myCore.pages } = s.myCore ∧
    (∀ c, c ≠ s.cur → t.ctx c = s.ctx c) ∧ ∀ n, n ≠ s.cur.core → t.core n = s.core n

/-- The bytes of CP data memory of a core are those before, but for `n` bytes from `p`. -/
def sameCpBytes (a b : Core) (p n : Nat) : Prop :=
  ∀ o, o < p ∨ p + n ≤ o → Memory.get b.cp o = Memory.get a.cp o

/-- The bytes of device memory are those before, but for `n` bytes from `p`. -/
def sameDevBytes (s t : State) (p n : Nat) : Prop :=
  ∀ o, o < p ∨ p + n ≤ o → Memory.get t.mem o = Memory.get s.mem o

/-! ### Rows, ports and units of the grid -/

/-- A row whose lanes come from a new row where a mask is true, and from an old one elsewhere (R172). -/
def mixed (old row : Row) (mask : BitVec 64) (new : Row) : Prop :=
  ∀ l, l < 64 → laneOf new l = if mask.getLsbD l then laneOf row l else laneOf old l

/-- What a tile's source port gives (R170), but for a draw, a tap and a readout, which have rules of their own. -/
def portGives (g : Grid) (t : Fin 32) (c : Nat) (row : Row) : Prop :=
  let tile := g.tiles[t.val]'t.isLt
  (c = 0 → row = 0) ∧
  (∀ i, (h : i < 8) → c = i + 1 → row = tile.v[i]'h) ∧
  (∀ i, (h : i < 4) → c = i + 9 → ∀ l, l < 64 → laneOf row l = tile.q[i]'h) ∧
  (∀ i, (h : i < 2) → c = i + 0x0D → ∀ l, l < 64 → laneOf row l = if (tile.g[i]'h).getLsbD l then 1 else 0) ∧
  (∀ i, (h : i < 16) → (c = i + 0x10 → row = (tile.f[0])[i]'h) ∧ (c = i + 0x20 → row = (tile.f[1])[i]'h)) ∧
  (∀ u : Fin 32, let link := (g.tiles[u.val]'u.isLt).link
    (c = 0x40 → t.val = u.val + 8 → row = link[2]) ∧ (c = 0x41 → t.val % 8 < 7 → u.val = t.val + 1 → row = link[3]) ∧
    (c = 0x42 → u.val = t.val + 8 → row = link[0]) ∧ (c = 0x43 → 0 < t.val % 8 → t.val = u.val + 1 → row = link[1])) ∧
  (c = 0x60 → row = tile.aluR) ∧ (c = 0x61 → row = tile.mulR) ∧ (c = 0x63 → row = tile.attR) ∧ (c = 0x64 → row = tile.attX) ∧
  (c = 0x65 → row = tile.shfR)

/-- A tile after a move to one of its own registers, frames, masks, link registers or latches (R170, R172); `t` is the tile before,
its draws taken. -/
def movedTo (t : Tile) (d : Nat) (row : Row) (mask : BitVec 64) (t' : Tile) : Prop :=
  (d = 0 → t' = t) ∧
  (∀ i, (h : i < 8) → d = i + 1 → ∃ v, mixed (t.v[i]'h) row mask v ∧ t' = { t with v := t.v.set i v h }) ∧
  (∀ i, (h : i < 2) → d = i + 0x0D → ∃ m, t' = { t with g := t.g.set i m h } ∧
    ∀ l, l < 64 → m.getLsbD l = if mask.getLsbD l then decide (laneOf row l ≠ 0) else (t.g[i]'h).getLsbD l) ∧
  (∀ i, (h : i < 16) →
    (d = i + 0x10 → ∃ v, mixed ((t.f[0])[i]'h) row mask v ∧ t' = { t with f := t.f.set 0 ((t.f[0]).set i v h) }) ∧
    (d = i + 0x20 → ∃ v, mixed ((t.f[1])[i]'h) row mask v ∧ t' = { t with f := t.f.set 1 ((t.f[1]).set i v h) })) ∧
  (∀ i, (h : i < 4) → d = i + 0x40 → ∃ v, mixed (t.link[i]'h) row mask v ∧ t' = { t with link := t.link.set i v h }) ∧
  (d = 0x60 → ∃ v, mixed t.aluO row mask v ∧ t' = { t with aluO := v }) ∧
  (d = 0x61 → ∃ v, mixed t.mulO row mask v ∧ t' = { t with mulO := v }) ∧
  (d = 0x62 → ∃ v, mixed t.mulC row mask v ∧ t' = { t with mulC := v }) ∧
  (d = 0x63 → ∃ v, mixed t.attO row mask v ∧ t' = { t with attO := v }) ∧
  (d = 0x65 → ∃ v, mixed t.shfO row mask v ∧ t' = { t with shfO := v })

/-- An integer clamped to a range, as an element, and whether that changed it (R190). -/
def clamped (w : Nat) (lo hi v : Int) : BitVec w × Bool := (BitVec.ofInt w (max lo (min hi v)), max lo (min hi v) != v)

/-- Clamped to the signed elements of a width. -/
def satS (w : Nat) (v : Int) : BitVec w × Bool := clamped w (-(2 ^ (w - 1))) (2 ^ (w - 1) - 1) v

/-- Clamped to the unsigned elements of a width. -/
def satN (w : Nat) (v : Int) : BitVec w × Bool := clamped w 0 (2 ^ w - 1) v

/-- An integer ALU operation on an element, and whether it sets SAT (R190). -/
def aluElement {w : Nat} (op : Nat) (a b : BitVec w) (g0 g1 : Bool) : BitVec w × Bool :=
  let truth (c : Bool) : BitVec w × Bool := (if c then BitVec.allOnes w else 0, false)
  let k := b.toNat % w
  match op with
  | 0 => (a + b, false)
  | 1 => (a - b, false)
  | 2 => satS w (a.toInt + b.toInt)
  | 3 => satS w (a.toInt - b.toInt)
  | 4 => satN w ((a.toNat : Int) + b.toNat)
  | 5 => satN w ((a.toNat : Int) - b.toNat)
  | 6 => (if a.slt b then a else b, false)
  | 7 => (if a.slt b then b else a, false)
  | 8 => (if a.ult b then a else b, false)
  | 9 => (if a.ult b then b else a, false)
  | 10 => (a &&& b, false)
  | 11 => (a ||| b, false)
  | 12 => (a ^^^ b, false)
  | 13 => (a &&& ~~~b, false)
  | 14 => (a <<< k, false)
  | 15 => (a >>> k, false)
  | 16 => (a.sshiftRight k, false)
  | 17 => (a.rotateLeft k, false)
  | 18 => satS w (a.toInt.natAbs)
  | 19 => satS w (-a.toInt)
  | 20 => (BitVec.ofNat w ((List.range w).takeWhile fun i => !a.getLsbD (w - 1 - i)).length, false)
  | 21 => (BitVec.ofNat w ((List.range w).filter fun i => a.getLsbD i).length, false)
  | 22 => truth (a == b)
  | 23 => truth (a != b)
  | 24 => truth (a.slt b)
  | 25 => truth (a.sle b)
  | 26 => truth (a.ult b)
  | 27 => truth (a.ule b)
  | 28 => (if g0 then a else b, false)
  | _ => (if g1 then a else b, false)

/-- An integer MUL operation that does not round, on an element, and whether it sets SAT (R194). -/
def mulElement {w : Nat} (op : Nat) (a b c : BitVec w) : BitVec w × Bool :=
  match op with
  | 0 => (a * b, false)
  | 1 => (BitVec.ofInt w (a.toInt * b.toInt / 2 ^ w), false)
  | 2 => (BitVec.ofNat w (a.toNat * b.toNat / 2 ^ w), false)
  | 3 => satS w (a.toInt * b.toInt)
  | 4 => (a * b + c, false)
  | 5 => satS w (a.toInt * b.toInt + c.toInt)
  | _ => (c - a * b, false)

/-- The value of an Attar operation where its operands decide it without a rounding (R203, R204). -/
def attExactly (op : Nat) (x y : Sli) : Option Sli :=
  if op ≤ 6 ∧ (x = .nar ∨ (op ≠ 4 ∧ op ≠ 5 ∧ y = .nar)) then some .nar
  else match op, x, y with
  | 2, .zero, _ | 2, _, .zero => some .zero
  | 3, .zero, .zero => some .nar
  | 3, .zero, _ => some .zero
  | 4, .zero, _ => some (.val false idxOne)
  | 5, .val true _, _ => some .nar
  | 5, .val false t, _ => if t = idxOne then some .zero else none
  | 7, .val n t, _ => some (.val (!n) t)
  | 7, v, _ => some v
  | 8, .val _ t, _ => some (.val false t)
  | 8, v, _ => some v
  | 9, .val n t, _ => some (.val n (2 * idxOne - t))
  | 9, .nar, _ => some .nar
  | 10, .nar, v | 10, v, .nar => some v
  | 10, v, u => some (if v.key < u.key then v else u)
  | 11, v, u => some (if u.key < v.key then v else u)
  | _, _, _ => none

/-- The truth of an Attar compare or selection, true for the first operand (R191, R204). -/
def attTruth (op : Nat) (x y : Sli) (g0 g1 : Bool) : Bool :=
  let ordered : Bool := x != .nar && y != .nar
  match op with
  | 13 => ordered && x.key == y.key
  | 14 => ordered && decide (x.key < y.key)
  | 15 => ordered && decide (x.key ≤ y.key)
  | 16 => !ordered
  | 17 => g0
  | _ => g1

/-- A value rounded to an IEEE format, its flags joined to those of the exact operation (R77, R79). -/
def roundedTo (w : Nat) (f : FpFmt) (r : Rounding) (v : Machine.Num × FlagSet) : BitVec w × FlagSet :=
  let o := f.round r false v.1
  (BitVec.ofNat w o.1, o.2 ||| v.2)

/-- A floating-point ALU operation on an element, and its flags (R192, R193). -/
def fpAluElement {w : Nat} (f : FpFmt) (op : Nat) (r : Rounding) (a b : BitVec w) (g0 g1 : Bool) : BitVec w × FlagSet :=
  let x := f.decode a.toNat
  let y := f.decode b.toNat
  let un := x.isNan || y.isNan
  let nan := BitVec.ofNat w f.nanCode
  let top := 1#w <<< (w - 1)
  -- sign and magnitude, −0 below +0
  let below (u v : BitVec w) : Bool := if u.msb != v.msb then u.msb else if u.msb then v.ult u else u.ult v
  let truth (c : Bool) : BitVec w × FlagSet := (if c then BitVec.allOnes w else 0, 0)
  match op with
  | 0 => roundedTo w f r (addNum r.mode x y)
  | 1 => roundedTo w f r (addNum r.mode x y.neg)
  | 2 => (if un then nan else if below b a then b else a, 0)
  | 3 => (if un then nan else if below a b then b else a, 0)
  | 4 => (if x.isNan then nan else a &&& ~~~top, 0)
  | 5 => (if x.isNan then nan else a ^^^ top, 0)
  | 6 => (if un then nan else (a &&& ~~~top) ||| (b &&& top), 0)
  | 7 => match x with
    | .nan => (nan, 0)
    | .inf _ => (a, 0)
    | .fin s n d => (BitVec.ofNat w (f.round r false (.fin s (roundNat r s n d).1 1)).1, when (roundNat r s n d).2 fNX)
  | 8 => truth (!un && x.eq y)
  | 9 => truth (un || !x.eq y)
  | 10 => truth (!un && x.lt y)
  | 11 => truth (!un && (x.lt y || x.eq y))
  | 12 => truth un
  | 13 => (if g0 then a else b, 0)
  | 14 => (if g1 then a else b, 0)
  | 15 => (a &&& b, 0)
  | 16 => (a ||| b, 0)
  | _ => (a ^^^ b, 0)

/-- A floating-point MUL operation on an element, and its flags: `mul`, `fma`, `fms`, `fnma` (R195). -/
def fpMulElement {w : Nat} (f : FpFmt) (op : Nat) (r : Rounding) (a b c : BitVec w) : BitVec w × FlagSet :=
  let x := f.decode a.toNat
  let y := f.decode b.toNat
  let z := f.decode c.toNat
  roundedTo w f r (match op with
    | 0 => mulNum x y
    | 1 => fmaNum r.mode x y z
    | 2 => fmaNum r.mode x y z.neg
    | _ => fmaNum r.mode x.neg y z)

/-- `mulq` on an element: the product divided by 2^(w − 1), rounded and clamped, with its flags (R194). -/
def mulqElement {w : Nat} (r : Rounding) (a b : BitVec w) : BitVec w × FlagSet :=
  let p := a.toInt * b.toInt
  let q := roundNat r (decide (p < 0)) p.natAbs (2 ^ (w - 1))
  let v := satS w (if p < 0 then -(q.1 : Int) else q.1)
  (v.1, when v.2 fSAT ||| when q.2 fNX)

/-- The conversions of the MUL ports: port counted from mul.i8, OP, shape, source class, result class (R196). -/
def mulConversions : List (Nat × Nat × CvtShape × LaneClass × LaneClass) :=
  [(0, 16, .lo, .i8, .i16), (0, 17, .hi, .i8, .i16), (0, 18, .lo, .i8, .bf16), (0, 19, .hi, .i8, .bf16),
   (1, 16, .lo, .i16, .i32), (1, 17, .hi, .i16, .i32), (1, 18, .pair, .i16, .i8), (1, 19, .each, .i16, .bf16),
   (2, 16, .each, .i32, .fp32), (2, 17, .pair, .i32, .bf16), (2, 18, .pair, .i32, .i16),
   (3, 16, .lo, .bf16, .fp32), (3, 17, .hi, .bf16, .fp32), (3, 18, .each, .bf16, .i16), (3, 19, .pair, .bf16, .i8),
   (4, 16, .pair, .fp32, .bf16), (4, 17, .each, .fp32, .i32), (4, 18, .pair, .fp32, .i16)]

/-- An element of one class converted to another, and its flags (R90, R196). -/
def convertedTo (a b : LaneClass) (r : Rounding) (v : BitVec a.width) : BitVec b.width × FlagSet :=
  let x : Machine.Num := if a.isInt then .ofInt v.toInt else a.fmt.decode v.toNat
  if a.isInt && b.isInt then ((satS b.width v.toInt).1, when (satS b.width v.toInt).2 fSAT)
  else if b.isInt then (BitVec.ofNat b.width (toIntFmt r true b.width x).1, (toIntFmt r true b.width x).2)
  else roundedTo b.width b.fmt r (x, 0)

/-- The source element of a conversion's result element `e` of `n`: of width `w`, from the row moved or the latch (R196). -/
def sourceOf (sh : CvtShape) (w n : Nat) (row latch : Row) (e : Nat) : BitVec w :=
  match sh with
  | .lo | .each => row.extractLsb' (w * e) w
  | .hi => row.extractLsb' (w * (n + e)) w
  | .pair => if e < n / 2 then row.extractLsb' (w * e) w else latch.extractLsb' (w * (e - n / 2)) w

/-- The conversions of the Attar ports: format of the port, OP, shape, source, result, saturating (R206). -/
def attConversions : List (SliFmt × Nat × CvtShape × CvtFmt × CvtFmt × Bool) :=
  [(.sl32, 20, .each, .sl .sl32, .fp .fp32, false), (.sl32, 21, .each, .sl .sl32, .fp .fp32, true),
   (.sl32, 22, .pair, .sl .sl32, .fp .bf16, false), (.sl32, 23, .pair, .sl .sl32, .sl .sl16, false),
   (.sl32, 24, .each, .fp .fp32, .sl .sl32, false), (.sl32, 25, .lo, .fp .bf16, .sl .sl32, false),
   (.sl32, 26, .hi, .fp .bf16, .sl .sl32, false), (.sl32, 27, .lo, .sl .sl16, .sl .sl32, false),
   (.sl32, 28, .hi, .sl .sl16, .sl .sl32, false), (.sl16, 20, .each, .sl .sl16, .fp .bf16, false),
   (.sl16, 21, .each, .sl .sl16, .fp .bf16, true), (.sl16, 22, .lo, .sl .sl16, .fp .fp32, false),
   (.sl16, 23, .hi, .sl .sl16, .fp .fp32, false), (.sl16, 24, .each, .fp .bf16, .sl .sl16, false),
   (.sl16, 25, .pair, .fp .fp32, .sl .sl16, false), (.sl16, 26, .pair, .sl .sl32, .sl .sl16, false)]

/-- The code and flags of an element converted between SLI and IEEE formats (R88, R89, R206). -/
def attConverted (src dst : CvtFmt) (sat : Bool) (r : Rounding) (v : Nat) : Nat × FlagSet :=
  match src, dst with
  | .sl f, .sl g => ((g.ofSli r (f.decode v).1).1, (g.ofSli r (f.decode v).1).2 ||| (f.decode v).2)
  | .sl f, .fp g => let o := g.ofSli r sat (attKey 32 r v 0) (f.decode v).1; (o.1, o.2 ||| (f.decode v).2)
  | .fp f, .sl g => g.ofNum r (attKey 32 r v 0) (f.decode v)
  | .fp f, .fp g => g.round r false (f.decode v)

/-- The sum of lanes of a kind, i32, fp32 or sl32: exact, and rounded once (R208, R209). -/
def laneSum (k : Nat) (r : Rounding) (vs : List Lane) : Lane × FlagSet :=
  match k with
  | 0 => (vs.foldl (fun a v => a + v) 0, 0)
  | 1 =>
    let xs := vs.map fun v => FpFmt.fp32.decode v.toNat
    let total : Int := (xs.map fun x => x.signed * Int.ofNat (2 ^ 160 / x.den)).sum
    roundedTo 32 .fp32 r (
      if xs.any Machine.Num.isNan then (.nan, 0)
      else if xs.any (· == .inf false) && xs.any (· == .inf true) then (.nan, fNV)
      else if xs.any (· == .inf false) then (.inf false, 0)
      else if xs.any (· == .inf true) then (.inf true, 0)
      else if total = 0 then
        (.fin (xs.all (fun x => x.isZero && x.isNeg) || (r.mode == 3 && !xs.all (fun x => x.isZero && !x.isNeg))) 0 1, 0)
      else (.fin (decide (total < 0)) total.natAbs (2 ^ 160), 0))
  | _ => let o := sumLanes .sl32 r (vs.map (·.toNat)); (BitVec.ofNat 32 o.1, o.2)

/-- The place of a lane in the order of a maximum of a kind: signed integers; sign and magnitude with −0 below +0 and NaN above all;
the order of SLI (R204, R209). -/
def laneOrder (k : Nat) (v : Lane) : Int :=
  match k with
  | 0 => v.toInt
  | 1 => if (FpFmt.fp32.decode v.toNat).isNan then 2 ^ 40
    else if v.msb then -((v.toNat - 2 ^ 31 : Nat) : Int) - 1 else v.toNat
  | _ => (SliFmt.sl32.decode v.toNat).1.key

/-- The maximum of lanes of a kind, the lowest lane that holds it, and the flags (R209, R300). -/
def laneMax (k : Nat) (vs : List Lane) : Lane × Nat × FlagSet :=
  let p := ((List.range vs.length).find? fun i => vs.all fun v => decide (laneOrder k v ≤ laneOrder k (vs.getD i 0))).getD 0
  let v := vs.getD p 0
  match k with
  | 0 => (v, p, 0)
  | 1 => (if (FpFmt.fp32.decode v.toNat).isNan then BitVec.ofNat 32 FpFmt.fp32.nanCode else v, p, 0)
  | _ => (BitVec.ofNat 32 (SliFmt.sl32.encode (SliFmt.sl32.decode v.toNat).1), p,
      vs.foldl (fun f u => f ||| (SliFmt.sl32.decode u.toNat).2) 0)

/-- Lane `l` of the result of a row operation of SHF, and its flags (R208, R209). -/
def rowLane (op : Nat) (rd : Nat → Rounding) (a b : Row) (l : Nat) : Lane × FlagSet :=
  let by0 := (laneOf b 0).toNat % 64
  let vs := (List.range 64).map (laneOf a)
  if op = 0 then (laneOf a ((l + 64 - by0) % 64), 0)
  else if op = 1 then (laneOf a by0, 0)
  else if op = 2 then (laneOf a ((laneOf b l).toNat % 64), 0)
  else if op ≤ 5 then laneSum (op - 3) (rd 0) vs
  else if op ≤ 8 then ((laneMax (op - 6) vs).1, (laneMax (op - 6) vs).2.2)
  else if op ≤ 11 then
    (if l < 32 then (laneMax (op - 9) vs).1 else BitVec.ofNat 32 (laneMax (op - 9) vs).2.1, (laneMax (op - 9) vs).2.2)
  else laneSum (op - 12) (rd l) (vs.take (l + 1))

/-- Lane `l` of row `i` of the result of a column operation of SHF over a frame, from row `m`, and its flags (R209, R210). -/
def columnLane (op m : Nat) (rd : Nat → Nat → Rounding) (f : Vector Row 16) (i l : Nat) : Lane × FlagSet :=
  let row (j : Nat) : Row := f.toList.getD (j % 16) 0
  let col := (List.range 16).map fun j => laneOf (row j) l
  if op = 0 then (laneOf (row (i + 16 - m)) l, 0)
  else if op = 1 then (laneOf (row m) l, 0)
  else if op ≤ 4 then laneSum (op - 2) (rd i l) col
  else if op ≤ 7 then ((laneMax (op - 5) col).1, (laneMax (op - 5) col).2.2)
  else if op ≤ 10 then laneSum (op - 8) (rd i l) (col.take (i + 1))
  else (laneOf (row (l % 16)) (16 * (l / 16) + i), 0)

/-- An operation in flight with its result elements of one width; the flags are those of the elements in lanes that the mask lets
through (R185 to R187). -/
def carries (o : UnitOp) (w : Nat) (code : Nat → BitVec w) (flags : Nat → FlagSet) : Prop :=
  ∃ r, o.rows = [r] ∧ (∀ e, e < 2048 / w → r.extractLsb' (w * e) w = code e) ∧
    ∀ i, i < 7 → (o.flags.getLsbD i = true ↔
      ∃ e, e < 2048 / w ∧ o.mask.getLsbD (w * e / 32) = true ∧ (flags e).getLsbD i = true)

end Sys2Proof.Claims

open Sys2Proof Sys2Proof.Machine Sys2Proof.Claims


/-! ### Encoding -/

/-- The words of every well-formed instruction decode to it, in every slot class whose table holds it (R101 to R109, R160,
R161, R225). -/
def Obligations.WellFormedWordsDecode : Prop := ∀ i : Instr, Laws.Encoding.Statement i

/-- A word that decodes is the word of the instruction read, which is well formed: no bit of it is dropped. A slot's instruction
is of the slot's class, and in slot E the extension word belongs to it (R101 to R109, R116, R160, R161, R225). -/
def Obligations.WordsEncodeBack : Prop :=
  (∀ (c : SlotClass) (w : Lane) (x : Option Lane) (i : Instr), decodeSlot c w x = .ok i →
    i.wf = true ∧ c ∈ i.classes ∧ encode i = w :: (if c = .e then x.toList else [])) ∧
  (∀ (w : Lane) (i : Instr), decodeMicro w = .ok i → i.wf = true ∧ i.isMicro = true ∧ encode i = [w])

/-- Words that the spec itself writes out, or that the fields of its formats give, and what they stand for (R104, R105, R119,
R120, R122, R123, R128, R132, R134, R139, R225). -/
def Obligations.SpecWordsDecode : Prop :=
  decodeSlot .a 0x00118C40 none = .ok (.add 0 false 3 3 2) ∧
  decodeSlot .b 0x0192800B none = .ok (.movi 0 false 5 11) ∧
  decodeSlot .a 0x02448866 none = .ok (.sel 0 false 9 2 3 6) ∧
  decodeSlot .b 0x02B21C24 none = .ok (.cmpiEq 0 false 2 7 36) ∧
  decodeSlot .b 0x04408011 none = .ok (.mfs 0 false 1 17) ∧
  decodeSlot .a 0x04628003 none = .ok (.loop 0 5 3) ∧
  decodeSlot .a 0x54000018 none = .ok (.b 5 false 24) ∧
  decodeSlot .a 0x04700000 none = .ok (.halt 0 false) ∧
  decodeSlot .a 0x04900000 none = .ok (.rett 0 false) ∧
  decodeSlot .m 0x00BC1C00 none = .ok (.st64 0 false 24 7 0) ∧
  decodeSlot .m 0x00551000 none = .ok (.ldI32 0 false 10 4 0) ∧
  decodeMicro 0x7B000000 = .ok (.lpParam 3) ∧
  decodeMicro 0xA0000007 = .ok (.zacc 7) ∧
  decodeMicro 0xB0070030 = .ok (.anch 7 0x30)

/-- A slot's word is refused as unassigned exactly when its opcode is one of those that R107 to R109 leave unassigned in the
slot's class, whatever its other bits and the extension word are; a micro-word exactly when its MOP is one of the two that R225
leaves reserved. -/
def Obligations.UnassignedOpcodesRefused : Prop :=
  ∀ (w : Lane) (x : Option Lane),
    let op := (opOf w).toNat
    let within (l : List (Nat × Nat)) : Prop := ∃ p ∈ l, p.1 ≤ op ∧ op ≤ p.2
    (decodeSlot .a w x = .error .unassigned ↔ within [(0x31, 0x3F), (0x4A, 0x7F)]) ∧
    (decodeSlot .b w x = .error .unassigned ↔ within [(0x31, 0x3F), (0x46, 0x7F)]) ∧
    (decodeSlot .m w x = .error .unassigned ↔
      within [(0x0C, 0x0F), (0x13, 0x17), (0x1A, 0x1F), (0x26, 0x2F), (0x34, 0x7F)]) ∧
    (decodeSlot .e w x = .error .unassigned ↔
      within [(0x07, 0x0F), (0x15, 0x17), (0x1B, 0x1F), (0x27, 0x27), (0x2B, 0x2F), (0x32, 0x37), (0x3A, 0x3F),
        (0x47, 0x7F)]) ∧
    (decodeMicro w = .error .unassigned ↔ 14 ≤ (w.extractLsb' 28 4).toNat)

/-- `nop` (R137): opcode 0x00 in slots A and B, with every operand field 0, has no effect; with an operand field that is not 0
it is refused as reserved. -/
def Obligations.NopDoesNothing : Prop :=
  ∀ (w : Lane) (s : State) (c : SlotClass), c = .a ∨ c = .b → opOf w = 0 →
    (w.extractLsb' 0 20 ≠ 0 → decodeSlot c w none = .error .reserved) ∧
    (w.extractLsb' 0 20 = 0 → ∃ g q, decodeSlot c w none = .ok (.nop g q none) ∧ exec (.nop g q none) s = .next s)

/-! ### The step -/

/-- A control processor's turn issues what the words at the pc decode to: the context chosen has words there, its slots are
those that the words give under the header and the slot bases, each read by the decoder of its class, and the step is the
slots' instructions in their order, then the end of the bundle, then the next turn (R41, R43, R101, R103, R110); where the
translation of the bundle's access faults, the trap is taken instead (R320, R331). The turn is the model's (log entry 1). -/
def Obligations.StepIssuesBundle : Prop :=
  ∀ (s : State) (c : Fin 4) (len : Nat) (slots : List Slot) (tie : Option (Fin 4)), s.turn.phase = .cp →
    ((s.pairTurn s.turn.core).prepareAll s.turn.core).choose s.turn.core = some ((c, len, slots), tie) →
    let p := (s.pairTurn s.turn.core).prepareAll s.turn.core
    let id : CtxId := { core := s.turn.core, ctx := c }
    let x := p.ctx id
    let t := (p.clearStalls s.turn.core).onCore s.turn.core fun k => { k with lastTie := tie.getD k.lastTie }
    (∃ ws, bundleAt (p.codeOf x) x.pc = some ws ∧ ws.length = len ∧ parseBundle x.base x.baseExt ws = .ok slots) ∧
    (∀ sl ∈ slots, decodeSlot (slotClass sl.n) sl.word sl.ext = .ok sl.ins) ∧
    (slots ≠ [] → t.bundleXlat id len slots = none →
      ∀ u, execAll ((effectOrder slots).map (·.ins)) (t.openBundle id len slots) = .next u →
        step s = .next (if (u.ctx id).admitted then u.endBundle id else u).advance) ∧
    (slots ≠ [] → ∀ f, t.bundleXlat id len slots = some f → step s = .next (t.takeTrap id f).advance) ∧
    (slots = [] → step s = .next (((({ t with cur := id } : State).beginBundle id 1).endBundle id).advance))

/-- The other turns, which are the model's (log entry 1). The array's runs the micro-operation that the decoder reads at the
running call's micro-address, on the state in which a load and the start of a call have had their turn, or one cycle of a pass or
of what the call is busy with, and then one array cycle and what lands (R224 to R226). Every other turn runs its agent's events in
order; an event whose time the spec leaves open happens in the turns that a free choice takes (R2, R9). The monitor's turn ends
the cycle. In the host's turn the first event of the inbox whose cycle has come is taken, after an access to the host's own memory
(the inbox and the accesses are the model's, log entries 2 and 39); a mailbox command waits while the mailbox is at another
(R282). -/
def Obligations.StepRunsEvents : Prop :=
  ∀ (s t : State), let n := s.turn.core
    (∀ (s1 s2 : State) (r : MxCall) (i : Instr), s.turn.phase = .array →
      execAll [.routineLoad n, .routineCallStart n] s = .next s1 → (s1.core n).mx.run = some r → r.passLeft = 0 →
      r.busy = 0 → decodeMicro ((s1.core n).microWord r r.pc) = .ok i →
      exec i { s1 with cur := { core := n, ctx := r.item.ctx } } = .next s2 →
      execAll [.arrayCycle n, .accumulateLand n] s2 = .next t → step s = .next t.advance) ∧
    (∀ s1 s2 : State, s.turn.phase = .array → execAll [.routineLoad n, .routineCallStart n] s = .next s1 →
      (s1.core n).microNext = none →
      s2 = s1.onCore n (fun k => { k with mx := { k.mx with run := k.mx.run.map fun r => { r with busy := r.busy - 1 } } }) →
      execAll [.arrayCycle n, .accumulateLand n] s2 = .next t → step s = .next t.advance) ∧
    (∀ l, (s.turn.phase = .slots ∧ l = [.slotTableEffect n]) ∨
      (s.turn.phase = .readout ∧ l = [.readoutRowDeliver n 0, .readoutRowDeliver n 1]) ∨
      (∃ e, s.turn.phase = .engine e ∧
        l = if s.readyAt 0 then [.streamCommandTake n e, .streamRetry n e, .indexLookup n e, .fillWindow n e, .drainSample n e,
             .copyUnit n e, .yarrowGather n e, .yarrowPool n e, .yarrowScatterAdd n e] else []) ∨
      (s.turn.phase = .attar ∧ l = (List.finRange 32).map (.attarComplete n)) ∨
      (s.turn.phase = .remote ∧ l = if s.readyAt 0 then [.remoteWritePerform n] else []) ∨
      (s.turn.phase = .grid ∧
        l = [.landingAfterLastEnd n, .gridWord n, .grunPerform n, .gridGrant n, .configurationLoad n, .gsetApply n,
             .grunStart n, .readoutSnapshot n 0, .readoutSnapshot n 1]) ∨
      (∃ c, s.turn.phase = .tick c ∧ l = [.tickStep { core := n, ctx := c }]) ∨
      (∃ c, s.turn.phase = .post c ∧
        l = (if s.readyAt 0 then [.launchPost { core := n, ctx := c }] else []) ++
            (if s.readyAt 1 then [.deviceReadReturn { core := n, ctx := c }] else []) ++
            [.barrierRelease { core := n, ctx := c }, .syncRestart { core := n, ctx := c },
             .contextRelease { core := n, ctx := c }]) ∨
      (s.turn.phase = .place ∧
        l = (List.range 128).map (fun q => .aging (BitVec.ofNat 7 q)) ++ if s.readyAt 0 then [.launchPlacement] else []) ∨
      (s.turn.phase = .memory ∧
        l = ((List.range s.posted.length).filter s.readyAt).filterMap fun i => (s.posted[i]?).map fun p =>
          match p.kind with
          | .store | .unit _ _ => .deviceWritePerform p.id
          | .cell => .cellAddPerform p.id
          | _ => .atomicPerform p.id) →
      execAll l s = .next t → step s = .next t.advance) ∧
    (s.turn.phase = .monitor →
      execAll ((if s.readyAt 0 then [.faultRecordPost] else []) ++
        (if s.readyAt 1 then s.kernels.map fun k => .kernelComplete k.kid else []) ++
        if s.readyAt 2 then (List.range 64).map fun d => .invalidationPerform (BitVec.ofNat 6 d) else []) s = .next t →
      step s = .next t.endCycle.advance ∧ t.endCycle.cycle = t.cycle + 1) ∧
    (s.turn.phase = .host →
      let h := s.hostOwn
      ((∀ c a r, s.hostMem = (c, a) :: r → s.cycle < c) → h = s) ∧
      (∀ c i r, h.inbox = (c, i) :: r → c ≤ h.cycle → h.waitsForMailbox i = false → isOutside i = true →
        exec i { h with inbox := r } = .next t → step s = .next t.advance) ∧
      (∀ c i r, h.inbox = (c, i) :: r → h.cycle < c ∨ h.waitsForMailbox i = true → step s = .next h.advance) ∧
      (h.inbox = [] → step s = .next h.advance))

/-- The machine never stops: from every state, those too that no run reaches, the step answers a next state, so no instruction,
micro-operation or event ends in a fault or a refusal of the model; what the part detects is taken by the context or held against
it (R110, R224, R293, R298). -/
def Obligations.StepAnswersNext : Prop := ∀ s : State, ∃ t, step s = .next t

/-- Device memory keeps its canonical form in every step, so that equal memories are equal data (log entry 4). -/
def Obligations.StepKeepsMemoryCanonical : Prop := ∀ s t : State, s.sound → step s = .next t → t.sound

/-- What reset leaves: the canonical form of device memory, of which `StepKeepsMemoryCanonical` speaks (the model's, log entry 4);
where the spec gives it, SLOTTAB all round-robin and not strict (R44, R98), no owner of a sequence entry (R73), queue blocks and
BOOTST 0 (R273, R274, R283) and PLIM 2,400 W (R281); and the model's choices where the spec gives no value, no port up, the clock
at 850 MHz, no domain, accumulator rows with anchor 48 and no context (log entry 14). -/
def Obligations.ResetValues : Prop :=
  State.reset.sound ∧
  (∀ n i, (h : i < 32) → ((State.reset.core n).table[i]'h) = 4) ∧
  (∀ n, (State.reset.core n).strict = false) ∧
  (∀ n i, (h : i < 32) → ((State.reset.core n).seqs[i]'h).owner = none) ∧
  (∀ n i, (h : i < 1024) → ((State.reset.core n).acc[i]'h).anchor = 48) ∧
  (∀ q, (State.reset.queue q).en = false ∧ (State.reset.queue q).head = 0 ∧ (State.reset.queue q).tail = 0 ∧
    (State.reset.queue q).stop = false) ∧
  (∀ d, (State.reset.domain d).live = false) ∧
  (∀ p, (h : p < 16) → ((State.reset.ports[p]'h).state = 0)) ∧
  State.reset.bootst = 0 ∧ State.reset.plim = 2400 ∧ State.reset.clk = 850 ∧
  (∀ c : CtxId, (State.reset.ctx c).live = false)

/-! ### Scalar instructions (R95, R106, R110 to R124) -/

/-- The results of R117, each with its latency; 64-bit values, modulo 2^64, signed where the mnemonic has no n (R114). -/
def Obligations.ArithmeticResults : Prop :=
  ∀ (s : State) (g : Pred) (q : Bool) (d a b : Reg), s.me.rp g = true →
    let A := s.me.rx a
    let B := s.me.rx b
    let k := B.toNat % 64
    gives (.add g q d a b) s (.x d) 1 q (fun v => v.toNat = (A.toNat + B.toNat) % 2 ^ 64) ∧
    gives (.sub g q d a b) s (.x d) 1 q (fun v => (v.toNat + B.toNat) % 2 ^ 64 = A.toNat) ∧
    gives (.mul g q d a b) s (.x d) 3 q (fun v => v.toNat = A.toNat * B.toNat % 2 ^ 64) ∧
    gives (.min g q d a b) s (.x d) 1 q (fun v => v.toInt = min A.toInt B.toInt) ∧
    gives (.max g q d a b) s (.x d) 1 q (fun v => v.toInt = max A.toInt B.toInt) ∧
    gives (.minn g q d a b) s (.x d) 1 q (fun v => v.toNat = min A.toNat B.toNat) ∧
    gives (.maxn g q d a b) s (.x d) 1 q (fun v => v.toNat = max A.toNat B.toNat) ∧
    gives (.and g q d a b) s (.x d) 1 q (fun v => ∀ j, v.getLsbD j = (A.getLsbD j && B.getLsbD j)) ∧
    gives (.or g q d a b) s (.x d) 1 q (fun v => ∀ j, v.getLsbD j = (A.getLsbD j || B.getLsbD j)) ∧
    gives (.xor g q d a b) s (.x d) 1 q (fun v => ∀ j, v.getLsbD j = (A.getLsbD j != B.getLsbD j)) ∧
    gives (.andn g q d a b) s (.x d) 1 q (fun v => ∀ j, v.getLsbD j = (A.getLsbD j && !B.getLsbD j)) ∧
    gives (.shl g q d a b) s (.x d) 1 q (fun v => v.toNat = A.toNat * 2 ^ k % 2 ^ 64) ∧
    gives (.shr g q d a b) s (.x d) 1 q (fun v => v.toNat = A.toNat / 2 ^ k) ∧
    gives (.sra g q d a b) s (.x d) 1 q (fun v => v.toInt = A.toInt / 2 ^ k)

/-- Division and remainder for every operand pair, with latency 12, and the high halves of products, with latency 3; no operand
pair traps or sets a flag (R117, R118). The quotients truncate toward zero; signed 2^63 is −2^63 modulo 2^64. -/
def Obligations.DivisionResults : Prop :=
  ∀ (s : State) (g : Pred) (q : Bool) (d a b : Reg), s.me.rp g = true →
    let A := s.me.rx a
    let B := s.me.rx b
    gives (.div g q d a b) s (.x d) 12 q (fun v =>
      (B = 0 → v = 0xFFFFFFFFFFFFFFFF) ∧ (A.toInt = -2 ^ 63 ∧ B.toInt = -1 → v.toInt = -2 ^ 63) ∧
      (B ≠ 0 ∧ ¬(A.toInt = -2 ^ 63 ∧ B.toInt = -1) → v.toInt = A.toInt.tdiv B.toInt)) ∧
    gives (.rem g q d a b) s (.x d) 12 q (fun v =>
      (B = 0 → v = A) ∧ (A.toInt = -2 ^ 63 ∧ B.toInt = -1 → v = 0) ∧
      (B ≠ 0 ∧ ¬(A.toInt = -2 ^ 63 ∧ B.toInt = -1) → v.toInt = A.toInt - B.toInt * A.toInt.tdiv B.toInt)) ∧
    gives (.divn g q d a b) s (.x d) 12 q (fun v =>
      (B = 0 → v = 0xFFFFFFFFFFFFFFFF) ∧ (B ≠ 0 → v.toNat = A.toNat / B.toNat)) ∧
    gives (.remn g q d a b) s (.x d) 12 q (fun v =>
      (B = 0 → v = A) ∧ (B ≠ 0 → v.toNat = A.toNat - B.toNat * (A.toNat / B.toNat))) ∧
    gives (.mulh g q d a b) s (.x d) 3 q (fun v => v.toInt = A.toInt * B.toInt / 2 ^ 64) ∧
    gives (.mulhn g q d a b) s (.x d) 3 q (fun v => v.toNat = A.toNat * B.toNat / 2 ^ 64)

/-- The immediate forms, `movi`, `lhi`, extensions and counts, with latency 1 (R119 to R121). -/
def Obligations.UnaryResults : Prop :=
  ∀ (s : State) (g : Pred) (q : Bool) (d a : Reg) (i : BitVec 10) (k : BitVec 6) (c : BitVec 15), s.me.rp g = true →
    let A := s.me.rx a
    gives (.addi g q d a i) s (.x d) 1 q (fun v => v = A + BitVec.ofInt 64 i.toInt) ∧
    gives (.shli g q d a k) s (.x d) 1 q (fun v => v.toNat = A.toNat * 2 ^ k.toNat % 2 ^ 64) ∧
    gives (.shri g q d a k) s (.x d) 1 q (fun v => v.toNat = A.toNat / 2 ^ k.toNat) ∧
    gives (.srai g q d a k) s (.x d) 1 q (fun v => v.toInt = A.toInt / 2 ^ k.toNat) ∧
    gives (.movi g q d c) s (.x d) 1 q (fun v => v.toInt = c.toInt) ∧
    gives (.lhi g q d c) s (.x d) 1 q (fun v => v.toNat = ((s.me.rx d).toNat * 2 ^ 15 + c.toNat) % 2 ^ 64) ∧
    gives (.sxI8 g q d a) s (.x d) 1 q (fun v => v.toInt = (A.toInt).bmod (2 ^ 8)) ∧
    gives (.sxI16 g q d a) s (.x d) 1 q (fun v => v.toInt = (A.toInt).bmod (2 ^ 16)) ∧
    gives (.sxI32 g q d a) s (.x d) 1 q (fun v => v.toInt = (A.toInt).bmod (2 ^ 32)) ∧
    gives (.zxN8 g q d a) s (.x d) 1 q (fun v => v.toNat = A.toNat % 2 ^ 8) ∧
    gives (.zxN16 g q d a) s (.x d) 1 q (fun v => v.toNat = A.toNat % 2 ^ 16) ∧
    gives (.zxN32 g q d a) s (.x d) 1 q (fun v => v.toNat = A.toNat % 2 ^ 32) ∧
    gives (.clz g q d a) s (.x d) 1 q (fun v => v.toNat ≤ 64 ∧ A.toNat < 2 ^ (64 - v.toNat) ∧
      (v.toNat < 64 → 2 ^ (63 - v.toNat) ≤ A.toNat)) ∧
    gives (.ctz g q d a) s (.x d) 1 q (fun v => v.toNat ≤ 64 ∧ (∀ j, j < v.toNat → A.getLsbD j = false) ∧
      (v.toNat < 64 → A.getLsbD v.toNat = true)) ∧
    gives (.popc g q d a) s (.x d) 1 q (fun v => v.toNat = ((List.range 64).filter fun j => A.getLsbD j).length)

/-- `sel`, the compares and the predicate operations, with latency 1: a compare's result and its complement go to the two
predicates of the pair, a predicate operation's to the single pD (R122 to R124; see `ResultsLand` for the pair). -/
def Obligations.SelectAndPredicateResults : Prop :=
  ∀ (s : State) (g : Pred) (q : Bool) (d a b : Reg) (f h k : Pred) (n : PredPair) (i : BitVec 10), s.me.rp g = true →
    let A := s.me.rx a
    let B := s.me.rx b
    let I : Word := BitVec.ofInt 64 i.toInt
    gives (.sel g q d a b f) s (.x d) 1 q (fun v => v = if s.me.rp f then A else B) ∧
    gives (.cmpEq g q n a b) s (.pair n) 1 q (fun v => (v = 1 ∧ A = B) ∨ (v = 0 ∧ A ≠ B)) ∧
    gives (.cmpNe g q n a b) s (.pair n) 1 q (fun v => (v = 1 ∧ A ≠ B) ∨ (v = 0 ∧ A = B)) ∧
    gives (.cmpLt g q n a b) s (.pair n) 1 q (fun v => (v = 1 ∧ A.toInt < B.toInt) ∨ (v = 0 ∧ B.toInt ≤ A.toInt)) ∧
    gives (.cmpLe g q n a b) s (.pair n) 1 q (fun v => (v = 1 ∧ A.toInt ≤ B.toInt) ∨ (v = 0 ∧ B.toInt < A.toInt)) ∧
    gives (.cmpLtn g q n a b) s (.pair n) 1 q (fun v => (v = 1 ∧ A.toNat < B.toNat) ∨ (v = 0 ∧ B.toNat ≤ A.toNat)) ∧
    gives (.cmpLen g q n a b) s (.pair n) 1 q (fun v => (v = 1 ∧ A.toNat ≤ B.toNat) ∨ (v = 0 ∧ B.toNat < A.toNat)) ∧
    gives (.cmpiEq g q n a i) s (.pair n) 1 q (fun v => (v = 1 ∧ A = I) ∨ (v = 0 ∧ A ≠ I)) ∧
    gives (.cmpiNe g q n a i) s (.pair n) 1 q (fun v => (v = 1 ∧ A ≠ I) ∨ (v = 0 ∧ A = I)) ∧
    gives (.cmpiLt g q n a i) s (.pair n) 1 q (fun v => (v = 1 ∧ A.toInt < i.toInt) ∨ (v = 0 ∧ i.toInt ≤ A.toInt)) ∧
    gives (.cmpiLe g q n a i) s (.pair n) 1 q (fun v => (v = 1 ∧ A.toInt ≤ i.toInt) ∨ (v = 0 ∧ i.toInt < A.toInt)) ∧
    gives (.cmpiLtn g q n a i) s (.pair n) 1 q (fun v => (v = 1 ∧ A.toNat < I.toNat) ∨ (v = 0 ∧ I.toNat ≤ A.toNat)) ∧
    gives (.cmpiLen g q n a i) s (.pair n) 1 q (fun v => (v = 1 ∧ A.toNat ≤ I.toNat) ∨ (v = 0 ∧ I.toNat < A.toNat)) ∧
    gives (.pand g q f h k) s (.pred f) 1 q (fun v => v = if s.me.rp h && s.me.rp k then 1 else 0) ∧
    gives (.por g q f h k) s (.pred f) 1 q (fun v => v = if s.me.rp h || s.me.rp k then 1 else 0) ∧
    gives (.pxor g q f h k) s (.pred f) 1 q (fun v => v = if s.me.rp h != s.me.rp k then 1 else 0) ∧
    gives (.pmov g q f h) s (.pred f) 1 q (fun v => v = if s.me.rp h then 1 else 0)

/-- Results in flight (R95, R110, R113): one with latency `n` lands at step 1 of the `n`-th bundle after its own, and not
before; of several that land at one bundle the later issued one stays; a compare's two predicates get the value and its
complement; and a result for x0, p0, p1 or the pair of both never enters flight (the model's reading, log entry 21). x0 reads 0, p0
true and p1 false. The last
clause is the frame of every instruction whose statement says that it only puts a result in flight: no register, no other
context, no core and no memory changes (R114). -/
def Obligations.ResultsLand : Prop :=
  (∀ (x : Ctx) (r : Reg) (v : Word) (n : Nat) (q : Bool), r ≠ 0 → 0 < n → x.land = [] →
    let y := x.enter (.x r) v n q
    (∀ k, k < n → (arrivals k y.toBlock).x = x.x) ∧ (arrivals n y.toBlock).x = x.x.set r.toNat v r.isLt ∧
      (arrivals n y.toBlock).p = x.p ∧ (arrivals n y.toBlock).land = []) ∧
  (∀ (b : Block) (l : List LandRec) (r : Reg) (v : Word) (q : Bool), r ≠ 0 →
    b.land = l ++ [{ dest := .x r, value := v, rem := 0, sq := q }] → (b.arrive').x[r.toNat]'r.isLt = v) ∧
  (∀ (b : Block) (n : PredPair) (v : Word), n ≠ 0 →
    ((b.write (.pair n) v).p).getLsbD (2 * n.toNat) = v.getLsbD 0 ∧
    ((b.write (.pair n) v).p).getLsbD (2 * n.toNat + 1) = !v.getLsbD 0 ∧
    ∀ j, j < 16 → j ≠ 2 * n.toNat → j ≠ 2 * n.toNat + 1 → ((b.write (.pair n) v).p).getLsbD j = b.p.getLsbD j) ∧
  (∀ (b : Block) (p : Pred) (v : Word), 2 ≤ p.toNat →
    ((b.write (.pred p) v).p).getLsbD p.toNat = v.getLsbD 0 ∧
    ∀ j, j < 16 → j ≠ p.toNat → ((b.write (.pred p) v).p).getLsbD j = b.p.getLsbD j) ∧
  (∀ (x : Ctx) (d : Dest) (v : Word) (n : Nat) (q : Bool),
    d = .x 0 ∨ d = .pair 0 ∨ d = .pred 0 ∨ d = .pred 1 → x.enter d v n q = x) ∧
  (∀ x : Ctx, x.rx 0 = 0 ∧ x.rp 0 = true ∧ x.rp 1 = false) ∧
  (∀ (s : State) (d : Dest) (v : Word) (n : Nat) (q : Bool),
    let t := s.setMe (s.me.enter d v n q)
    onlyCtx s.cur s t ∧ sameRegisters s.me t.me ∧ { t.me with land := s.me.land } = s.me ∧
      (∀ o, o ≠ s.cur → t.ctx o = s.ctx o) ∧ (∀ a, Memory.get t.mem a = Memory.get s.mem a) ∧
      (∀ m a, Memory.get (t.core m).cp a = Memory.get (s.core m).cp a) ∧
      (∀ m a, Memory.get (t.core m).plane a = Memory.get (s.core m).plane a))

/-- A slot whose guard reads false has no effect: the state stays as it is, except that a transfer that is not taken still has
its delay bundle; and such a slot keeps no bundle from issuing (R106). -/
def Obligations.FalseGuardHasNoEffect : Prop :=
  (∀ (s : State) (i : Instr) (g : Pred), guardOf i = some g → s.me.rp g = false →
    exec i s = .next (if isTransfer i then s.setMe { s.me with xfer := .untaken } else s)) ∧
  (∀ x : Ctx, x.xfer = .untaken → x.jump = none → x.outer.active = false → x.inner.active = false → x.delay = .none →
    x.close.pc = x.next ∧ x.close.delay = .untaken) ∧
  (∀ (s : State) (c : CtxId) (len : Nat) (slots : List Slot), s.verdict c = .blocked len slots →
    ∃ sl ∈ slots, ((s.ctx c).begin len).rp (fG sl.word) = true ∧ slotWaits sl.ins (s.beginBundle c len) = true)

/-! ### Control transfers, loops and the end of a bundle (R112, R127 to R136) -/

/-- Transfers of control (R112, R127 to R132). A taken branch, `jt` or `rett` notes its target, the next bundle is the delay bundle,
and nothing else changes; `jt` reads its target from the table word at xA + 4 × min(xB, n), zero-extended. A call pushes the offset
of the bundle after the delay bundle and a `ret` pops it; with eight entries resident a call's oldest goes to the spill area, and a
`ret` brings the last spilled one back as the oldest; each costs a cycle. -/
def Obligations.TransfersTaken : Prop :=
  (∀ (s : State) (g : Pred) (q : Bool) (i : BitVec 20) (a b : Reg) (n : BitVec 5), s.me.rp g = true →
     let taken (t : Transfer) : Out := .next (s.setMe { s.me with xfer := .taken t })
     exec (.b g q i) s = taken (.goto (s.me.here + BitVec.ofInt 64 (4 * i.toInt))) ∧
     exec (.bi g q a) s = taken (.goto (s.me.rx a)) ∧
     exec (.rett g q) s = taken (.trapReturn s.me.epc) ∧
     (∀ p, slotIssues (.jt g q a b n) g s →
       cpPhys s.myCore s.me (s.me.rx a + BitVec.ofNat 64 (4 * min (s.me.rx b).toNat n.toNat)).toNat 4 = some p →
       (∀ j, j < 4 → Owners.get s.myCore.cpOwner (p + j) = s.keyOf s.me) →
       exec (.jt g q a b n) s = taken (.goto (BitVec.ofNat 64 (leNat (Memory.getBytes s.myCore.cp p 4)))))) ∧
  (∀ (s : State) (g : Pred) (q : Bool) (i : BitVec 20) (a : Reg) (ws : List Lane),
     let x := s.me
     let back := x.next + BitVec.ofNat 64 (4 * ws.length)
     let pushes (ins : Instr) (t : Word) : Prop := slotIssues ins g s → bundleAt (s.codeOf x) x.next = some ws →
       (x.rstk.length < 8 → exec ins s = .next (s.setMe { x with rstk := x.rstk ++ [back], xfer := .taken (.goto t) })) ∧
       (∀ old rest, x.rstk = old :: rest → rest.length = 7 → ∃ u, exec ins s = .next u ∧ u.me.rstk = rest ++ [back] ∧
         u.me.spilled = x.spilled + 1 ∧ u.me.stall = true ∧ u.me.xfer = .taken (.goto t) ∧ sameRegisters x u.me ∧
         (let p := 0x3C000 + 0x1000 * s.cur.ctx.val + 8 * x.spilled
          leNat (Memory.getBytes u.myCore.cp p 8) = old.toNat ∧ sameCpBytes s.myCore u.myCore p 8))
     pushes (.call g q i) (x.here + BitVec.ofInt 64 (4 * i.toInt)) ∧ pushes (.calli g q a) (x.rx a)) ∧
  (∀ (s : State) (g : Pred) (q : Bool) (v : Word) (rest : List Word), slotIssues (.ret g q) g s → s.me.rstk = rest ++ [v] →
     let x := s.me
     (x.spilled = 0 → exec (.ret g q) s = .next (s.setMe { x with rstk := rest, xfer := .taken (.goto v) })) ∧
     (∀ n, x.spilled = n + 1 →
       let p := 0x3C000 + 0x1000 * s.cur.ctx.val + 8 * n
       (∀ j, j < 8 → Owners.get s.myCore.cpOwner (p + j) = s.keyOf x) →
       exec (.ret g q) s = .next (s.setMe { x with
         rstk := BitVec.ofNat 64 (leNat (Memory.getBytes s.myCore.cp p 8)) :: rest, spilled := n, stall := true
         xfer := .taken (.goto v) })))

/-- The end of a bundle (R112, R127, R133, R134, R296, R317). After the delay bundle of a taken transfer the context goes on at the
target: the results in flight marked Q are discarded, the value of an access marked Q too when it comes, the others stay, and no
register changes; an invalid target is fault 0x08 with EPC and FADDR the target and BTARG 0, before which the value of an access
of the bundle is waited for (which returns are so checked is the model's reading, log entry 13). Any other bundle is followed by the
next one in address order, unless a loop step returns to a body's first bundle or `loop` redirects the context (their order is the
model's reading, log entry 23); the next one is a delay bundle when this one held a transfer. The empty bundle does nothing but
land what is due and end. -/
def Obligations.BundlesEnd : Prop :=
  ∀ (s : State) (c : CtxId),
    let u := s.endBundle c
    let x := s.ctx c
    let y := u.ctx c
    (∀ t, x.delay = .taken (.goto t) → validTarget (s.codeOf x) t = true →
      onlyCtx c s u ∧ y.pc = t ∧ y.delay = .none ∧ y.land = x.land.filter (fun r => !r.sq) ∧ y.xfer = .none ∧
        y.read = x.read.map (fun r => if r.sq then { r with dest := 0 } else r) ∧ sameRegisters x y ∧ y.rstk = x.rstk) ∧
    (∀ t : Transfer, x.delay = .taken t → validTarget (s.codeOf x) t.target = false →
      (x.read = none → y.cause = 0x08 ∧ y.epc = t.target ∧ y.faddr = t.target ∧ y.btarg = 0 ∧ y.x = x.x ∧ y.p = x.p) ∧
      (x.read ≠ none → u = s.setCtx c { x with closing := true, admitted := false })) ∧
    ((∀ t, x.delay ≠ .taken t) →
      let l := loopStep x.outer x.inner x.here false
      onlyCtx c s u ∧ y.delay = x.xfer ∧ y.land = x.land ∧ sameRegisters x y ∧ y.outer = l.outer ∧ y.inner = l.inner ∧
        y.pc = match l.back, x.jump with
          | some t, _ => t
          | none, some t => t
          | none, none => x.next) ∧
    exec .emptyBundle s = .next ((s.beginBundle s.cur 1).endBundle s.cur)

/-- Hardware loops (R133, R134). `loop` with a count of 0 starts none and goes past the end bundle; otherwise it starts the outer
loop, or the inner one while the outer is active. At a bundle's offset only loops that are active and end there step, the inner
one first; the outer one only when the inner one finishes; in the delay bundle of a taken transfer the first of them counts and
nothing returns. That a `loop` issued while only the inner loop is active starts the outer one is the model's (log entry 49). -/
def Obligations.HardwareLoops : Prop :=
  (∀ (s : State) (g : Pred) (d : Reg) (i : BitVec 15), slotIssues (.loop g d i) g s →
    let x := s.me
    let n := (x.rx d).extractLsb' 0 32
    let last := x.here + BitVec.ofNat 64 (4 * i.toNat)
    let l : HwLoop := { active := true, count := n, first := x.next, last := last }
    (n = 0 → ∀ ws, bundleAt (s.codeOf x) last = some ws →
      exec (.loop g d i) s = .next (s.setMe { x with jump := some (last + BitVec.ofNat 64 (4 * ws.length)) })) ∧
    (n ≠ 0 → x.outer.active = false → exec (.loop g d i) s = .next (s.setMe { x with outer := l })) ∧
    (n ≠ 0 → x.outer.active = true → exec (.loop g d i) s = .next (s.setMe { x with inner := l }))) ∧
  (∀ (o i : HwLoop) (here : Word) (taken : Bool),
    let l := loopStep o i here taken
    let ends (k : HwLoop) : Prop := k.active = true ∧ k.last = here
    let counted (k : HwLoop) : HwLoop := { k with count := k.count - 1, active := decide (k.count - 1 ≠ 0) }
    (¬ends o → ¬ends i → l = { outer := o, inner := i, back := none }) ∧
    (ends i → taken = true → l = { outer := o, inner := counted i, back := none }) ∧
    (ends i → taken = false → i.count ≠ 1 → l = { outer := o, inner := counted i, back := some i.first }) ∧
    (ends i → taken = false → i.count = 1 → ¬ends o → l = { outer := o, inner := counted i, back := none }) ∧
    (ends i → taken = false → i.count = 1 → ends o → o.count ≠ 1 →
      l = { outer := counted o, inner := counted i, back := some o.first }) ∧
    (ends i → taken = false → i.count = 1 → ends o → o.count = 1 →
      l = { outer := counted o, inner := counted i, back := none }) ∧
    (¬ends i → ends o → taken = true → l = { outer := counted o, inner := i, back := none }) ∧
    (¬ends i → ends o → taken = false → o.count ≠ 1 → l = { outer := counted o, inner := i, back := some o.first }) ∧
    (¬ends i → ends o → taken = false → o.count = 1 → l = { outer := counted o, inner := i, back := none }))

/-- `halt` (R39, R111, R135): with no command left the pass ends. Every result in flight lands, as if bundles without results
followed until the last has landed; both loops and the return stack are reset; the pc is the kernel's first bundle. With temporal
points left the coordinates advance; otherwise the context ends and triggers, and the grid and its sequence entries are free. The
registers that R39 keeps are kept, and the signals, no slot of which is being drained, are as before. -/
def Obligations.HaltEndsThePass : Prop :=
  ∀ (s : State) (g : Pred) (q : Bool), slotIssues (.halt g q) g s → s.passBusy s.cur = false →
    ∃ t, exec (.halt g q) s = .next t ∧
      let x := s.me
      let y := t.ctx s.cur
      y.pc = 0 ∧ y.delay = .none ∧ y.land = [] ∧ y.parked = [] ∧ y.trapped = false ∧ y.rstk = [] ∧ y.spilled = 0 ∧
      y.outer.active = false ∧ y.inner.active = false ∧ y.faults = [] ∧
      (∀ n, (∀ r ∈ x.land, r.rem < n) → y.x = (arrivals n x.toBlock).x ∧ y.p = (arrivals n x.toBlock).p) ∧
      y.d = x.d ∧ y.k = x.k ∧ y.mp = x.mp ∧ y.now = x.now ∧ y.nowc = x.nowc ∧
      ((∀ m g, x.sig m = some g → ∀ v ∈ g.slots, v.st ≠ .draining) → y.sigs = x.sigs) ∧
      y.tvec = x.tvec ∧ y.flags = x.flags ∧ y.arrive = x.arrive ∧ y.entryValid = x.entryValid ∧
      (∀ o, o.core ≠ s.cur.core → t.ctx o = s.ctx o) ∧ t.mem = s.mem ∧ t.myCore.cp = s.myCore.cp ∧
      (∀ co, odometer (s.loopsOf x) x.coord [5, 4, 3, 2, 1, 0] = some co →
        y.coord = co ∧ y.ended = x.ended ∧ t.myCore.grid = s.myCore.grid ∧ t.myCore.seqs = s.myCore.seqs) ∧
      (odometer (s.loopsOf x) x.coord [5, 4, 3, 2, 1, 0] = none →
        y.ended = true ∧ y.triggered = true ∧ t.myCore.grid.owner ≠ some s.cur.ctx ∧
        ∀ n, (h : n < 32) → (t.myCore.seqs[n]'h).owner ≠ some s.cur.ctx)

/-! ### Traps (R136, R291, R292, R296, R317 to R322) -/

/-- Taking a trap (R317, R318, R321, R322). CAUSE, EPC, BTARG and FADDR are written. With a handler, not trapped before, and a
cause that may reach one: the results in flight and both loops are parked, both loops inactive, the context continues at TVEC, no
register, flag or token changes, and no record is written. With TVEC 0, while trapped, or for a cause that never reaches a
handler, the context stops and its record goes to its domain's fault queue, with the fields of R292; a trap while trapped keeps
the first one's parked state. -/
def Obligations.TakingATrap : Prop :=
  ∀ (s : State) (c : CtxId) (t : TrapInfo),
    let x := s.ctx c
    let u := s.takeTrap c t
    let y := u.ctx c
    y.cause = t.cause ∧ y.epc = t.epc ∧ y.btarg = t.btarg ∧ y.faddr = t.faddr ∧ y.x = x.x ∧ y.p = x.p ∧ y.d = x.d ∧
    y.k = x.k ∧ y.flags = x.flags ∧ y.tvec = x.tvec ∧ y.rstk = x.rstk ∧
    (x.tvec ≠ 0 → x.trapped = false → x.stopped = false → neverHandled t.cause = false →
      onlyCtx c s u ∧ y.parked = x.land ∧ y.land = [] ∧ y.pOuter = x.outer ∧ y.pInner = x.inner ∧
        y.outer.active = false ∧ y.inner.active = false ∧ y.trapped = true ∧ y.stopped = false ∧ y.pc = x.tvec ∧
        y.delay = .none) ∧
    (x.tvec = 0 ∨ x.trapped = true ∨ neverHandled t.cause = true →
      y.stopped = true ∧ (x.trapped = true → y.parked = x.parked ∧ y.land = x.land ∧ y.trapped = true) ∧
        (x.trapped = false → y.parked = x.land ∧ y.land = []) ∧
        ∃ r, u.monq = s.monq ++ [r] ∧ r.dom = x.dom ∧ r.w1 = t.faddr ∧ r.w0.extractLsb' 56 8 = t.cause ∧
          r.w0.extractLsb' 50 6 = x.dom ∧ (r.w0.extractLsb' 48 2).toNat = c.ctx.val ∧
          (r.w0.extractLsb' 39 9).toNat = c.core.val ∧ r.w0.extractLsb' 36 3 = t.source ∧
          r.w0.extractLsb' 33 3 = t.unit ∧ r.w0.getLsbD 32 = (t.btarg != 0) ∧
          r.w0.extractLsb' 0 32 = t.epc.extractLsb' 0 32)

/-- A fault that a bundle's checks find, or as it issues the translation of its access, is precise: in place of the slot's effect
the context takes the trap; EPC is the bundle's offset and BTARG the pending target (R293, R296, R320, R331). A deferred fault is
delivered so at a slot that meets it (R298, R306, R338): one that consumes its command's token, a tap, write or tick that waits on a
sample or slot that the command was to fill or free, an `sclr`, `ckpt` or implicit checkpoint that waits for a suspended command, a
drain or `arrive` that covers its write, a `wait` for a failed `gst`, a `halt`. Of several it is the earliest-issued, once the slot
waits for nothing issued before its command; the others stay pending. The same holds of a bundle, over its slots, and of the end of a
pass. Which bundles meet a fault besides those that R298 and R306 name in words, and the wait for what was issued before, are the
model's reading (log entry 22). -/
def Obligations.PreciseFaultTakesTheTrap : Prop :=
  (∀ (s : State) (i : Instr) (g : Pred) (f : PendFault), guardOf i = some g → s.me.rp g = true → s.me.admitted = false →
    slotCheck i s = none →
    let x := s.me
    let within (l : List (SigNum × Nat × Nat)) (p : SigNum × Nat) : Prop := ∃ r ∈ l, r.1 = p.1 ∧ r.2.1 ≤ p.2 ∧ p.2 ≤ r.2.2
    let meets (h : PendFault) : Prop :=
      (h.kp ≠ 0 ∧ h.kp ∈ consumed i) ∨ (x.tick = none ∧ ∃ p ∈ x.awaits i, within h.fills p) ∨
      (x.tick = none ∧ ∃ p ∈ x.awaitsFree i, within h.frees p) ∨ (h.susp = true ∧ x.implicit i = true) ∨
      (∃ q, i = .halt g q) ∨ (h.susp = true ∧ ∃ q a, i = .ckpt g q a) ∨
      (h.susp = true ∧ ∃ q n a, i = .sclr g q n a ∧ ∃ z ∈ s.myCore.streamsOf s.cur.ctx, z.id = h.id ∧ z.names n = true) ∨
      (h.writes = true ∧ ((∃ q, i = .drainSys g q) ∨ ∃ q a, i = .arriveCl g q a ∨ i = .arriveDie g q a ∨ i = .arriveDev g q a)) ∨
      (h.writes = true ∧ h.atSys = false ∧ ∃ q, i = .drainCl g q ∨ i = .drainDie g q ∨ i = .drainDev g q) ∨
      (h.atSys = true ∧ ∃ q a, i = .waitCl g q a ∨ i = .waitDie g q a ∨ i = .waitDev g q a)
    (f ∈ x.faults → meets f → (∀ h ∈ x.faults, meets h → h = f ∨ f.id < h.id) → (∀ id ∈ s.waitIds i, f.id ≤ id) →
      ∃ t, exec i s = .next t ∧
        let y := t.ctx s.cur
        y.cause = f.cause ∧ y.faddr = f.detail ∧ y.epc = x.here ∧ y.btarg = x.pendingTarget ∧ y.faults = x.faults.erase f ∧
          (y.trapped = true ∨ y.stopped = true) ∧ t.mem = s.mem ∧ ∀ c, c ≠ s.cur → t.ctx c = s.ctx c) ∧
    ((∀ h ∈ x.faults, ¬ meets h) → slotWaits i s = true → exec i s = .next (slotNote i s))) ∧
  (∀ (s : State) (c : CtxId) (ws : List Lane) (slots : List Slot) (f : PendFault),
    let x := s.ctx c
    let b := s.beginBundle c ws.length
    let live := slots.filter fun u => b.me.rp (fG u.word)
    let meets (h : PendFault) : Bool := live.any fun u => b.qualifies u.ins h
    x.readFault = none → bundleAt (s.codeOf x) x.pc = some ws → parseBundle x.base x.baseExt ws = .ok slots →
    bundleRules b.me (ws.headD 0) slots = none → (∀ u ∈ live, slotCheck u.ins b = none) →
    (f ∈ b.me.faults → meets f = true → (∀ h ∈ b.me.faults, meets h = true → h = f ∨ f.id < h.id) →
      (∀ u ∈ live, ∀ id ∈ b.waitIds u.ins, f.id ≤ id) → s.verdict c = .deliver f x.pc x.pendingTarget) ∧
    ((∀ h ∈ b.me.faults, meets h = false) → s.verdict c =
      if live.any (fun u => slotWaits u.ins b) then .blocked ws.length slots else .ready ws.length slots)) ∧
  (∀ (s : State) (c : CtxId) (f : PendFault),
    let x := s.ctx c
    let delivered (epc : Word) : Prop :=
      let y := (s.prepare c).ctx c
      y.cause = f.cause ∧ y.faddr = f.detail ∧ y.epc = epc ∧ y.faults = x.faults.erase f ∧ y.halting = false ∧
        (y.trapped = true ∨ y.stopped = true)
    (∀ epc bt, x.running = true → (s.allowRetry c).verdict c = .deliver f epc bt → delivered epc) ∧
    (x.live = true → x.ended = false → x.stopped = false → x.halting = true → x.readFault = none → f ∈ x.faults →
      (∀ h ∈ x.faults, h = f ∨ f.id < h.id) →
      ((∃ id ∈ ((s.allowRetry c).core c.core).cmdIds c.ctx, id < f.id) → s.prepare c = s.allowRetry c) ∧
      ((∀ id ∈ ((s.allowRetry c).core c.core).cmdIds c.ctx, f.id ≤ id) → delivered x.here))) ∧
  ∀ (s : State) (i : Instr) (g : Pred) (t : TrapInfo), guardOf i = some g → s.me.rp g = true → s.me.admitted = false →
    slotCheck i s = some t ∨
      (slotCheck i s = none ∧ s.slotDue i = none ∧ slotWaits i s = false ∧ slotXlat i s = some t) →
    exec i s = .next (s.takeTrap s.cur t) ∧ t.epc = s.me.here ∧
      t.btarg = (match s.me.delay with
        | .taken u => u.target
        | _ => 0)

/-- `trap n` (R136): CAUSE 0x10, FADDR n, BTARG 0, and EPC where the context would have gone on; with a handler the context
continues there, with what was in flight parked. -/
def Obligations.SoftwareTrap : Prop :=
  ∀ (s : State) (g : Pred) (q : Bool) (n : BitVec 15), s.me.rp g = true → s.me.read = none →
    ∃ t, exec (.trap g q n) s = .next t ∧
      let x := s.me
      let y := t.ctx s.cur
      y.cause = 0x10 ∧ y.faddr.toNat = n.toNat ∧ y.btarg = 0 ∧
      ((∀ u, x.delay ≠ .taken u) → x.outer.active = false → x.inner.active = false → x.jump = none → y.epc = x.next) ∧
      (∀ u, x.delay = .taken (.goto u) → y.epc = u) ∧
      (x.tvec ≠ 0 → x.trapped = false → x.stopped = false → (∀ u, x.delay ≠ .taken u) →
        y.pc = x.tvec ∧ y.trapped = true ∧ y.parked = x.land) ∧
      ((∀ u, x.delay ≠ .taken (.trapReturn u)) →
        sameRegisters { x with cause := y.cause, faddr := y.faddr, btarg := y.btarg, epc := y.epc } y)

/-- `rett` of a trapped context, when its delay bundle has issued and the value of an access of it, waited for, has come (R132,
R319): the handler's results marked Q are discarded and
its others land, the parked results and loops are reinstated, the context is no longer trapped, and goes on at the EPC that
`rett` read, in a delay bundle of a transfer to BTARG when BTARG is not 0; EPC and BTARG stay. -/
def Obligations.TrapReturns : Prop :=
  ∀ (s : State) (c : CtxId) (t : Word), (s.ctx c).delay = .taken (.trapReturn t) →
    validTarget (s.codeOf (s.ctx c)) t = true →
    let x := s.ctx c
    let y := (s.endBundle c).ctx c
    (x.read ≠ none → x.trapped = true → s.endBundle c = s.setCtx c { x with closing := true, admitted := false }) ∧
    (x.read = none ∨ x.trapped = false → onlyCtx c s (s.endBundle c) ∧ y.pc = t ∧ y.epc = x.epc ∧ y.btarg = x.btarg ∧ y.flags = x.flags ∧
      (x.btarg = 0 → y.delay = .none) ∧ (x.btarg ≠ 0 → y.delay = .taken (.goto x.btarg)) ∧
      (x.trapped = true → y.trapped = false ∧ y.land = x.parked ∧ y.parked = [] ∧ y.outer = x.pOuter ∧ y.inner = x.pInner ∧
        (x.land.all (·.sq) = true → y.x = x.x ∧ y.p = x.p) ∧
        (∀ r v, r ≠ 0 → x.land = [{ dest := .x r, value := v, rem := 0, sq := false }] →
          y.x = x.x.set r.toNat v r.isLt)) ∧
      (x.trapped = false → y.land = x.land.filter (fun r => !r.sq) ∧ y.x = x.x ∧ y.p = x.p))

/-- Special registers (R96 to R98, R125, R126). `mfs` gives the register's value, zero-extended, with latency 1. `mts` writes
FLAGS, TVEC, EPC, BTARG, CAUSE and FADDR, each by its low bits; a read-only register, and SLOTTAB written by a context, keep
their values. Bits of FLAGS that events of the same cycle set stay set. -/
def Obligations.SpecialRegisters : Prop :=
  (∀ (s : State) (g : Pred) (q : Bool) (d : Reg) (n : BitVec 5), slotIssues (.mfs g q d n) g s →
     gives (.mfs g q d n) s (.x d) 1 q fun v =>
       (n = 0 → v.toNat = s.me.now.toNat) ∧ (n = 1 → v.toNat = s.me.nowc.toNat) ∧ (n = 2 → v.toNat = s.me.specd.toNat) ∧
       (n = 3 → v.toNat = s.cur.ctx.val) ∧ (n = 4 → v.toNat = s.cur.core.val) ∧
       (n = 5 → v.toNat = s.cur.core.val % 80 / 4) ∧ (n = 6 → v.toNat = s.cur.core.val / 80) ∧
       (n = 7 → v.toNat = s.me.dom.toNat) ∧ (n = 8 → v.toNat = s.me.prio.toNat) ∧ (n = 9 → v.toNat = s.me.flags.toNat) ∧
       (n = 10 → v = s.me.tvec) ∧ (n = 11 → v = s.me.epc) ∧ (n = 12 → v = s.me.btarg) ∧
       (n = 13 → v.toNat = s.me.cause.toNat) ∧ (n = 14 → v = s.me.faddr) ∧ (n = 15 → v.toNat = s.cycle % 2 ^ 64) ∧
       (∀ j, (h : j < 6) → n.toNat = 16 + j → v.toNat = (s.me.coord[j]'h).toNat) ∧
       (∀ j, (h : j < 6) → n.toNat = 24 + j → v.toNat = (s.me.ncoord[j]'h).toNat) ∧
       (n = 31 → v.getLsbD 63 = s.myCore.strict ∧ v.getLsbD 62 = s.myCore.half ∧
         ∀ j, (h : j < 16) → v.extractLsb' (3 * j) 3 =
           s.myCore.table[(if s.myCore.half then 16 else 0) + j]'(by split <;> omega))) ∧
  (∀ (s : State) (g : Pred) (q : Bool) (d : Reg) (n : BitVec 5), s.me.rp g = true →
     let x := s.me
     let v := x.rx d
     let sets (y : Ctx) : Prop := exec (.mts g q d n) s = .next (s.setMe y)
     (n = 9 → ∃ f : BitVec 7, sets { x with flags := f } ∧
       ∀ j, j < 7 → f.getLsbD j = (v.getLsbD j || (decide (x.flagAt = s.cycle) && x.flagNew.getLsbD j))) ∧
     (n = 10 → sets { x with tvec := v }) ∧ (n = 11 → sets { x with epc := v }) ∧
     (n = 12 → sets { x with btarg := v }) ∧ (n = 13 → sets { x with cause := v.setWidth 8 }) ∧
     (n = 14 → sets { x with faddr := v }) ∧ (n.toNat < 9 ∨ 15 ≤ n.toNat → sets x))

/-! ### Memory of the control processor and of the device (R139 to R150) -/

/-- Loads of CP data memory, with latency 3: little-endian, sign-extended or zero-extended (R139, R140). The place is where R100
puts the address; the bytes are of the context's own domain (R258). -/
def Obligations.CpLoads : Prop :=
  ∀ (s : State) (g : Pred) (q : Bool) (d a : Reg) (i : BitVec 10) (p : Nat),
    let at' : Word := s.me.rx a + BitVec.ofInt 64 i.toInt
    let reach (w : Nat) : Prop := cpPhys s.myCore s.me at'.toNat w = some p ∧
      ∀ j, j < w → Owners.get s.myCore.cpOwner (p + j) = s.keyOf s.me
    let bytes (w : Nat) : Nat := leNat (Memory.getBytes s.myCore.cp p w)
    (slotIssues (.ldI8 g q d a i) g s → reach 1 →
      gives (.ldI8 g q d a i) s (.x d) 3 q (fun v => v.toInt = (bytes 1 : Int).bmod (2 ^ 8))) ∧
    (slotIssues (.ldN8 g q d a i) g s → reach 1 →
      gives (.ldN8 g q d a i) s (.x d) 3 q (fun v => v.toNat = bytes 1)) ∧
    (slotIssues (.ldI16 g q d a i) g s → reach 2 →
      gives (.ldI16 g q d a i) s (.x d) 3 q (fun v => v.toInt = (bytes 2 : Int).bmod (2 ^ 16))) ∧
    (slotIssues (.ldN16 g q d a i) g s → reach 2 →
      gives (.ldN16 g q d a i) s (.x d) 3 q (fun v => v.toNat = bytes 2)) ∧
    (slotIssues (.ldI32 g q d a i) g s → reach 4 →
      gives (.ldI32 g q d a i) s (.x d) 3 q (fun v => v.toInt = (bytes 4 : Int).bmod (2 ^ 32))) ∧
    (slotIssues (.ldN32 g q d a i) g s → reach 4 →
      gives (.ldN32 g q d a i) s (.x d) 3 q (fun v => v.toNat = bytes 4)) ∧
    (slotIssues (.ld64 g q d a i) g s → reach 8 →
      gives (.ld64 g q d a i) s (.x d) 3 q (fun v => v.toNat = bytes 8))

/-- Stores to CP data memory (R139, R140): the low bytes of xD stand at the address, little-endian, under the context's domain;
every other byte of the core's data memory, every register and every other core is as before. An access, a load too, that is not
a multiple of its width is fault 0x0A, and one to which R100 gives the context no access 0x0B, each with the address as detail; a
misaligned one is 0x0A wherever it lies (R291, R297). -/
def Obligations.CpStoresAndFaults : Prop :=
  (∀ (s : State) (g : Pred) (q : Bool) (d a : Reg) (i : BitVec 10) (p : Nat),
     let stores (ins : Instr) (w : Nat) : Prop := slotIssues ins g s →
       cpPhys s.myCore s.me (s.me.rx a + BitVec.ofInt 64 i.toInt).toNat w = some p → ∃ t, exec ins s = .next t ∧
         onlyCore s.cur.core s t ∧ t.myCore.ctxs = s.myCore.ctxs ∧ t.myCore.plane = s.myCore.plane ∧
         leNat (Memory.getBytes t.myCore.cp p w) = (s.me.rx d).toNat % 256 ^ w ∧ sameCpBytes s.myCore t.myCore p w ∧
         (∀ j, j < w → Owners.get t.myCore.cpOwner (p + j) = s.keyOf s.me) ∧
         (∀ o, o < p ∨ p + w ≤ o → Owners.get t.myCore.cpOwner o = Owners.get s.myCore.cpOwner o)
     stores (.st8 g q d a i) 1 ∧ stores (.st16 g q d a i) 2 ∧ stores (.st32 g q d a i) 4 ∧ stores (.st64 g q d a i) 8) ∧
  (∀ (s : State) (g : Pred) (q : Bool) (d a : Reg) (i : BitVec 10), s.me.rp g = true → s.me.admitted = false →
     let at' : Word := s.me.rx a + BitVec.ofInt 64 i.toInt
     let faults (ins : Instr) (w : Nat) : Prop :=
       (at'.toNat % w ≠ 0 → exec ins s = .next (s.takeTrap s.cur (s.precise 0x0A 2 at'))) ∧
       (at'.toNat % w = 0 → cpPhys s.myCore s.me at'.toNat w = none →
         exec ins s = .next (s.takeTrap s.cur (s.precise 0x0B 2 at')))
     faults (.ldI8 g q d a i) 1 ∧ faults (.ldN8 g q d a i) 1 ∧ faults (.st8 g q d a i) 1 ∧ faults (.ldI16 g q d a i) 2 ∧
     faults (.ldN16 g q d a i) 2 ∧ faults (.st16 g q d a i) 2 ∧ faults (.ldI32 g q d a i) 4 ∧ faults (.ldN32 g q d a i) 4 ∧
     faults (.st32 g q d a i) 4 ∧ faults (.ld64 g q d a i) 8 ∧ faults (.st64 g q d a i) 8)

/-- Signals from the control processor (R142 to R145): `tld` gives the unit of row 0 of a sample, or the start value past the
written history, with latency 4; `tst` binds an unbound signal and writes the unit; `rst` queues the write for the partner
context, and each takes effect when its bundle issues. -/
def Obligations.SignalAccesses : Prop :=
  ∀ (s : State) (g : Pred) (q : Bool) (d : Reg) (n : SigNum) (l : BitVec 4) (u : BitVec 5) (pos b : BitVec 2)
    (sg : Signal), s.me.sig n = some sg →
    (slotIssues (.tld g q d n l u) g s → gives (.tld g q d n l u) s (.x d) 4 q (fun v =>
      (sg.adv < l.toNat → v = sg.plan.start ++ sg.plan.start) ∧
      (l.toNat ≤ sg.adv → v = (sg.rowAt (sg.adv - l.toNat) 0).extractLsb' (64 * u.toNat) 64))) ∧
    (slotIssues (.tst g q d n l u) g s → ∃ sg', exec (.tst g q d n l u) s = .next (s.setMe (s.me.setSig n (some sg'))) ∧
      sg'.adv = sg.adv ∧ sg'.plan = sg.plan ∧ sg'.bind = (if sg.bind = .unbound then .cp else sg.bind) ∧
      (sg.slots.length = sg.plan.nslots → 0 < sg.plan.nslots → 0 < sg.plan.rows →
        (sg.slot (sg.adv + l.toNat)).st = .free →
        let v := sg'.slot (sg.adv + l.toNat)
        v.tag = sg.adv + l.toNat ∧ v.claim = s.me.now ∧ v.st = (if sg.plan.rows = 1 then .full else .filling) ∧
          ∀ w, w < 32 → (v.data.getD 0 0).extractLsb' (64 * w) 64 =
            if w = u.toNat then s.me.rx d else sg.plan.start ++ sg.plan.start)) ∧
    (slotIssues (.rst g q d n pos b u) g s → ∃ t r, exec (.rst g q d n pos b u) s = .next t ∧
      t.myCore.remote = s.myCore.remote ++ [r] ∧ r.sig = n ∧ r.pos = b.toNat ∧ r.unit = u ∧ r.value = s.me.rx d ∧
      r.ctx = s.cur.ctx ∧ r.point = s.me.point - s.me.point % 4 + pos.toNat ∧ r.held = s.me.ckpting ∧
      t.me = s.me ∧ t.mem = s.mem ∧ t.myCore.cp = s.myCore.cp ∧ t.cmdSeq = s.cmdSeq + 1)

/-- Accesses of device memory at their issue (R71, R146 to R150, R255, R345). After a `gld` the next bundle waits for the value of
the address; a `gst` is posted, or under speculation and in a checkpointed interval enters the hold buffer; an atomic and `acadd`
are posted with their operand, or held in a checkpointed interval, and one that returns a value has the next bundle wait for it;
each is translated as it issues, which the core's translation caches keep; none changes memory yet. A drain, once the writes of
the context have performed at its scope, lets the bundle issue and does nothing else; until then it keeps it from issuing. -/
def Obligations.DeviceAccessesIssue : Prop :=
  (∀ (s : State) (g : Pred) (q : Bool) (d a : Reg) (i : BitVec 10) (pa : Nat) (l : Xlat),
     let va : Word := s.me.rx a + BitVec.ofInt 64 i.toInt
     (slotIssues (.gld g q d a i) g s → s.access (some s.cur.core) s.me.dom va 8 0x54 Need.read none = .ok (pa, l) →
       ∃ t, exec (.gld g q d a i) s = .next t ∧ t.me = { s.me with
         read := some { atomic := false, va := va, pa := pa, dest := d, sq := q, value := none, born := l.born } } ∧
       onlyCaches s t ∧ l ∈ t.myCore.ranges ++ t.myCore.pages ∧ t.posted = s.posted ∧ t.mem = s.mem) ∧
     (slotIssues (.gst g q d a i) g s → s.access (some s.cur.core) s.me.dom va 8 0x54 Need.write none = .ok (pa, l) →
       (s.me.specd = 0 → s.me.ckpting = false → ∃ t p, exec (.gst g q d a i) s = .next t ∧
         t.posted = s.posted ++ [p] ∧ p.kind = .store ∧ p.va = va ∧ p.pa = pa ∧ p.data = s.me.rx d ∧ p.src = s.cur ∧
         p.id = s.cmdSeq ∧ p.key = s.keyOf s.me ∧ p.scope = .none ∧ t.me = s.me ∧ onlyCaches s t ∧ t.mem = s.mem ∧
         t.cmdSeq = s.cmdSeq + 1) ∧
       (s.me.specd ≠ 0 ∨ s.me.ckpting = true → ∃ t h, exec (.gst g q d a i) s = .next t ∧
         t.me = { s.me with hold := s.me.hold ++ [h] } ∧ h.va = va ∧ h.pa = pa ∧ h.data = s.me.rx d ∧ h.now = s.me.now ∧
         h.spec = (s.me.specd != 0) ∧ onlyCaches s t ∧ t.posted = s.posted ∧ t.mem = s.mem ∧ t.cmdSeq = s.cmdSeq + 1))) ∧
  (∀ (s : State) (g : Pred) (q : Bool) (d a b f : Reg) (pa : Nat) (l : Xlat),
     let va : Word := s.me.rx a
     let posts (ins : Instr) (kind : PostKind) (align : Nat) (dest : Reg) : Prop := slotIssues ins g s →
       s.access (some s.cur.core) s.me.dom va align 0x54 Need.atomic none = .ok (pa, l) → ∃ t p, exec ins s = .next t ∧
         p.kind = kind ∧ p.va = va ∧ p.pa = pa ∧ p.data = s.me.rx b ∧ p.src = s.cur ∧ p.id = s.cmdSeq ∧
         p.read = (dest != 0) ∧ onlyCaches s t ∧ t.mem = s.mem ∧ sameRegisters s.me t.me ∧ t.me.land = s.me.land ∧
         (s.me.ckpting = false → t.posted = s.posted ++ [p] ∧ t.me.heldPosts = s.me.heldPosts) ∧
         (s.me.ckpting = true → t.posted = s.posted ∧ ∃ h, t.me.heldPosts = s.me.heldPosts ++ [h] ∧ h.post = p) ∧
         (dest = 0 → t.me.read = s.me.read) ∧
         (dest ≠ 0 → t.me.read =
           some { atomic := true, va := va, pa := pa, dest := dest, sq := q, value := none, born := l.born })
     posts (.aadd g q d a b) .aadd 8 d ∧ posts (.amin g q d a b) .amin 8 d ∧ posts (.amax g q d a b) .amax 8 d ∧
     posts (.aswp g q d a b) .aswp 8 d ∧ posts (.acas g q d a b f) (.acas (s.me.rx f)) 8 d ∧
     posts (.acadd g q a b) .cell 16 0) ∧
  (∀ (s : State) (g : Pred) (q : Bool),
     let drain (ins : Instr) (sc : Scope) : Prop :=
       (slotIssues ins g s → exec ins s = .next s) ∧ (s.drainWaits s.cur sc = true → slotWaits ins s = true)
     drain (.drainCl g q) .cl ∧ drain (.drainDie g q) .die ∧ drain (.drainDev g q) .dev ∧ drain (.drainSys g q) .sys)

/-- An atomic performs (R148): in one step the word of its address becomes the sum, the signed minimum or maximum, the operand, or
for `acas` the operand when the old word is the compare value; the issuer gets the old word; no other byte changes. An `acadd`,
or one addition of a `sscatter`, performs (R149, R247): the operand is added to the 72-bit cell, modulo 2^72; a cell whose MARK
is set stays as it is; no byte outside the cell's C changes. -/
def Obligations.AtomicsPerform : Prop :=
  (∀ (s : State) (k : Nat) (p : Posted), s.posted? k = some p → p.kind.isStore = false → p.kind ≠ .cell →
     s.behind p .dev = false → s.unread p = false → s.strayKey p = false → s.poisoned p.pa 8 = false →
     paExt p.pa = false → (∀ j, j < 8 → Owners.get s.memOwner (p.pa + j) = p.key) →
     ∃ t, exec (.atomicPerform k) s = .next t ∧
       let old : Word := BitVec.ofNat 64 (leNat (Memory.getBytes s.mem p.pa 8))
       let new : Word := BitVec.ofNat 64 (leNat (Memory.getBytes t.mem p.pa 8))
       (p.kind = .aadd → new = old + p.data) ∧ (p.kind = .amin → new.toInt = min old.toInt p.data.toInt) ∧
       (p.kind = .amax → new.toInt = max old.toInt p.data.toInt) ∧ (p.kind = .aswp → new = p.data) ∧
       (∀ c, p.kind = .acas c → new = if old = c then p.data else old) ∧
       sameDevBytes s t p.pa 8 ∧ t.posted = s.posted.filter (fun o => o.id != p.id) ∧
       (p.read = true → ∀ r, (s.ctx p.src).read = some r → (t.ctx p.src).read = some { r with value := some old }) ∧
       (p.read = false → t.cores = s.cores)) ∧
  (∀ (s : State) (k : Nat) (p : Posted), s.posted? k = some p → p.kind = .cell → s.behind p .dev = false →
     s.unread p = false → s.strayKey p = false → s.poisoned p.pa 16 = false → paExt p.pa = false →
     (∀ j, j < 16 → Owners.get s.memOwner (p.pa + j) = p.key) →
     ∃ t, exec (.cellAddPerform k) s = .next t ∧ sameDevBytes s t p.pa 9 ∧
       (p.eng = none → t.cores = s.cores ∧ t.posted = s.posted.filter (fun o => o.id != p.id)) ∧
       ((Memory.get s.mem (p.pa + 9)).getLsbD 0 = true → ∀ a, Memory.get t.mem a = Memory.get s.mem a) ∧
       ((Memory.get s.mem (p.pa + 9)).getLsbD 0 = false →
         (leNat (Memory.getBytes t.mem p.pa 9) : Int) =
           ((leNat (Memory.getBytes s.mem p.pa 9) : Int) + p.data.toInt) % 2 ^ 72))

/-- A `gst` performs scope by scope (R262): at `cl`, where it takes a place in the coherence order that is free but for its context's
own stores to a common byte, at `die`, and at `dev`, where its eight bytes are memory's under its domain's key; no other byte changes.
Among stores to a common byte that have performed somewhere the one that stands first in that order reaches `dev` first (R263; the
list as that order is the model's, log entry 46). The value of an access returns (R111, R146, R147, R148): an atomic's old word, or for
a `gld` what the context observes at the address, enters flight for the next bundle, which waits no longer; with no write in flight and
an empty hold buffer a `gld` gives the bytes of memory, with one in flight of its own to that address, that one's, and the latest one
held at that address lies over both, one that a `commit` of its bundle has discarded too (R27, R71). -/
def Obligations.StoresPerformAndValuesReturn : Prop :=
  (∀ (s : State) (k : Nat) (p : Posted), s.posted? k = some p → p.kind = .store → paExt p.pa = false →
     s.behind p p.scope.succ = false → s.strayKey p = false → (p.scope = .die → s.coherent p = true) →
     ∃ t, exec (.deviceWritePerform k) s = .next t ∧ t.cores = s.cores ∧
       (p.scope = .none → t.mem = s.mem ∧ ∃ l m, s.posted.filter (fun o => o.id != p.id) = l ++ m ∧
         t.posted = l ++ { p with scope := .cl } :: m ∧
         ∀ o ∈ m, o.kind = .store → o.scope ≠ .none → o.src = p.src → o.kid = p.kid → o.pa + 8 ≤ p.pa ∨ p.pa + 8 ≤ o.pa) ∧
       (p.scope = .cl → t.mem = s.mem ∧
         t.posted = s.posted.map fun o => if o.id = p.id then { o with scope := .die } else o) ∧
       (p.scope = .die → leNat (Memory.getBytes t.mem p.pa 8) = p.data.toNat ∧ sameDevBytes s t p.pa 8 ∧
         (∀ j, j < 8 → Owners.get t.memOwner (p.pa + j) = p.key) ∧
         t.posted = s.posted.filter (fun o => o.id != p.id))) ∧
  (∀ (s : State) (k : Nat) (p q : Posted) (l m : List Posted), s.posted? k = some p → p.kind = .store → paExt p.pa = false →
     p.scope = .die → s.posted = l ++ q :: m → p ∈ m → q.id ≠ p.id → (∀ o ∈ l, o.id ≠ p.id) → q.kind = .store →
     q.scope ≠ .none → p.pa < q.pa + 8 → q.pa < p.pa + 8 → exec (.deviceWritePerform k) s = .next s) ∧
  (∀ (s : State) (c : CtxId) (r : PendRead), (s.ctx c).read = some r →
     (∀ v, r.atomic = true → r.value = some v → ∃ t, exec (.deviceReadReturn c) s = .next t ∧ onlyCtx c s t ∧
       t.ctx c = ({ s.ctx c with read := none } : Ctx).enter (.x r.dest) v 1 r.sq) ∧
     (r.atomic = false → s.posted = [] → (s.ctx c).hold = [] → r.lost = [] → s.poisoned r.pa 8 = false → paExt r.pa = false →
       (∀ j, j < 8 → Owners.get s.memOwner (r.pa + j) = s.keyOf (s.ctx c)) →
       ∃ t v, exec (.deviceReadReturn c) s = .next t ∧ onlyCtx c s t ∧ v.toNat = leNat (Memory.getBytes s.mem r.pa 8) ∧
         t.ctx c = ({ s.ctx c with read := none } : Ctx).enter (.x r.dest) v 1 r.sq) ∧
     (∀ p, r.atomic = false → s.posted = [p] → p.kind = .store → p.src = c → p.kid = (s.ctx c).kid → p.pa = r.pa →
       p.key = s.keyOf (s.ctx c) → (s.ctx c).hold = [] → r.lost = [] → s.poisoned r.pa 8 = false → paExt r.pa = false →
       exec (.deviceReadReturn c) s =
         .next (s.setCtx c (({ s.ctx c with read := none } : Ctx).enter (.x r.dest) p.data 1 r.sq))) ∧
     (∀ l v, r.atomic = false → ((s.ctx c).hold.map fun h => (h.pa, h.data)) ++ r.lost = l ++ [(r.pa, v)] →
       s.readBehind c r.pa = false → s.poisoned r.pa 8 = false → paExt r.pa = false →
       exec (.deviceReadReturn c) s =
         .next (s.setCtx c (({ s.ctx c with read := none } : Ctx).enter (.x r.dest) v 1 r.sq))))

/-! ### Slot E (R151 to R167, R343) -/

/-- The token rule and its instructions (R151, R152, R164): a command that performs at its issue leaves its produced token set; one
that goes on to an engine clears it, and the token follows the latest command that names it; k0 is none. A bundle does not issue
while a token that `kwait` consumes is clear, and then `kwait` does nothing; `kpoll` gives tokens k1 to k15 in their bits, the
other bits 0, with latency 2. The token form of `nop` performs as it issues (the model's reading, log entry 41). -/
def Obligations.TokenInstructions : Prop :=
  (∀ (x : Ctx) (kp : BitVec 4) (i j : Nat),
     (kp ≠ 0 → (x.clearToken kp i).rk kp = false ∧ ((x.clearToken kp i).setToken kp i).rk kp = true ∧
       (i ≠ j → (((x.clearToken kp i).clearToken kp j).setToken kp i).rk kp = false) ∧
       ∀ m, m ≠ kp → (x.clearToken kp i).rk m = x.rk m ∧ ((x.clearToken kp i).setToken kp i).rk m = x.rk m) ∧
     (kp = 0 → x.clearToken kp i = x ∧ x.setToken kp i = x)) ∧
  (∀ (s : State) (g : Pred) (q : Bool) (d : Reg) (x : Option Ext) (y : Tokens),
     (∀ k ∈ [y.kc0, y.kc1, y.kc2], s.me.rk k = false → slotWaits (.kwait g q (some y)) s = true) ∧
     (slotIssues (.kwait g q x) g s → ∃ t, exec (.kwait g q x) s = .next t ∧ t.myCore.engines = s.myCore.engines ∧
       t.me.x = s.me.x ∧ t.me.p = s.me.p ∧ t.me.land = s.me.land ∧ t.mem = s.mem ∧
       (kpOf x = 0 → t.me.k = s.me.k) ∧ (kpOf x ≠ 0 → t.me.rk (kpOf x) = true)) ∧
     (slotIssues (.kpoll g q d x) g s → ∃ t v, exec (.kpoll g q d x) s = .next t ∧
       t.me.land = (s.me.enter (.x d) v 2 q).land ∧ t.me.x = s.me.x ∧ t.me.p = s.me.p ∧ t.mem = s.mem ∧
       ∀ j, v.getLsbD j = (decide (1 ≤ j ∧ j < 16) && s.me.k.getLsbD j)) ∧
     (slotIssues (.nop g q (some y)) g s → ∃ t, exec (.nop g q (some y)) s = .next t ∧ t.me.x = s.me.x ∧ t.me.p = s.me.p ∧
       t.mem = s.mem ∧ (y.kp ≠ 0 → t.me.rk y.kp = true) ∧ (y.kp = 0 → t.me.k = s.me.k)))

/-- `tick`, `spec`, `sclr`, `sstat` and `commit` (R69 to R71, R153 to R155): a tick starts a step; `spec` opens speculation with its
limit; `sclr` makes the signal as new; `sstat` gives its status word, field by field, 0 for an unplanned signal, with latency 2; under `commit`
NOW and NOWC become NOWC + x and SPECD 0, the held stores of the ticks kept are posted in their order and every other speculative
one is discarded, or in a checkpointed interval the kept ones stay held for its boundary, every signal's ADV falls back by its
advances of the ticks undone, and in an in-tick signal a slot claimed in one of them is free; without speculation it does nothing.
The step itself (R61, R65, R66): of a signal that is due, the sample at ADV is finalised when in-tick, a free slot with start
values; the sample that comes to stand beyond depth expires, to free, or draining while it is pinned, or under speculation held;
every other slot holds what it held; a slot not free counts from a committed tick on as claimed before NOWC (log entry 44). -/
def Obligations.TicksAndSpeculation : Prop :=
  (∀ (s : State) (g : Pred) (q : Bool) (d : Reg) (n : SigNum) (m : BitVec 6) (x : Option Ext),
     (slotIssues (.tick g q x) g s → ∃ t, exec (.tick g q x) s = .next t ∧
       t.me.tick = some { id := s.cmdSeq, kp := kpOf x } ∧ t.me.now = s.me.now ∧ t.me.sigs = s.me.sigs ∧
       t.me.x = s.me.x ∧ t.me.p = s.me.p ∧ t.me.flags = s.me.flags ∧ (kpOf x ≠ 0 → t.me.rk (kpOf x) = false) ∧
       t.mem = s.mem ∧ t.myCore.cp = s.myCore.cp ∧ t.posted = s.posted) ∧
     (slotIssues (.spec g q m x) g s → ∃ t, exec (.spec g q m x) s = .next t ∧ t.me.specd = m ∧ t.me.now = s.me.now ∧
       t.me.nowc = s.me.nowc ∧ t.me.sigs = s.me.sigs ∧ t.me.x = s.me.x ∧ t.me.p = s.me.p ∧ t.mem = s.mem) ∧
     (slotIssues (.sclr g q n x) g s → ∀ sg, s.me.sig n = some sg → ∃ t, exec (.sclr g q n x) s = .next t ∧
       t.me.sig n = some { plan := sg.plan, base := sg.base, adv := 0,
                           bind := if sg.plan.isRemote then .remote else .unbound,
                           slots := List.replicate sg.plan.nslots {} } ∧
       (∀ m, m ≠ n → t.me.sig m = s.me.sig m) ∧ t.me.x = s.me.x ∧ t.me.p = s.me.p ∧ t.mem = s.mem) ∧
     (slotIssues (.sstat g q d n x) g s → ∃ t v, exec (.sstat g q d n x) s = .next t ∧
       t.me.land = (s.me.enter (.x d) v 2 q).land ∧ t.me.sigs = s.me.sigs ∧ t.me.x = s.me.x ∧ t.me.p = s.me.p ∧ t.mem = s.mem ∧
       (s.me.sig n = none → v = 0) ∧ ∀ sg, s.me.sig n = some sg →
         let stands (k : Nat) : Bool := (sg.slot k).st != .free && (sg.slot k).tag == k
         (v.extractLsb' 61 3).toNat = (match sg.bind with
           | .unbound => 0
           | .stream => 1
           | .grid => 2
           | .cp => 3
           | .remote => 4) ∧
         (v.extractLsb' 59 2).toNat = (if stands sg.adv = true then (match (sg.slot sg.adv).st with
           | .free => 0
           | .filling => 1
           | .full => 2
           | .draining => 3) else 0) ∧
         (v.getLsbD 58 = true ↔ ∃ w ∈ sg.slots, w.held = true) ∧
         (v.extractLsb' 46 12).toNat = min sg.adv (sg.plan.depth - 1) % 2 ^ 12 ∧
         (v.extractLsb' 39 7).toNat = ((List.range sg.plan.lead).filter fun i =>
           stands (sg.adv + i + 1) && (sg.slot (sg.adv + i + 1)).st == .full).length % 2 ^ 7 ∧
         (v.extractLsb' 26 13).toNat = sg.adv % sg.plan.nslots % 2 ^ 13 ∧ (v.extractLsb' 0 26).toNat = sg.adv % 2 ^ 26)) ∧
  (∀ (s : State) (g : Pred) (q : Bool) (d : Reg) (n : BitVec 15) (x : Option Ext), slotIssues (.commit g q d n x) g s →
     (s.me.specd = 0 → ∃ t, exec (.commit g q d n x) s = .next t ∧ t.me.now = s.me.now ∧ t.me.sigs = s.me.sigs ∧
       t.me.hold = s.me.hold ∧ t.posted = s.posted) ∧
     (let k := (s.me.rx d + BitVec.ofNat 64 n.toNat).setWidth 48
      let lo := s.me.nowc + k
      let undone := (s.me.now - lo).toNat
      let kept (h : HeldStore) : Bool := h.spec && decide ((h.now - s.me.nowc).toNat < k.toNat)
      let holds (h : HeldStore) : Nat × Word × Nat × Word := (h.id, h.va, h.pa, h.data)
      let posts (p : Posted) : Nat × Word × Nat × Word := (p.id, p.va, p.pa, p.data)
      s.me.specd ≠ 0 →
      (s.me.ckpting = true → ∀ u ∈ s.me.trigs, ¬(u.1 - s.me.nowc).toNat < (s.me.rx d + BitVec.ofNat 64 n.toNat).toNat) →
      ∃ t, exec (.commit g q d n x) s = .next t ∧
       t.me.now = lo ∧ t.me.nowc = lo ∧ t.me.specd = 0 ∧ t.me.trigs = [] ∧ t.me.x = s.me.x ∧ t.me.p = s.me.p ∧ t.mem = s.mem ∧
       (∀ r, s.me.read = some r → t.me.read = some { r with
         lost := (s.me.hold.filter fun h => h.spec && !kept h).map fun h => (h.pa, h.data) }) ∧
       (s.me.ckpting = false → t.me.hold = s.me.hold.filter (fun h => !h.spec) ∧
         ∃ ps, t.posted = s.posted ++ ps ∧ ps.map posts = (s.me.hold.filter kept).map holds ∧
           ∀ p ∈ ps, p.kind = .store ∧ p.src = s.cur ∧ p.scope = .none ∧ p.key = s.keyOf s.me) ∧
       (s.me.ckpting = true → t.posted = s.posted ∧
         t.me.hold = (s.me.hold.filter fun h => !h.spec || kept h).map fun h => { h with spec := false }) ∧
       ∀ m sg, s.me.sig m = some sg → ∃ sg', t.me.sig m = some sg' ∧ sg'.plan = sg.plan ∧ sg'.bind = sg.bind ∧
         sg'.adv = (if sg.plan.isStatic then sg.adv
           else sg.adv - ((List.range undone).filter fun i => sg.plan.due (lo + 1 + BitVec.ofNat 48 i)).length) ∧
         (sg.bind = .unbound ∨ sg.bind = .grid ∨ sg.bind = .cp → ∀ (i : Nat) (v : SigSlot), sg.slots[i]? = some v → v.st ≠ .free → v.past = false →
           (v.claim - lo).toNat ≤ undone → sg'.slots[i]? = some {}))) ∧
  (∀ (s : State) (c : CtxId) (r : TickReq) (n : SigNum) (g : Signal),
     let x := s.ctx c
     x.tick = some r → x.tickWaits = false → x.sig n = some g → g.plan.isStatic = false → g.plan.due (x.now + 1) = true →
     0 < g.plan.depth → g.slots.length = g.plan.nslots →
     ∃ t g', exec (.tickStep c) s = .next t ∧ (t.ctx c).sig n = some g' ∧ g'.adv = g.adv + 1 ∧
       let seen (v : SigSlot) : SigSlot := if x.specd = 0 ∧ v.st ≠ .free then { v with past := true } else v
       let v := g.slot g.adv
       let done : SigSlot :=
         if g.bind = .stream ∨ g.bind = .remote ∨ v.st = .full ∨ v.st = .draining then v
         else if v.st = .filling then { v with st := .full }
         else { st := .full, tag := g.adv, claim := x.now, held := false, rows := 0, fresh := true,
                data := List.replicate g.plan.rows (rowOf g.plan.start) }
       let e := g.adv + 1 - g.plan.depth
       let w := if g.plan.depth = 1 then done else g.slot e
       let expires : Prop := g.plan.depth ≤ g.adv + 1 ∧ w.st ≠ .free ∧ w.tag = e
       (g.plan.depth ≠ 1 ∨ ¬expires → g'.slot g.adv = seen done) ∧
       (expires →
         (x.specd = 0 → w.st = .full → g'.slot e =
           if (s.core c.core).pinned c.ctx n e then { w with st := .draining, past := true } else {}) ∧
         (x.specd = 0 → w.st = .filling ∨ w.st = .draining → g'.slot e = seen w) ∧
         (x.specd ≠ 0 → w.st = .full ∨ w.st = .draining → g'.slot e = { w with held := true }) ∧
         (x.specd ≠ 0 → w.st = .filling → g'.slot e = w)) ∧
       (∀ k, k % g.plan.nslots ≠ g.adv % g.plan.nslots → (¬expires ∨ k % g.plan.nslots ≠ e % g.plan.nslots) →
         g'.slot k = seen (g.slot k)))

/-- `ckpt`, outside a rerun (R325, R341, R343, R345): the context checkpoints from here on with the mask of xD; the copy that was
not current becomes current and holds the context as it stands after this bundle, with its registers, tokens, coordinates, grid
ownership, owned sequence entries, signals and the accumulator rows that the mask names; what was held until this boundary is in
flight, and goes on where a queue held it. A `ckpt` with Q, with an immediate that is not 0, or under speculation is fault 0x83. That
the pending faults go into the copy is the model's reading (log entry 40). -/
def Obligations.CheckpointTaken : Prop :=
  ∀ (s : State) (g : Pred) (q : Bool) (d : Reg) (n : BitVec 15) (x : Option Ext),
    (s.me.rp g = true → s.me.admitted = false → q = true ∨ n ≠ 0 ∨ s.me.specd ≠ 0 → ∃ v, exec (.ckpt g ⟨d, q, n⟩ x) s =
      .next (s.takeTrap s.cur (s.precise 0x83 3 v)) ∧ v.extractLsb' 0 32 = slotWord (.ckpt g ⟨d, q, n⟩ x)) ∧
    (slotIssues (.ckpt g ⟨d, q, n⟩ x) g s → s.me.rerunning = false →
      ∃ t sh ps, exec (.ckpt g ⟨d, q, n⟩ x) s = .next t ∧ t.me.ckpting = true ∧ t.me.ckmask = s.me.rx d ∧ t.me.cur = !s.me.cur ∧
        t.me.shadow = some sh ∧ (if s.me.cur then t.me.shadow1 = s.me.shadow1 else t.me.shadow0 = s.me.shadow0) ∧
        t.me.hold = s.me.hold.filter (fun h => h.spec) ∧ t.me.heldPosts = [] ∧ t.me.x = s.me.x ∧ t.me.p = s.me.p ∧
        t.me.now = s.me.now ∧ t.me.pc = s.me.pc ∧ t.mem = s.mem ∧ t.myCore.acc = s.myCore.acc ∧
        t.posted = s.posted ++ ps ∧ ps.length = (s.me.hold.filter fun h => !h.spec).length + s.me.heldPosts.length ∧
        (∀ h ∈ s.me.heldPosts, h.post ∈ ps) ∧
        (∀ h ∈ s.me.hold, h.spec = false → ∃ p ∈ ps, p.id = h.id ∧ p.kind = .store ∧ p.va = h.va ∧ p.pa = h.pa ∧
          p.data = h.data ∧ p.src = s.cur) ∧
        (∀ r ∈ t.myCore.remote, r.ctx = s.cur.ctx → r.held = false) ∧
        (∀ e, (h : e < 6) → ∀ c ∈ (t.myCore.engines[e]'h).queue, c.ctx = s.cur.ctx → c.held = false) ∧
        sh.mask = s.me.rx d ∧ sh.coord = s.me.coord ∧ sh.arrived = s.me.arrived ∧ sh.kOwner = t.me.kOwner ∧ sh.faults = t.me.faults ∧
        sh.owner = decide (s.myCore.grid.owner = some s.cur.ctx) ∧
        (∀ (i : Nat) (p : BitVec 32), (i, p) ∈ sh.seqs ↔
          ∃ h : i < 32, (s.myCore.seqs[i]'h).owner = some s.cur.ctx ∧ (s.myCore.seqs[i]'h).ptr = p) ∧
        (∀ m, (h : m < 64) → sh.sigs[m]'h = (s.me.sigs[m]'h).map fun sg =>
          { sg with slots := sg.slots.map fun v => { v with fresh := false } }) ∧
        (∀ (j : Nat) (v : AccRow), (j, v) ∈ sh.rows ↔
          ∃ h : j < 1024, (s.me.rx d).getLsbD (j / 16) = true ∧ s.myCore.acc[j]'h = v) ∧
        ((∀ u, s.me.delay ≠ .taken (.trapReturn u)) → sh.blk.x = s.me.x ∧ sh.blk.p = s.me.p) ∧
        ((∀ u, s.me.delay ≠ .taken u) →
          sh.blk.d = s.me.d ∧ sh.blk.mp = s.me.mp ∧ sh.blk.k = t.me.k ∧ sh.blk.flags = s.me.flags ∧ sh.blk.now = s.me.now ∧
          sh.blk.nowc = s.me.nowc ∧ sh.blk.specd = s.me.specd ∧ sh.blk.tvec = s.me.tvec ∧ sh.blk.epc = s.me.epc ∧
          sh.blk.btarg = s.me.btarg ∧ sh.blk.cause = s.me.cause ∧ sh.blk.faddr = s.me.faddr ∧ sh.blk.rstk = s.me.rstk ∧
          sh.blk.spilled = s.me.spilled ∧ sh.blk.land = s.me.land ∧ sh.blk.parked = s.me.parked ∧
          sh.blk.base = s.me.base ∧ sh.blk.arrive = s.me.arrive ∧ sh.blk.sync = s.me.sync ∧
          sh.blk.trapped = s.me.trapped ∧ sh.blk.triggered = s.me.triggered ∧ sh.blk.delay = s.me.xfer ∧
          (s.me.outer.active = false → s.me.inner.active = false → s.me.jump = none → sh.blk.pc = s.me.next)))

/-- The grid's and the matrix array's commands at their issue (R49, R50, R56, R156 to R158, R169, R180 to R182): `gacq`, which waits
while the grid is another context's, makes the context its owner, and where the grid's state is another domain's has it cleared
behind the commands that are queued; `grel` frees it, and takes a place in the grid queue; `gcfg`, `grun` and `gset` enter the grid
queue with their operands, a `gcfg` binds the unbound signals that its image's out ports name, and a `grun` of 0 performs at once;
`mxload` and `mxcall` enter the call queue, each with a copy of the staged parameters; `mxp` stages the low 32 bits of xA. That the
clearing at a change of domain stands behind the queued commands is the model's reading (log entry 26). -/
def Obligations.GridAndMatrixCommands : Prop :=
  (∀ (s : State) (g : Pred) (q : Bool) (n : BitVec 15) (a : Reg) (tile : BitVec 5) (f : BitVec 3) (x : Option Ext),
     let old := s.myCore.grid
     let queued (ins : Instr) (P : GridOp → Prop) : Prop := ∃ t c, exec ins s = .next t ∧
       t.myCore.grid = { old with queue := old.queue ++ [c] } ∧ c.id = s.cmdSeq ∧ c.ctx = s.cur.ctx ∧ c.kp = kpOf x ∧ P c.op ∧
       t.me.x = s.me.x ∧ t.me.p = s.me.p ∧ t.me.flags = s.me.flags ∧ t.mem = s.mem ∧ t.cmdSeq = s.cmdSeq + 1 ∧
       (kpOf x ≠ 0 → t.me.rk (kpOf x) = false)
     (slotIssues (.gacq g q x) g s → ∃ t, exec (.gacq g q x) s = .next t ∧ t.me.gacqAt = none ∧ t.me.x = s.me.x ∧
       t.me.p = s.me.p ∧ t.mem = s.mem ∧ (old.owner = some s.cur.ctx → t.myCore.grid = old) ∧
       (old.owner ≠ some s.cur.ctx → t.myCore.grid = { old with
         owner := some s.cur.ctx, grant := none
         queue := if old.lastDom = some s.me.dom then old.queue
           else old.queue ++ [{ id := 0, ctx := s.cur.ctx, kp := 0, op := .clear s.me.dom }] })) ∧
     (slotIssues (.grel g q x) g s → ∃ t, exec (.grel g q x) s = .next t ∧ t.myCore.grid = { old with
         owner := none, queue := old.queue ++ [{ id := s.cmdSeq, ctx := s.cur.ctx, kp := kpOf x, op := .rel }] } ∧
       t.me.x = s.me.x ∧ t.me.p = s.me.p ∧ t.mem = s.mem ∧ (kpOf x ≠ 0 → t.me.rk (kpOf x) = true)) ∧
     (slotIssues (.gcfg g q n x) g s → queued (.gcfg g q n x) fun o => ∃ l b, o = .cfg n.toNat l b ∧
       ∀ m, (h : m < 64) → b[m]'h = (s.me.sigs[m]'h).map (·.bind)) ∧
     (slotIssues (.gcfg g q n x) g s → ∀ t, exec (.gcfg g q n x) s = .next t →
       let out (i : Nat) : Nat := leNat (((imageFrom n.toNat (s.gridBytes s.me)).drop (72 + 2 * i)).take 2)
       ∀ m sg, s.me.sig m = some sg → t.me.sig m = some (if sg.bind = .unbound ∧
         (List.range 8).any (fun i => (out i).testBit 15 && out i % 64 == m.toNat) = true then { sg with bind := .grid } else sg)) ∧
     (slotIssues (.gset g q tile a f x) g s → queued (.gset g q tile a f x) fun o =>
       ∃ k, o = .set k f (s.me.rx a) ∧ k.val = tile.toNat) ∧
     (slotIssues (.grun g q a x) g s → (s.me.rx a).extractLsb' 0 32 ≠ 0 →
       queued (.grun g q a x) fun o => o = .run ((s.me.rx a).toNat % 2 ^ 32)) ∧
     (slotIssues (.grun g q a x) g s → (s.me.rx a).extractLsb' 0 32 = 0 → ∃ t, exec (.grun g q a x) s = .next t ∧
       t.myCore.grid = old ∧ (kpOf x ≠ 0 → t.me.rk (kpOf x) = true))) ∧
  (∀ (s : State) (g : Pred) (q : Bool) (n : BitVec 5) (m : BitVec 3) (a : Reg) (x : Option Ext),
     let queued (ins : Instr) (load : Bool) : Prop := ∃ t i, exec ins s = .next t ∧
       t.myCore.mx = { s.myCore.mx with queue := s.myCore.mx.queue ++ [i] } ∧ i.isLoad = load ∧ i.entry = n ∧
       i.params = s.me.mp ∧ i.id = s.cmdSeq ∧ i.ctx = s.cur.ctx ∧ i.kp = kpOf x ∧ t.me.x = s.me.x ∧ t.me.p = s.me.p ∧
       t.me.mp = s.me.mp ∧ t.mem = s.mem ∧ (kpOf x ≠ 0 → t.me.rk (kpOf x) = false)
     (slotIssues (.mxload g q n x) g s → queued (.mxload g q n x) true) ∧
     (slotIssues (.mxcall g q n x) g s → queued (.mxcall g q n x) false) ∧
     (slotIssues (.mxp g q m a x) g s → ∃ t, exec (.mxp g q m a x) s = .next t ∧
       t.me.mp = s.me.mp.set m.toNat ((s.me.rx a).setWidth 32) m.isLt ∧ t.me.x = s.me.x ∧ t.me.p = s.me.p ∧
       t.myCore.mx = s.myCore.mx ∧ t.mem = s.mem))

/-- The stream and Yarrow commands at their issue (R160 to R162, R231, R236, R239, R345): the command enters the queue of the engine
that EXOP names, with the signal, position, policies, registers and descriptors that it names copied, at its first unit, and with
ADV of its signal noted for a fill or a drain that takes effect at once, and of its index signal; one that writes memory is held
in a checkpointed interval; a fill binds an unbound signal to the streams; one that moves nothing performs at once. -/
def Obligations.StreamCommandsAreQueued : Prop :=
  ∀ (s : State) (g : Pred) (q w dis : Bool) (e2 : BitVec 2) (e1 : BitVec 1) (e3 : BitVec 3) (n : SigNum) (pos : BitVec 7)
    (k j : DescNum) (a b : Reg) (oor red : BitVec 2) (x : Tokens),
    let queued (ins : Instr) (e : Nat) (kind : StreamKind) (fill : Bool) (P : StreamCmd → Prop) : Prop := slotIssues ins g s →
      ∃ t c, exec ins s = .next t ∧ c.kind = kind ∧ c.rec1 = s.me.d[k.toNat]'k.isLt ∧ c.a = s.me.rx a ∧ c.kp = x.kp ∧
        c.id = s.cmdSeq ∧ c.ctx = s.cur.ctx ∧ P c ∧ c.j = 0 ∧ c.e = 0 ∧ c.taken = false ∧ c.susp = none ∧ c.ix = none ∧
        c.ix2 = none ∧ (c.effective = true ↔ (kind = .sstore ∨ kind = .sscatter) ∧ s.drainNow s.cur = true) ∧
        (c.held = true ↔ s.me.ckpting = true ∧ (kind = .sstore ∨ kind = .sscatter ∨ kind = .scopy)) ∧
        (∀ sg, s.me.sig c.sig = some sg → fill = true ∨ c.effective = true → c.adv = sg.adv) ∧
        (∀ sg, s.me.sig (recOf c.rec1).ixsig = some sg → c.ixAdv = sg.adv) ∧
        (∀ sg, s.me.sig (recOf c.rec2).ixsig = some sg → c.ixAdv2 = sg.adv) ∧
        t.me.x = s.me.x ∧ t.me.p = s.me.p ∧ t.me.d = s.me.d ∧ t.mem = s.mem ∧ t.cmdSeq = s.cmdSeq + 1 ∧
        (fill = true → ∀ sg, s.me.sig n = some sg → ∃ sg', t.me.sig n = some sg' ∧ sg'.slots = sg.slots ∧
          sg'.adv = sg.adv ∧ sg'.bind = (if sg.bind = .unbound then .stream else sg.bind)) ∧
        (fill = false → t.me.sigs = s.me.sigs) ∧
        (c.isEmpty = false → ∀ h : e < 6, (t.myCore.engines[e]'h).queue = (s.myCore.engines[e]'h).queue ++ [c] ∧
          (t.myCore.engines[e]'h).current = (s.myCore.engines[e]'h).current) ∧
        (c.isEmpty = true → t.myCore.engines = s.myCore.engines ∧ (x.kp ≠ 0 → t.me.rk x.kp = true))
    let named (c : StreamCmd) : Prop := c.sig = n ∧ c.pos = pos
    let listed (c : StreamCmd) : Prop := named c ∧ c.b = s.me.rx b ∧ c.oor = oor
    queued (.sload g q e2 n pos k a x) e2.toNat .sload true named ∧
    queued (.sloadPl g q e2 k a b x) e2.toNat .sloadPl false (fun c => c.b = s.me.rx b) ∧
    queued (.sstore g q e1 n pos k a x) (4 + e1.toNat) .sstore false named ∧
    (e3.toNat < 6 → queued (.scopy g q e3 k j a b x) e3.toNat .scopy false (fun c =>
      c.b = s.me.rx b ∧ c.rec2 = s.me.d[j.toNat]'j.isLt)) ∧
    queued (.sgather g q e2 n pos k a b oor x) e2.toNat .sgather true listed ∧
    queued (.sreduce g q w e2 n pos k a b red dis oor x) e2.toNat .sreduce true (fun c =>
      listed c ∧ c.red = red ∧ c.distinct = dis ∧ c.weighted = w) ∧
    queued (.sscatter g q e1 n pos k a b oor x) (4 + e1.toNat) .sscatter false listed

/-- Sequence tables and descriptors (R73, R159, R163): `spos` sets an entry and takes it for the context; `dset` writes a word,
`dget` gives one with latency 2, `dclr` clears the register; each leaves every other entry, word and register alone. -/
def Obligations.TablesAndDescriptors : Prop :=
  ∀ (s : State) (g : Pred) (q : Bool) (n : BitVec 5) (k : DescNum) (w : BitVec 4) (a d : Reg) (x : Option Ext),
    (slotIssues (.spos g q n a x) g s → ∃ t, exec (.spos g q n a x) s = .next t ∧
      t.myCore.seqs = s.myCore.seqs.set n.toNat { ptr := (s.me.rx a).setWidth 32, owner := some s.cur.ctx } n.isLt ∧
      t.me.x = s.me.x ∧ t.me.p = s.me.p ∧ t.me.d = s.me.d ∧ t.mem = s.mem) ∧
    (slotIssues (.dset g q k w a x) g s → (hw : w.toNat < 12) → ∃ t, exec (.dset g q k w a x) s = .next t ∧
      t.me.d = s.me.d.set k.toNat ((s.me.d[k.toNat]'k.isLt).set w.toNat (s.me.rx a) hw) k.isLt ∧ t.me.x = s.me.x ∧
      t.me.p = s.me.p ∧ t.mem = s.mem) ∧
    (slotIssues (.dget g q d k w x) g s → (hw : w.toNat < 12) → ∃ t, exec (.dget g q d k w x) s = .next t ∧
      t.me.land = (s.me.enter (.x d) ((s.me.d[k.toNat]'k.isLt)[w.toNat]'hw) 2 q).land ∧ t.me.d = s.me.d ∧
      t.me.x = s.me.x ∧ t.me.p = s.me.p ∧ t.mem = s.mem) ∧
    (slotIssues (.dclr g q k x) g s → ∃ t, exec (.dclr g q k x) s = .next t ∧
      t.me.d = s.me.d.set k.toNat (Vector.replicate 12 0) k.isLt ∧ t.me.x = s.me.x ∧ t.me.p = s.me.p ∧ t.mem = s.mem)

/-- `trig` and `launch` (R52, R165, R271): a `trig` triggers the context, the first one noting which writes come before its bundle;
under speculation it is kept with its tick; a `launch` enters the posting queue with the record's address and the queue's number. -/
def Obligations.TriggersAndLaunches : Prop :=
  ∀ (s : State) (g : Pred) (q : Bool) (a b : Reg) (x : Option Ext),
    (slotIssues (.trig g q x) g s → s.me.specd = 0 → ∃ t, exec (.trig g q x) s = .next t ∧ t.me.triggered = true ∧
      t.me.trigAt = (if s.me.triggered then s.me.trigAt else s.me.first) ∧ t.me.trigs = s.me.trigs ∧ t.me.x = s.me.x ∧
      t.me.p = s.me.p ∧ t.mem = s.mem) ∧
    (slotIssues (.trig g q x) g s → s.me.specd ≠ 0 → ∃ t, exec (.trig g q x) s = .next t ∧
      t.me.triggered = s.me.triggered ∧ t.me.trigs = s.me.trigs ++ [(s.me.now, kpOf x, s.cmdSeq)] ∧ t.me.x = s.me.x ∧
      t.me.p = s.me.p ∧ t.mem = s.mem) ∧
    (slotIssues (.launch g q a b x) g s → ∃ t r, exec (.launch g q a b x) s = .next t ∧
      t.me.posting = s.me.posting ++ [r] ∧ r.addr = s.me.rx a ∧ r.queue = (s.me.rx b).setWidth 7 ∧ r.kp = kpOf x ∧
      r.id = s.cmdSeq ∧ t.queues = s.queues ∧ t.me.x = s.me.x ∧ t.me.p = s.me.p ∧ t.mem = s.mem)

/-- Barriers and `sync` at their issue (R166, R167): an arrival counts at its scope alone; a `wait` that has been released and a
`sync` whose cycle has come are over; a wait is released 4, 48 or 160 cycles after the last arrival that it needs, by its scope. -/
def Obligations.BarrierInstructions : Prop :=
  ∀ (s : State) (g : Pred) (q : Bool) (x : Option Ext),
    let arrives (ins : Instr) (i : Fin 3) : Prop := slotIssues ins g s → ∃ t, exec ins s = .next t ∧
      t.me.arrive = s.me.arrive.set i.val (s.me.arrive[i.val]'i.isLt + 1) i.isLt ∧ t.me.wait = s.me.wait ∧
      t.me.x = s.me.x ∧ t.me.p = s.me.p ∧ t.mem = s.mem ∧ t.posted = s.posted
    let goesOn (ins : Instr) : Prop := slotIssues ins g s → ∃ t, exec ins s = .next t ∧ t.me.wait = none ∧
      t.me.arrive = s.me.arrive ∧ t.me.x = s.me.x ∧ t.me.p = s.me.p ∧ t.mem = s.mem
    arrives (.arriveCl g q x) 0 ∧ arrives (.arriveDie g q x) 1 ∧ arrives (.arriveDev g q x) 2 ∧
    goesOn (.waitCl g q x) ∧ goesOn (.waitDie g q x) ∧ goesOn (.waitDev g q x) ∧
    (slotIssues (.sync g q x) g s → ∃ t, exec (.sync g q x) s = .next t ∧ t.me.syncSeen = none ∧ t.me.syncAt = none ∧
      t.me.wait = s.me.wait ∧ t.me.arrive = s.me.arrive ∧ t.me.x = s.me.x ∧ t.me.p = s.me.p ∧ t.mem = s.mem) ∧
    Scope.release .cl = (0, 4) ∧ Scope.release .die = (1, 48) ∧ Scope.release .dev = (2, 160)

/-! ### Micro-operations and the matrix array (R212 to R230) -/

/-- The micro-operations that set up the running call (R216, R219, R225 to R228): each goes on to the next word; a `scl` reads its
line, which pass cycles from the fourth on use. A bind or `scl`
that names a plane line past the end of the kernel's region is fault 0x12, deferred, with the region-relative byte offset, and
the call goes to its `end` (R291, R298). `zacc` and `anch` are an effect over n rows from the row cursor, n − 1 in the word, that
lands six cycles later, and take ⌈n/8⌉ cycles. -/
def Obligations.MicroSetup : Prop :=
  (∀ (s : State) (r : MxCall) (f : BitVec 2) (m : Bool) (p : BitVec 3) (v : BitVec 16), s.myCore.mx.run = some r →
     let goes (i : Instr) (r' : MxCall) : Prop :=
       exec i s = .next (s.setMyCore { s.myCore with mx := { s.myCore.mx with run := some { r' with pc := r.pc + 1 } } })
     let P : Lane := r.item.params[p.toNat]'p.isLt
     let line := P.toNat % 4096
     let size := s.myCore.planeSize (s.myCore.caller r)
     goes (.fmt f) { r with fmt := some f } ∧
     goes (.bindA m) { r with hold := m } ∧
     goes (.bindAcc p m) { r with acur := P.toNat % 1024, astep := m } ∧
     (8192 * line < size → goes (.bindB p m) { r with bcur := 512 * line, bstep := m }) ∧
     (8192 * line < size →
       goes (.scl p) { r with newScales := r.newScales ++ [(s.cycle + 4, s.myCore.planeLine (s.myCore.caller r) line)] }) ∧
     (∃ v', goes (.padd p v) { r with item := { r.item with params := r.item.params.set p.toNat v' p.isLt } } ∧
       v'.toInt = (P.toInt + v.toInt).bmod (2 ^ 32))) ∧
  (∀ (s : State) (r : MxCall) (p : BitVec 3) (m : Bool), s.myCore.mx.run = some r →
     let line := (r.item.params[p.toNat]'p.isLt).toNat % 4096
     s.myCore.planeSize (s.myCore.caller r) ≤ 8192 * line →
     ∀ i, i = .bindB p m ∨ i = .scl p → ∃ t f, exec i s = .next t ∧
       (t.myCore.ctxs[r.item.ctx.val]'r.item.ctx.isLt).faults =
         (s.myCore.ctxs[r.item.ctx.val]'r.item.ctx.isLt).faults ++ [f] ∧ f.cause = 0x12 ∧ f.source = 5 ∧ f.id = r.item.id ∧
       f.detail.toNat = 8192 * line ∧
       ∃ r', t.myCore.mx.run = some r' ∧ r'.pc = s.myCore.routineLen r - 1 ∧ r'.loops = [] ∧ r'.passLeft = 0) ∧
  (∀ (s : State) (r : MxCall) (n : BitVec 10) (a : BitVec 16), s.myCore.mx.run = some r →
     let issues (i : Instr) (e : AccEffect) : Prop := ∃ t x, exec i s = .next t ∧
       t.myCore.mx.effects = s.myCore.mx.effects ++ [x] ∧ x.eff = e ∧ x.cyc = s.cycle + 6 ∧ x.call = r.item.id ∧
       x.kid = r.item.kid ∧ t.myCore.mx.run = some { r with pc := r.pc + 1, busy := (n.toNat + 8) / 8 - 1 } ∧
       t.myCore.acc = s.myCore.acc ∧ t.myCore.ctxs = s.myCore.ctxs
     issues (.zacc n) (.zero r.acur (n.toNat + 1)) ∧ issues (.anch n a) (.anchor r.acur (n.toNat + 1) a))

/-- Micro-operations of control (R224, R226, R227, R229), and one array cycle of a pass (R214 to R217, R228). Passes, loops, `tok`,
`wt` and `end`: a pass of 0 cycles runs none, a loop of 0 goes on after its `el`; `wt` goes on once the token is set; `end` waits
for the call's effects in flight and then the call performs. A cycle of a pass takes the oldest A row of its domain, or uses the one
held, and reads the runs at the cursor, or uses those of the cycle before; with the scales of the last `scl` four or more cycles back
its products are issued, to land six cycles later; the cursors step when bound so. Without an A row it stalls; a run outside the
plane region is fault 0x12. The A rows kept by domain and the oldest of them taken (log entry 26), and the offset that fault 0x12
reports and that a held A row needs no feed (log entry 27), are the model's readings. -/
def Obligations.MicroControlAndArrayCycles : Prop :=
  (∀ (s : State) (r : MxCall) (c : BitVec 12) (p : BitVec 3) (k : BitVec 4), s.myCore.mx.run = some r →
    let run (t : State) : Option MxCall := t.myCore.mx.run
    let P : Lane := r.item.params[p.toNat]'p.isLt
    let mop (j : Nat) : Nat := ((s.myCore.microWord r j).extractLsb' 28 4).toNat
    let pass (i : Instr) (n : Nat) : Prop := ∃ t, exec i s = .next t ∧
      run t = some { r with pc := r.pc + 1, passLeft := n, passFirst := true }
    let opens (i : Instr) (n : Nat) : Prop := ∃ t, exec i s = .next t ∧
      (n ≠ 0 → run t = some { r with pc := r.pc + 1, loops := (n, r.pc + 1) :: r.loops }) ∧
      (n = 0 → run t = some { r with pc := s.myCore.afterEl { r with pc := r.pc + 1 } 256 (r.pc + 1) 0 } ∧
        ∀ m, m < 256 → mop (r.pc + 1 + m) = 8 → (∀ j, j < m → mop (r.pc + 1 + j) ≠ 7 ∧ mop (r.pc + 1 + j) ≠ 8) →
          run t = some { r with pc := r.pc + 1 + m + 1 })
    pass (.pass c) c.toNat ∧ pass (.passParam p) P.toNat ∧ opens (.lp c) c.toNat ∧ opens (.lpParam p) P.toNat ∧
    (∃ t, exec .el s = .next t ∧
      (r.loops = [] → run t = some { r with pc := r.pc + 1 }) ∧
      ∀ n body rest, r.loops = (n, body) :: rest →
        (1 < n → run t = some { r with pc := body, loops := (n - 1, body) :: rest }) ∧
        (n ≤ 1 → run t = some { r with pc := r.pc + 1, loops := rest })) ∧
    (∃ t, exec .tok s = .next t ∧ run t = some { r with pc := r.pc + 1 } ∧
      t.myCore.ctxs[r.item.ctx.val]'r.item.ctx.isLt =
        (s.myCore.ctxs[r.item.ctx.val]'r.item.ctx.isLt).setToken r.item.kp r.item.id) ∧
    ((s.myCore.ctxs[r.item.ctx.val]'r.item.ctx.isLt).rk k = true → ∃ t, exec (.wt k) s = .next t ∧
      run t = some { r with pc := r.pc + 1 }) ∧
    ((s.myCore.ctxs[r.item.ctx.val]'r.item.ctx.isLt).rk k = false → exec (.wt k) s = .next s) ∧
    ((s.myCore.mx.effects.any fun e => e.call == r.item.id) = false → ∃ t, exec .mEnd s = .next t ∧ run t = none ∧
      t.myCore.ctxs[r.item.ctx.val]'r.item.ctx.isLt =
        (s.myCore.ctxs[r.item.ctx.val]'r.item.ctx.isLt).setToken r.item.kp r.item.id) ∧
    ((s.myCore.mx.effects.any fun e => e.call == r.item.id) = true → exec .mEnd s = .next s)) ∧
  (∀ (s : State) (n : CoreId) (r : MxCall) (f : BitVec 2), (s.core n).mx.run = some r → r.fmt = some f → r.passLeft ≠ 0 →
    let k := s.core n
    let x := k.caller r
    let mine (a : FeedRow) : Bool := a.dom == x.dom
    let pops : Bool := !r.hold || r.passFirst
    let reads : Bool := r.bstep || r.passFirst
    let bits := match f.toNat with
      | 0 => 1024
      | 1 => 512
      | 2 => 768
      | _ => 1024
    let outside : Prop := k.planeSize x < 8192 * ((r.bcur + bits - 1) / 512 + 1)
    let scales := (((r.newScales.filter fun q => decide (q.1 ≤ s.cycle)).getLast?).map (·.2)).getD r.scales
    (pops = true → k.mx.afeed.filter mine = [] → exec (.arrayCycle n) s = .next s) ∧
    ((pops = true → k.mx.afeed.filter mine ≠ []) → reads = true → outside → ∃ t g, exec (.arrayCycle n) s = .next t ∧
      ((t.core n).ctxs[r.item.ctx.val]'r.item.ctx.isLt).faults = (k.ctxs[r.item.ctx.val]'r.item.ctx.isLt).faults ++ [g] ∧
      g.cause = 0x12 ∧ g.source = 5 ∧ g.id = r.item.id ∧
      g.detail = BitVec.ofNat 64 (8192 * (r.bcur / 512) + r.bcur % 512 / 8) ∧ (t.core n).acc = k.acc ∧
      (t.core n).mx.effects = k.mx.effects) ∧
    ((pops = true → k.mx.afeed.filter mine ≠ []) → (reads = true → ¬outside) →
      ∃ t e r', exec (.arrayCycle n) s = .next t ∧ onlyCore n s t ∧
        (t.core n).mx.afeed = (if pops then k.mx.afeed.eraseP mine else k.mx.afeed) ∧
        (t.core n).mx.run = some r' ∧ r'.passLeft = r.passLeft - 1 ∧ r'.passFirst = false ∧
        r'.bcur = (if r.bstep then r.bcur + bits else r.bcur) ∧
        r'.acur = (if r.astep then (r.acur + 1) % 1024 else r.acur) ∧
        r'.arow = (if pops then (((k.mx.afeed.filter mine).head?).map (·.row)).getD 0 else r.arow) ∧
        (∀ c, (h : c < 128) → r'.runs[c]'h = if reads then k.columnRun x f r.bcur c else r.runs[c]'h) ∧
        (t.core n).mx.effects = k.mx.effects ++ [e] ∧ e.cyc = s.cycle + 6 ∧ e.call = r.item.id ∧ e.dom = x.dom ∧
        e.kid = r.item.kid ∧ e.eff = .mac r.acur f r'.arow r'.runs (scales.map (runScales f r.bcur)) ∧
        (t.core n).acc = k.acc ∧ (t.core n).ctxs = k.ctxs))

/-- What lands in the accumulator (R80, R91 to R93, R212 to R217, R219, R226). Rows are counted modulo 1,024; a row that another domain
wrote last counts as zero, with anchor 48, and belongs to the call's domain from then on; a row not named is as before. `zacc` clears
a row's cells and marks and leaves its anchor; `anch` sets the anchor and leaves the cells; an array cycle adds to each cell of its
row, modulo 2^72, the products of the A factors with its column's factors, each rounded to the nearest multiple of the anchor's unit,
ties to even; a product that is not finite marks the cell invalid, one that does not fit 64 bits marks the row. The row keeps the
context of the call as the one to which R79 gives its readout's flags (log entry 25). -/
def Obligations.AccumulatorLanding : Prop :=
  ∀ (s : State) (n : CoreId) (e : PendEffect), (s.core n).mx.effects = [e] → e.cyc ≤ s.cycle →
    ∃ t, exec (.accumulateLand n) s = .next t ∧ (t.core n).mx.effects = [] ∧ onlyCore n s t ∧
      (t.core n).ctxs = (s.core n).ctxs ∧
      ∀ j, (h : j < 1024) →
        let old := (s.core n).acc[j]'h
        let new := (t.core n).acc[j]'h
        let was : AccRow := if old.dom = some e.dom then old else {}
        let owned : Prop := new.dom = some e.dom ∧ e.kid ∈ new.kids ∧ (∀ i ∈ was.kids, i ∈ new.kids) ∧
          new.caller = some (e.ctx, e.kid)
        let named (row m : Nat) : Prop := ∃ i, i < m ∧ (row + i) % 1024 = j
        (∀ row m, e.eff = .zero row m → m ≤ 1024 →
          (named row m → new.c = Vector.replicate 128 0 ∧ new.inv = 0 ∧ new.mark = false ∧ new.anchor = was.anchor ∧ owned) ∧
          (¬named row m → new = old)) ∧
        (∀ row m a, e.eff = .anchor row m a → m ≤ 1024 →
          (named row m → new.anchor = a ∧ new.c = was.c ∧ new.inv = was.inv ∧ new.mark = was.mark ∧ owned) ∧
          (¬named row m → new = old)) ∧
        (∀ row f a runs scales, e.eff = .mac row f a runs scales →
          (row % 1024 ≠ j → new = old) ∧
          (row % 1024 = j →
            let ps (c : Nat) (hc : c < 128) : List (Machine.Num × Machine.Num) :=
              (aFactors f a).zip (bFactors f (runs[c]'hc) (scales[c]'hc))
            let unit (p : Machine.Num × Machine.Num) : Option Int := match p with
              | (.fin u v w, .fin u' v' w') => some (quantise was.anchor (u != u') (v * v') (w * w'))
              | _ => none
            let outOf (q : Int) : Bool := decide (q < -(2 ^ 63) ∨ 2 ^ 63 - 1 < q)
            new.anchor = was.anchor ∧ owned ∧
            (∀ c, (hc : c < 128) →
              new.c[c]'hc = was.c[c]'hc + BitVec.ofInt 72 (((ps c hc).filterMap unit).foldl (· + ·) 0) ∧
              new.inv.getLsbD c = (was.inv.getLsbD c || (ps c hc).any fun p => (unit p).isNone)) ∧
            (new.mark = true ↔ was.mark = true ∨
              ∃ c, ∃ hc : c < 128, (((ps c hc).filterMap unit).any outOf) = true)))

/-- Routine loads and calls (R221, R223, R224, R298): a load at the head of the queue whose routine passes its scan holds the
array for 40 + LEN cycles and then makes its entry valid and performs; a call to a valid entry runs from its first word, and one
to an entry that is not valid is fault 0x11 and runs nothing. -/
def Obligations.RoutineLoadsAndCalls : Prop :=
  ∀ (s : State) (n : CoreId) (i : MxItem) (rest : List MxItem),
    let k := s.core n
    let x (t : State) : Ctx := (t.core n).ctxs[i.ctx.val]'i.ctx.isLt
    (∀ r : Routine, k.mx.loading = none → k.mx.run = none → k.mx.resumed = [] → k.mx.queue = i :: rest → i.isLoad = true →
      s.routine? (x s) i.entry = some r → scanRoutine {} 0 r.words = none →
      exec (.routineLoad n) s = .next (s.setCore n { k with mx := { k.mx with
        queue := rest, loading := some (i, s.cycle + 40 + r.words.length) } })) ∧
    (∀ done, k.mx.loading = some (i, done) → done ≤ s.cycle → ∃ t, exec (.routineLoad n) s = .next t ∧
      (t.core n).mx.loading = none ∧ (x t).entryValid.getLsbD i.entry.toNat = true ∧
      (∀ e, e < 32 → e ≠ i.entry.toNat → (x t).entryValid.getLsbD e = (x s).entryValid.getLsbD e) ∧
      (x t).k = ((x s).setToken i.kp i.id).k ∧ (x t).x = (x s).x ∧ t.mem = s.mem) ∧
    (k.mx.run = none → k.mx.loading = none → k.mx.resumed = [] → k.mx.queue = i :: rest → i.isLoad = false →
      ((x s).entryValid.getLsbD i.entry.toNat = true →
        exec (.routineCallStart n) s = .next (s.setCore n { k with mx := { k.mx with
          queue := rest, run := some { item := i } } })) ∧
      ((x s).entryValid.getLsbD i.entry.toNat = false → ∃ t f, exec (.routineCallStart n) s = .next t ∧
        (t.core n).mx.run = none ∧ (t.core n).mx.queue = rest ∧ (x t).faults = (x s).faults ++ [f] ∧ f.cause = 0x11 ∧
        f.detail.toNat = i.entry.toNat ∧ f.id = i.id))

/-! ### The grid's events (R49, R79, R156, R157, R172 to R184, R200, R220) -/

/-- The grid between its commands (R49, R156, R157, R169, R180 to R182, R311). The free grid goes to the waiting context of the highest
PRIO, of these to the one whose `gacq` blocked first, then to the lowest number. An idle grid takes what stands at the head of its
queue: a `grel` is over; a change of domain leaves the empty configuration and nothing of the earlier owner; a `gset` writes a
constant or the seed; a `grun` starts with its count, unless it ticks and a tick of its context is still to complete (R57); a `gcfg`
holds the grid for 200 + ⌈ISIZE/64⌉ cycles, or is refused with its fault, which names the first byte, entry or binding at fault
(R291, R298, R311), and gives the signals back the bindings that they had; a loaded one then leaves in every tile the constants and words of
its image, ports bound as the image says, everything else of the grid 0, the masks true, and the A-feed queue empty. Which field of an image is
the first refused is the model's reading (log entry 28). -/
def Obligations.GridTakesCommands : Prop :=
  ∀ (s : State) (n : CoreId),
    let k := s.core n
    let grant : Option (Fin 4) := if k.grid.owner.isNone then k.nextOwner else none
    (∀ c, k.nextOwner = some c → ∃ w, (k.ctxs[c.val]'c.isLt).gacqAt = some w ∧
      ∀ o : Fin 4, o ≠ c → ∀ v, (k.ctxs[o.val]'o.isLt).gacqAt = some v →
        (k.ctxs[o.val]'o.isLt).prio < (k.ctxs[c.val]'c.isLt).prio ∨
        ((k.ctxs[o.val]'o.isLt).prio = (k.ctxs[c.val]'c.isLt).prio ∧ (w < v ∨ (w = v ∧ c < o)))) ∧
    (k.nextOwner = none → ∀ o : Fin 4, (k.ctxs[o.val]'o.isLt).gacqAt = none) ∧
    (∃ t, exec (.gridGrant n) s = .next t ∧ onlyCore n s t ∧ (t.core n).ctxs = k.ctxs ∧ (t.core n).mx = k.mx ∧
      ((k.grid.idle = false ∨ k.grid.queue = []) → (t.core n).grid = { k.grid with grant := grant }) ∧
      (∀ id c kp q, k.grid.idle = true → k.grid.queue = ⟨id, c, kp, .rel⟩ :: q →
        (t.core n).grid = { k.grid with queue := q, grant := grant }) ∧
      (∀ id c kp d q, k.grid.idle = true → k.grid.queue = ⟨id, c, kp, .clear d⟩ :: q → k.grid.dom ≠ some d →
        (t.core n).grid = { k.grid with
          queue := q, grant := grant, dom := some d, period := 1, ticking := false, tapb := Vector.replicate 16 0
          outb := Vector.replicate 8 0, tiles := Vector.replicate 32 {}, params := Vector.replicate 8 0
          ports := Vector.replicate 2 {} })) ∧
    (∀ id c kp tile dst v g, k.gridHead = some (⟨id, c, kp, .set tile dst v⟩, g) → ∃ t, exec (.gsetApply n) s = .next t ∧
      (∀ j, (h : j < 4) → dst.toNat = j → (((t.core n).grid.tiles[tile.val]'tile.isLt).q[j]'h) = v.setWidth 32) ∧
      (4 ≤ dst.toNat → ((t.core n).grid.tiles[tile.val]'tile.isLt).seed = v ∧
        ((t.core n).grid.tiles[tile.val]'tile.isLt).cnt = 0) ∧
      (∀ o, (h : o < 32) → o ≠ tile.val → (t.core n).grid.tiles[o]'h = g.tiles[o]'h) ∧ (t.core n).grid.queue = g.queue ∧
      ((t.core n).ctxs[c.val]'c.isLt) = (k.ctxs[c.val]'c.isLt).setToken kp id) ∧
    (∀ id c kp m g, k.gridHead = some (⟨id, c, kp, .run m⟩, g) →
      (k.grid.ticking = false ∨ (k.ctxs[c.val]'c.isLt).tick = none → ∃ t r, exec (.grunStart n) s = .next t ∧ onlyCore n s t ∧
        (t.core n).grid = { g with run := some r } ∧ r.left = m ∧ r.word = 0 ∧ r.ord = 0 ∧ r.ctx = c ∧ r.id = id ∧ r.kp = kp ∧
        r.atEnd = false ∧ r.endWait = false ∧ r.tapCur = Vector.replicate 16 0 ∧ r.outCur = Vector.replicate 8 0 ∧
        (t.core n).ctxs = k.ctxs) ∧
      (k.grid.ticking = true → (k.ctxs[c.val]'c.isLt).tick ≠ none → exec (.grunStart n) s = .next s)) ∧
    (∀ id c kp i l b g, k.grid.loading = none → k.gridHead = some (⟨id, c, kp, .cfg i l b⟩, g) →
      let im := imageFrom i (s.gridBytes (k.ctxs[c.val]'c.isLt))
      (gcfgRefused (k.ctxs[c.val]'c.isLt) b i im = none → ∃ t, exec (.configurationLoad n) s = .next t ∧ onlyCore n s t ∧
        (t.core n).grid = { g with loading := some (⟨id, c, kp, .cfg i l b⟩, s.cycle + 200 + (imgSize im + 63) / 64) } ∧
        (t.core n).ctxs = k.ctxs) ∧
      let x := k.ctxs[c.val]'c.isLt
      let refused (cause : BitVec 8) (d : Nat) : Prop := ∃ t f, exec (.configurationLoad n) s = .next t ∧ (t.core n).grid = g ∧
        let y := (t.core n).ctxs[c.val]'c.isLt
        y.faults = x.faults ++ [f] ∧ f.cause = cause ∧ f.detail = BitVec.ofNat 64 d ∧ f.source = 4 ∧ f.id = id ∧ f.kp = kp ∧
        y.k = (x.setToken kp id).k ∧ t.mem = s.mem ∧
        ∀ m, ((∀ e ∈ l, e.1 ≠ m) → y.sig m = x.sig m) ∧
          ∀ v, l.filter (fun e => e.1 == m) = [(m, v)] → y.sig m = (x.sig m).map fun q => { q with bind := v }
      let outs := (((List.range 8).map (imageOut im)).filter (·.getLsbD 15)).map fun e => e.extractLsb' 0 6
      let tapCause (j : Nat) : Option (BitVec 8) :=
        let e := imgTap im j
        let lag := (e.extractLsb' 0 9).toNat
        if e.getLsbD 31 = false then none
        else match x.sig (e.extractLsb' 9 6) with
          | none => some 0x26
          | some q => if q.plan.depth ≤ lag then some 0x26
            else if lag = 0 ∧ e.extractLsb' 9 6 ∈ outs then some 0x27 else none
      let outBad (j : Nat) : Prop :=
        let m := (imageOut im j).extractLsb' 0 6
        (imageOut im j).getLsbD 15 = true ∧ ((x.sig m).isNone = true ∨ b.toList.getD m.toNat none ∈ [some .stream, some .remote, some .cp] ∨
          1 < (outs.filter (· == m)).length)
      (im.length < 96 → refused 0x0E (i * 2 ^ 48)) ∧
      (∀ off, imageRefused im = some off → refused 0x0E (i * 2 ^ 48 + off)) ∧
      (imageRefused im = none →
        (∀ j cause, j < 16 → (∀ m, m < j → tapCause m = none) → tapCause j = some cause → refused cause (i * 2 ^ 48 + j)) ∧
        (∀ j, j < 8 → (∀ m, m < 16 → tapCause m = none) → (∀ m, m < j → ¬ outBad m) → outBad j →
          refused 0x26 (i * 2 ^ 48 + (16 + j))))) ∧
    (∀ id c kp i l b done, k.grid.loading = some (⟨id, c, kp, .cfg i l b⟩, done) → done ≤ s.cycle →
      let im := imageFrom i (s.gridBytes (k.ctxs[c.val]'c.isLt))
      let block (j : Nat) : Nat := 96 + j * (20 + 12 * imgPeriod im)
      ∃ t, exec (.configurationLoad n) s = .next t ∧ (t.core n).grid.loading = none ∧ (t.core n).mx.afeed = [] ∧
        ((t.core n).ctxs[c.val]'c.isLt) = (k.ctxs[c.val]'c.isLt).setToken kp id ∧ t.mem = s.mem ∧
        (t.core n).grid.period = leNat ((im.drop 4).take 1) ∧
        (t.core n).grid.ticking = (leNat ((im.drop 5).take 1)).testBit 0 ∧
        (∀ y, (h : y < 16) → (t.core n).grid.tapb[y]'h = BitVec.ofNat 32 (leNat ((im.drop (8 + 4 * y)).take 4))) ∧
        (∀ y, (h : y < 8) → (t.core n).grid.outb[y]'h = BitVec.ofNat 16 (leNat ((im.drop (72 + 2 * y)).take 2))) ∧
        (t.core n).grid.params = Vector.replicate 8 0 ∧ (t.core n).grid.ports = Vector.replicate 2 {} ∧
        (t.core n).grid.owner = k.grid.owner ∧ (t.core n).grid.queue = k.grid.queue ∧ (t.core n).grid.dom = k.grid.dom ∧
        ∀ o, (h : o < 32) →
          let tile := (t.core n).grid.tiles[o]'h
          ({ tile with q := Vector.replicate 4 0, mem := Vector.replicate 64 0 } : Tile) = {} ∧
          ((∀ j, j < imgTiles im → imgTileNo im j ≠ o) → tile = {}) ∧
          (∀ j, j < imgTiles im → imgTileNo im j = o → (∀ m, m < j → imgTileNo im m ≠ o) →
            (∀ y, (hy : y < 4) → tile.q[y]'hy = BitVec.ofNat 32 (leNat ((im.drop (block j + 4 + 4 * y)).take 4))) ∧
            ∀ w, (hw : w < 64) → tile.mem[w]'hw =
              if w < imgPeriod im then BitVec.ofNat 96 (leNat ((im.drop (block j + 20 + 12 * w)).take 12)) else 0))

/-- A word of a `grun` and what ends it (R79, R170 to R179, R182 to R211, R308). While the grid is frozen, or its context is being taken
away, the word stays; a word with a fault ends the run, which performs, and the fault is held against its
context; any other has its effects in one cycle, and then the next word follows, or the iteration ends: its flags enter FLAGS, a
ticking configuration ticks, or waits for its tick, and the cursors start anew. After the last END, when no result is in flight, the
`grun` performs. A word of one move reads its port and writes its destination under the word's mask, and no other tile changes; a
trigger starts its unit's operation on the row, the latch and mul.c, with the unit's latency, and the values and flags of the
operation, every one of ALU, MUL, Attar and SHF; a result lands in its port or frame under its mask. The remaining effects of a word
are the same, by the words' moves in order. The model's choices: a move to `nil` reads its source, and so draws, advances a cursor or
pops a row (log entry 49); an A-feed row is kept with the kernel, place and domain that pushed it (log entry 26); a rounded SLI result
that no precision decides is a free value (log entry 8). -/
def Obligations.GridRuns : Prop :=
  (∀ (s : State) (n : CoreId) (r : GridRun), (s.core n).grid.run = some r →
    let k := s.core n
    let c : CtxId := { core := n, ctx := r.ctx }
    let x := k.ctxs[r.ctx.val]'r.ctx.isLt
    let ws := k.grid.words r
    (r.atEnd = true ∨ s.quiescing c = true → exec (.gridWord n) s = .next s) ∧
    (r.atEnd = false → r.endWait = false → s.quiescing c = false → k.frozen x ws = true → exec (.gridWord n) s = .next s) ∧
    (r.atEnd = false → r.endWait = false → s.quiescing c = false → k.frozen x ws = false → k.grid.wordFault x ws = none →
      let k' := (k.word x r.ctx s.cycle s.cmdSeq r.ord ws).1
      let x' := (k.word x r.ctx s.cycle s.cmdSeq r.ord ws).2
      let owed (q : GridRun) (j : Fin 4) : FlagSet := ((q.owed.filter fun o =>
        o.1 == j && (k.ctxs[j.val]'j.isLt).live && (k.ctxs[j.val]'j.isLt).kid == o.2.1).map (·.2.2)).foldl (· ||| ·) 0
      let flagged (t : State) (q : GridRun) : Prop := ∀ j : Fin 4, (t.ctx { core := n, ctx := j }).flags =
        (if j = r.ctx then x'.flags ||| q.flags else (k.ctxs[j.val]'j.isLt).flags) ||| owed q j
      (r.word + 1 < k.grid.period → ∃ t, exec (.gridWord n) s = .next t ∧
        (t.core n).grid = { k'.grid with run := k'.grid.run.map fun q => { q with word := q.word + 1 } } ∧
        (t.core n).mx = k'.mx ∧ t.ctx c = { x' with gbusy := x'.gbusy + 1 } ∧ (∀ o, o ≠ c → t.ctx o = s.ctx o) ∧ t.mem = s.mem ∧
        (t.core n).cp = k.cp ∧ (t.core n).acc = k.acc) ∧
      (∀ r', k.grid.period ≤ r.word + 1 → k'.grid.run = some r' → k'.grid.ticking = false → ∃ t, exec (.gridWord n) s = .next t ∧
        flagged t r' ∧ (t.ctx c).now = x'.now ∧ t.mem = s.mem ∧
        (t.core n).grid = { k'.grid with run := some { r' with
          flags := 0, owed := [], left := r'.left - 1, ord := r'.ord + 1, word := 0, endWait := false, atEnd := decide (r'.left ≤ 1)
          tapCur := Vector.replicate 16 0, outCur := Vector.replicate 8 0 } }) ∧
      (∀ r', k.grid.period ≤ r.word + 1 → k'.grid.run = some r' → k'.grid.ticking = true → x'.tickOverflow = none →
        ∃ t, exec (.gridWord n) s = .next t ∧ flagged t r' ∧ t.mem = s.mem ∧
          (x'.tickWaits = true → (t.ctx c).now = x'.now ∧
            (t.core n).grid = { k'.grid with run := some { r' with flags := 0, owed := [], endWait := true } }) ∧
          (x'.tickWaits = false → (t.ctx c).now = x'.now + 1 ∧
            (t.core n).grid = { k'.grid with run := some { r' with
              flags := 0, owed := [], left := r'.left - 1, ord := r'.ord + 1, word := 0, endWait := false, atEnd := decide (r'.left ≤ 1)
              tapCur := Vector.replicate 16 0, outCur := Vector.replicate 8 0 } })) ∧
      (∀ d, k.grid.period ≤ r.word + 1 → k'.grid.run.isSome = true → k'.grid.ticking = true → x'.tickOverflow = some d →
        ∃ t f, exec (.gridWord n) s = .next t ∧ (t.core n).grid.run = none ∧ f ∈ (t.ctx c).faults ∧ f.cause = 0x28 ∧
          f.detail = d ∧ f.source = 4 ∧ (t.ctx c).now = x'.now)) ∧
    (∀ cause sig, r.atEnd = false → r.endWait = false → s.quiescing c = false → k.frozen x ws = false →
      k.grid.wordFault x ws = some (cause, sig) → ∃ t f, exec (.gridWord n) s = .next t ∧ (t.core n).grid.run = none ∧
        f.cause = cause ∧ f.source = 4 ∧ f.id = r.id ∧ f.kp = r.kp ∧ f ∈ ((t.core n).ctxs[r.ctx.val]'r.ctx.isLt).faults) ∧
    (r.atEnd = true → k.grid.tiles.all (fun t => t.ops.isEmpty && t.att.isEmpty) = true → ∃ t,
      exec (.grunPerform n) s = .next t ∧ (t.core n).grid = { k.grid with run := none } ∧
      ((t.core n).ctxs[r.ctx.val]'r.ctx.isLt) = x.setToken r.kp r.id ∧ t.mem = s.mem) ∧
    (r.atEnd = true → s.quiescing c = false → ∃ t, exec (.landingAfterLastEnd n) s = .next t ∧
      (t.core n).grid = k.grid.landCycle.1 ∧ ((t.core n).ctxs[r.ctx.val]'r.ctx.isLt).flags = x.flags ||| k.grid.landCycle.2 ∧
      t.mem = s.mem)) ∧
  (∀ (s : State) (n : CoreId) (r : GridRun) (T : Fin 32) (gd : BitVec 2) (m : Move),
    let k := s.core n
    let x := k.ctxs[r.ctx.val]'r.ctx.isLt
    let g := k.grid
    let tile := g.tiles[T.val]'T.isLt
    let mask : BitVec 64 := if gd = 1 then tile.g[0] else if gd = 2 then tile.g[1] else BitVec.allOnes 64
    g.run = some r → g.words r = [⟨T, gd, [m]⟩] → (∀ o, (h : o < 32) → (g.tiles[o]'h).ops = []) → r.atEnd = false →
    r.endWait = false → s.quiescing { core := n, ctx := r.ctx } = false → k.frozen x (g.words r) = false →
    g.wordFault x (g.words r) = none → r.word + 1 < g.period →
    ∃ t row, exec (.gridWord n) s = .next t ∧
      let k' := t.core n
      let x' := k'.ctxs[r.ctx.val]'r.ctx.isLt
      let tile' := k'.grid.tiles[T.val]'T.isLt
      let base : Tile := { tile with cnt := tile.cnt + BitVec.ofNat 64 ((if m.src = 0x0F then 1 else 0) + m.draws) }
      -- the rounding of result element `e` of width `w`, by draw `i` of the operation (R188, R207)
      let drawn (i l : Nat) : Lane := if m.rnd = 5 then
        drawLane tile.seed (tile.cnt + BitVec.ofNat 64 ((if m.src = 0x0F then 1 else 0) + i)) l else 0
      let rd (w e i : Nat) : Rounding :=
        { mode := m.rnd, u := (drawn i (w * e / 32)).rotateLeft (w * (e % (32 / w)) % 32) }
      portGives g T m.src row ∧
      (m.src = 0x0F → ∀ l, l < 64 → laneOf row l = drawLane tile.seed tile.cnt l) ∧
      (∀ y, y < 4 → m.src = 0x44 + y → ∀ sg, x.sig (g.tapOf T m.src).1 = some sg →
        let cur := (r.tapCur[4 * (T.val / 8) + y]?).getD 0
        let lag := (g.tapOf T m.src).2
        row = (if sg.adv < lag then rowOf sg.plan.start else sg.rowAt (sg.adv - lag) (cur % sg.plan.rows)) ∧
        ∃ r', k'.grid.run = some r' ∧ (r'.tapCur[4 * (T.val / 8) + y]?).getD 0 = cur + 1) ∧
      (∀ y, (h : y < 2) → m.src = 0x48 + y →
        ((g.ports[y]'h).rows = [] → row = (g.ports[y]'h).last) ∧
        (∀ a rest, (g.ports[y]'h).rows = a :: rest → row = a.row ∧ (m.dst ≠ 0x4A + y →
          (k'.grid.ports[y]'h).rows = rest ∧ (k'.grid.ports[y]'h).last = a.row))) ∧
      (∀ o, (h : o < 32) → o ≠ T.val → k'.grid.tiles[o]'h = g.tiles[o]'h) ∧
      (m.dst < 0x68 → movedTo base m.dst row mask tile') ∧
      (0x44 ≤ m.dst ∧ m.dst ≤ 0x58 → tile' = base) ∧
      (∀ y, (h : y < 8) → k'.grid.params[y]'h =
        if m.dst = 0x50 + y ∧ mask.getLsbD 0 = true then laneOf row 0 else g.params[y]'h) ∧
      (m.dst = 0x48 → ∃ a, k'.mx.afeed = k.mx.afeed ++ [⟨x.kid, x.place, x.dom, a, (r.ctx, r.id)⟩] ∧ mixed 0 row mask a) ∧
      (m.dst ≠ 0x48 → k'.mx.afeed = k.mx.afeed) ∧
      (m.dst = 0x58 → mask.getLsbD 0 = true → ∃ c, k'.mx.queue = k.mx.queue ++ [c] ∧ c.isLoad = false ∧
        c.entry = (laneOf row 0).extractLsb' 0 5 ∧ c.params = g.params ∧ c.ctx = r.ctx ∧ c.fromGrid = true) ∧
      (m.dst ≠ 0x58 ∨ mask.getLsbD 0 = false → k'.mx.queue = k.mx.queue) ∧
      (∀ y, (h : y < 2) → m.dst = 0x4A + y →
        (mask.getLsbD 0 = true → ∃ q, (k'.grid.ports[y]'h).reqs = (g.ports[y]'h).reqs ++ [q] ∧
          q.row = (laneOf row 0).extractLsb' 0 10 ∧ q.fmt.toNat = m.op % 32 ∧ q.rnd = m.rnd ∧ q.ctx = r.ctx ∧
          q.waits = k.mx.callsBefore ∧ q.run = r.id) ∧
        (mask.getLsbD 0 = false → (k'.grid.ports[y]'h).reqs = (g.ports[y]'h).reqs)) ∧
      (∀ y, y < 2 → m.dst = 0x44 + y → ∀ sg, x.sig (g.outOf T m.dst) = some sg →
        let cur := (r.outCur[2 * (T.val / 8) + y]?).getD 0
        x'.sig (g.outOf T m.dst) = some (sg.writeRow sg.adv x.now (cur % sg.plan.rows) fun old => mergeLanes old row mask) ∧
        ∀ i, i ≠ g.outOf T m.dst → x'.sig i = x.sig i) ∧
      (m.dst ≠ 0x44 ∧ m.dst ≠ 0x45 → x'.sigs = x.sigs) ∧
      (∀ w y, (y = 0 ∧ w = 8) ∨ (y = 1 ∧ w = 16) ∨ (y = 2 ∧ w = 32) →
        let el (a : Row) (e : Nat) : BitVec w := a.extractLsb' (w * e) w
        (m.dst = 0x68 + y → m.op ≤ 29 → ∃ o, tile' = { base with ops := [o] } ∧ o.kind = .alu ∧ o.rem = 1 ∧ o.mask = mask ∧
          let v (e : Nat) : BitVec w × Bool := aluElement m.op (el row e) (el tile.aluO e)
            ((tile.g[0]).getLsbD (w * e / 32)) ((tile.g[1]).getLsbD (w * e / 32))
          carries o w (fun e => (v e).1) (fun e => when (v e).2 fSAT)) ∧
        (m.dst = 0x6D + y → m.op ≤ 6 → ∃ o, tile' = { base with ops := [o] } ∧ o.kind = .mul ∧ o.rem = 3 ∧ o.mask = mask ∧
          let v (e : Nat) : BitVec w × Bool := mulElement m.op (el row e) (el tile.mulO e) (el tile.mulC e)
          carries o w (fun e => (v e).1) (fun e => when (v e).2 fSAT)) ∧
        (m.dst = 0x6D + y → m.op = 7 → ∃ o, tile' = { base with ops := [o] } ∧ o.kind = .mul ∧ o.rem = 3 ∧ o.mask = mask ∧
          let v (e : Nat) : BitVec w × FlagSet := mulqElement (rd w e 0) (el row e) (el tile.mulO e)
          carries o w (fun e => (v e).1) (fun e => (v e).2))) ∧
      (∀ w y f, (y = 3 ∧ w = 16 ∧ f = FpFmt.bf16) ∨ (y = 4 ∧ w = 32 ∧ f = FpFmt.fp32) →
        let el (a : Row) (e : Nat) : BitVec w := a.extractLsb' (w * e) w
        (m.dst = 0x68 + y → m.op ≤ 17 → ∃ o, tile' = { base with ops := [o] } ∧ o.kind = .alu ∧ o.rem = 1 ∧ o.mask = mask ∧
          let v (e : Nat) : BitVec w × FlagSet := fpAluElement f m.op (rd w e 0) (el row e) (el tile.aluO e)
            ((tile.g[0]).getLsbD (w * e / 32)) ((tile.g[1]).getLsbD (w * e / 32))
          carries o w (fun e => (v e).1) (fun e => (v e).2)) ∧
        (m.dst = 0x6D + y → m.op ≤ 3 → ∃ o, tile' = { base with ops := [o] } ∧ o.kind = .mul ∧ o.rem = 3 ∧ o.mask = mask ∧
          let v (e : Nat) : BitVec w × FlagSet :=
            fpMulElement f m.op (rd w e 0) (el row e) (el tile.mulO e) (el tile.mulC e)
          carries o w (fun e => (v e).1) (fun e => (v e).2))) ∧
      (∀ y sh a b, (y, m.op, sh, a, b) ∈ mulConversions → m.dst = 0x6D + y →
        ∃ o, tile' = { base with ops := [o] } ∧ o.kind = .mul ∧ o.rem = 3 ∧ o.mask = mask ∧
          let v (e : Nat) : BitVec b.width × FlagSet := convertedTo a b (rd b.width e 0)
            (sourceOf sh a.width (2048 / b.width) row tile.mulO e)
          carries o b.width (fun e => (v e).1) (fun e => (v e).2)) ∧
      (m.dst = 0x74 → m.op ≤ 14 → ∃ o, tile' = { base with ops := [o] } ∧ o.kind = .shfRow ∧ o.rem = 2 ∧ o.mask = mask ∧
        let v (l : Nat) : Lane × FlagSet := rowLane m.op (fun e => rd 32 e 0) row tile.shfO l
        carries o 32 (fun l => (v l).1) (fun l => (v l).2)) ∧
      (m.dst = 0x75 → m.op ≤ 11 → 0x10 ≤ m.src → m.src ≤ 0x2F → ∃ o, tile' = { base with ops := [o] } ∧ o.rem = 17 ∧
        o.mask = mask ∧
        let toFrame : Bool := decide (m.op ≤ 1) || decide (8 ≤ m.op)
        let v (i l : Nat) : Lane × FlagSet := columnLane m.op (m.src % 16) (fun i l => rd 32 l i)
          (if m.src < 0x20 then tile.f[0] else tile.f[1]) i l
        o.kind = .shfCol (if toFrame then some (if m.src < 0x20 then 1 else 0) else none) ∧
        o.rows.length = (if toFrame then 16 else 1) ∧
        (∀ i l, i < o.rows.length → l < 64 → laneOf (o.rows.getD i 0) l = (v i l).1) ∧
        ∀ b, b < 7 → (o.flags.getLsbD b = true ↔ ∃ i l, i < o.rows.length ∧ l < 64 ∧ mask.getLsbD l = true ∧
          (v i l).2.getLsbD b = true)) ∧
      (∀ f sh src dst sat, (f, m.op, sh, src, dst, sat) ∈ attConversions → m.dst = (if f = .sl32 then 0x72 else 0x73) →
        ∃ a steps, tile' = { base with att := tile.att ++ [a], attDone := a.done } ∧ a.mask = mask ∧ a.idx = none ∧
          a.done = max (s.cycle + steps) (tile.attDone + 1) ∧ 3 ≤ steps ∧
          let w := dst.width
          let v (e : Nat) : Nat × FlagSet := attConverted src dst sat (rd w e 0)
            (sourceOf sh src.width (2048 / w) row tile.attO e).toNat
          (∀ e, e < 2048 / w → a.res.extractLsb' (w * e) w = BitVec.ofNat w (v e).1) ∧
          ∀ b, b < 7 → (a.flags.getLsbD b = true ↔
            ∃ e, e < 2048 / w ∧ mask.getLsbD (w * e / 32) = true ∧ (v e).2.getLsbD b = true)) ∧
      (∀ w y f, (y = 0 ∧ w = 32 ∧ f = SliFmt.sl32) ∨ (y = 1 ∧ w = 16 ∧ f = SliFmt.sl16) → m.dst = 0x72 + y → m.op ≤ 18 →
        ∃ a steps, tile' = { base with att := tile.att ++ [a], attDone := a.done } ∧ a.mask = mask ∧
          a.done = max (s.cycle + steps) (tile.attDone + 1) ∧ 3 ≤ steps ∧ steps ≤ 16 ∧ (7 ≤ m.op → steps = 3) ∧
          (a.idx.isSome = true ↔ m.op = 12) ∧
          ∀ e, e < 2048 / w →
            let el (v : Row) : BitVec w := v.extractLsb' (w * e) w
            let u := (f.decode (el row).toNat).1
            let v := (f.decode (el tile.attO).toNat).1
            let truth := attTruth m.op u v ((tile.g[0]).getLsbD (w * e / 32)) ((tile.g[1]).getLsbD (w * e / 32))
            let win : Bool := u != .nar && (v == .nar || decide (v.key < u.key))
            (∀ z, attExactly m.op u v = some z → el a.res = BitVec.ofNat w (f.encode z)) ∧
            (13 ≤ m.op → m.op ≤ 16 → el a.res = if truth then BitVec.allOnes w else 0) ∧
            (17 ≤ m.op → el a.res = if truth then el row else el tile.attO) ∧
            (∀ ix, a.idx = some ix → el a.res = BitVec.ofNat w (f.encode (if win then u else v)) ∧
              el ix = if win then BitVec.ofNat w (tile.q[3].toNat + r.ord * (2048 / w) + e) else el tile.attX))) ∧
  (∀ (t t' : Tile) (o : UnitOp) (fl : FlagSet), t.ops = [o] → t.landCycle = (t', fl) →
    (1 < o.rem → t' = { t with ops := [{ o with rem := o.rem - 1 }] } ∧ fl = 0) ∧
    (∀ a, o.rem = 1 → o.rows = [a] → fl = o.flags ∧
      (o.kind = .alu → ∃ v, mixed t.aluR a o.mask v ∧ t' = { t with ops := [], aluR := v }) ∧
      (o.kind = .mul → ∃ v, mixed t.mulR a o.mask v ∧ t' = { t with ops := [], mulR := v }) ∧
      (o.kind = .shfRow ∨ o.kind = .shfCol none → ∃ v, mixed t.shfR a o.mask v ∧ t' = { t with ops := [], shfR := v })) ∧
    (∀ (i : Fin 2), o.rem = 1 → o.kind = .shfCol (some i) → fl = o.flags ∧ ∃ f : Vector Row 16,
      t' = { t with ops := [], f := t.f.set i.val f } ∧
      ∀ j, (h : j < 16) → mixed ((t.f[i.val])[j]'h) (o.rows.getD j 0) o.mask (f[j]'h)))

/-- Attar completions and accumulator readouts (R94, R172, R174, R179, R188, R200, R219, R220): the oldest Attar operation of a tile
completes in its cycle, into att.r under its mask, and with its index into att.x; the oldest request of a port that waits for no call,
wherever that stands, reads its row, a row that another domain wrote last as zero: each cell c × 2^(A − 48), clamped to 64 bits,
converted once to the readout's format, an invalid one as NaN, NaR or 0 with NV; its rows are ready from 8 cycles on, one a cycle,
its flags with the last; rows that are due enter the port's queue of eight. That the flags go to the caller of the routine as well, and
that the wait goes on while pre-emption holds a call, are the model's readings (log entries 25 and 26). -/
def Obligations.AttarAndReadouts : Prop :=
  ∀ (s : State) (n : CoreId) (t : Fin 32) (p : Fin 2),
    let k := s.core n
    let tile := k.grid.tiles[t.val]'t.isLt
    let port := k.grid.ports[p.val]'p.isLt
    (∀ a rest, tile.att = a :: rest → a.done ≤ s.cycle → ∃ u, exec (.attarComplete n t) s = .next u ∧
      let tile' := (u.core n).grid.tiles[t.val]'t.isLt
      tile'.att = rest ∧ mixed tile.attR a.res a.mask tile'.attR ∧
      (∀ ix, a.idx = some ix → mixed tile.attX ix a.mask tile'.attX) ∧ (a.idx = none → tile'.attX = tile.attX) ∧
      (∀ o, (h : o < 32) → o ≠ t.val → (u.core n).grid.tiles[o]'h = k.grid.tiles[o]'h) ∧ u.mem = s.mem) ∧
    (∀ q rest, port.reqs = q :: rest → (∀ i ∈ q.waits, i ∉ s.openCalls) →
      let row := k.acc[q.row.toNat]'(q.row.isLt)
      let seen : AccRow := if row.dom = some (k.ctxs[q.ctx.val]'q.ctx.isLt).dom then row else {}
      let f : ReadFmt := match q.fmt.toNat with
        | 0 => .fp .fp32 false
        | 1 => .fp .bf16 false
        | 2 => .sli .sl32
        | 3 => .sli .sl16
        | 4 => .int 32
        | 5 => .int 16
        | 6 => .int 8
        | _ => .fp .fp32 true
      let w : Nat := match q.fmt.toNat with
        | 1 | 3 | 5 => 16
        | 6 => 8
        | _ => 32
      let cell (j : Nat) (hj : j < 128) : Nat × FlagSet :=
        let e := j % (2048 / w)
        let r : Rounding := { mode := q.rnd, u := (laneOf q.draw (w * e / 32)).rotateLeft (w * (e % (32 / w)) % 32) }
        let c := (seen.c[j]'hj).toInt
        let v : Int := max (-(2 ^ 63)) (min (2 ^ 63 - 1) c)
        let x : Machine.Num := if seen.inv.getLsbD j then .nan else .dyadic v (seen.anchor.toInt - 48)
        let out : Nat × FlagSet := match f with
          | .fp g sat => g.round r sat x
          | .sli g => g.ofNum r (attKey 34 r (seen.c[j]'hj).toNat seen.anchor.toNat) x
          | .int _ => toIntFmt r true w x
        (out.1, out.2 ||| (if seen.inv.getLsbD j then fNV else when (v != c) fSAT))
      ∃ (u : State) (rows : List Row), exec (.readoutSnapshot n p) s = .next u ∧ ((u.core n).grid.ports[p.val]'p.isLt).reqs.length ≤ rest.length ∧
        (u.core n).acc = k.acc ∧ (u.core n).ctxs = k.ctxs ∧ u.mem = s.mem ∧ rows.length = (if w = 32 then 2 else 1) ∧
        (∀ j, (hj : j < 128) → ((rows.getD (w * j / 2048) 0).extractLsb' (w * j % 2048) w).toNat = (cell j hj).1 % 2 ^ w) ∧
        (q.fmt = 6 → (rows.getD 0 0).extractLsb' 1024 1024 = 0) ∧
        ∀ i, i < rows.length → ∃ d ∈ ((u.core n).grid.ports[p.val]'p.isLt).coming, d.cyc = s.cycle + 8 + i ∧
          d.row = rows.getD i 0 ∧ d.last = decide (i + 1 = rows.length) ∧ d.caller = seen.caller ∧ d.src = (q.ctx, q.run) ∧
          (i + 1 ≠ rows.length → d.flags = 0) ∧
          (i + 1 = rows.length → ∀ b, b < 7 → (d.flags.getLsbD b = true ↔
            (seen.mark = true ∧ fSAT.getLsbD b = true) ∨ ∃ j, ∃ hj : j < 128, (cell j hj).2.getLsbD b = true))) ∧
    (∀ r rest, port.coming = r :: rest → r.cyc ≤ s.cycle → port.rows = [] → ∃ u, exec (.readoutRowDeliver n p) s = .next u ∧
      ((u.core n).grid.ports[p.val]'p.isLt).rows.head? = some r ∧ (u.core n).ctxs = k.ctxs ∧ u.mem = s.mem ∧
      ((u.core n).grid.ports[p.val]'p.isLt).rows.length ≤ 8)

/-! ### Engines and Yarrow (R60 to R64, R231, R236 to R247, R315) -/

/-- The stream engines on their commands (R231, R239, R313, R315, R327, R345): an idle engine takes the head of its queue, unless a
boundary is to release it or its context is being taken away; a suspended command that is to retry works again; the entries of an
index sample are read once it is readable; a unit whose translation fails discards the writes after it, and, once the command's earlier
writes have performed, suspends the command at its resume point, with the fault held. -/
def Obligations.EnginesServeTheirQueues : Prop :=
  ∀ (s : State) (n : CoreId) (e : Fin 6),
    let eng := s.engine n e
    (∀ q rest, eng.current = none → eng.queue = q :: rest → eng.queue.all (fun c => !c.isDrain || c.effective) = true →
      (q.held = false → s.quiescing (q.ctxId n) = false →
        exec (.streamCommandTake n e) s = .next (s.onCore n fun k => { k with
          engines := k.engines.set e.val { eng with queue := rest, current := some { q with taken := true } } e.isLt })) ∧
      (q.held = true ∨ s.quiescing (q.ctxId n) = true → exec (.streamCommandTake n e) s = .next s)) ∧
    (∀ q f, eng.current = some q → q.susp = some f →
      (q.retry = true → ∃ t, exec (.streamRetry n e) s = .next t ∧ onlyCore n s t ∧
        t.engine n e = { eng with current := some { q with susp := none, retry := false } } ∧
        (t.core n).ctxs = (s.core n).ctxs ∧ (t.core n).plane = (s.core n).plane) ∧
      (q.retry = false → exec (.streamRetry n e) s = .next s)) ∧
    (∀ q g, eng.current = some q → q.kind = .sload ∨ q.kind = .sloadPl ∨ q.kind = .sstore → q.ix = none →
      (recOf q.rec1).ixen = true → (s.ctx (q.ctxId n)).sig (recOf q.rec1).ixsig = some g →
      (g.readable q.ixAdv = true → ∃ t, exec (.indexLookup n e) s = .next t ∧ onlyCore n s t ∧
        t.engine n e = { eng with current := some { q with
          ix := some ((recOf q.rec1).entries (g.slot q.ixAdv).data) } } ∧
        sameRegisters (s.ctx (q.ctxId n)) (t.ctx (q.ctxId n)) ∧ (t.core n).plane = (s.core n).plane) ∧
      (g.readable q.ixAdv = false → exec (.indexLookup n e) s = .next s)) ∧
    (∀ q c v, s.working n e = some q → q.kind = .sstore → (s.ctx (q.ctxId n)).drainReady q = true →
      s.unitDest n (s.ctx (q.ctxId n)).dom (recOf q.rec1) q.a.toNat (q.ix.getD []) q.j q.e q.run = .error (c, v) →
      c = 0x50 ∨ c = 0x52 ∨ c = 0x53 → q.reqs = [] → (∀ o ∈ eng.sent, o.id ≠ q.id) →
      let u := q.j * (recOf q.rec1).winUnits + q.e
      let ours (p : Posted) : Bool := p.eng == some e && p.src.core == n && p.cmd == q.id
      ∃ t q', exec (.drainSample n e) s = .next t ∧ (t.engine n e).current = some q' ∧ q'.j = q.j ∧ q'.e = q.e ∧ t.mem = s.mem ∧
        t.posted = s.posted.filter (fun p => !(ours p && decide (u ≤ p.ord))) ∧
        ((∃ p ∈ s.posted, ours p = true ∧ p.ord < u) → q' = { q with fail := some (u, c, v), reqs := [] } ∧
          (t.core n).ctxs = (s.core n).ctxs) ∧
        ((∀ p ∈ s.posted, ours p = true → u ≤ p.ord) → q'.susp = some (c, v) ∧ q'.retry = false ∧ q'.run = none ∧ q'.fail = none ∧
          ∃ f, (t.ctx (q.ctxId n)).faults = (s.ctx (q.ctxId n)).faults ++ [f] ∧ f.cause = c ∧ f.detail = v ∧ f.id = q.id ∧
            f.source = 6 ∧ f.unit.toNat = e.val ∧ f.susp = true))

/-- Fills (R63, R236 to R238, R255, R262): while its next sample's slot is admitted, a `sload` translates the units of its window in
their order and reads those translated, one at a time; when all are gathered, the sample is full with the units from position 0
upward, and the command goes on to its next window, or performs. A sample that is gathered waits for its slot. Which of these an
engine does is a free choice (log entry 48), and so is the translation (log entry 29 names what a fault reports). -/
def Obligations.FillsWriteSamples : Prop :=
  ∀ (s : State) (n : CoreId) (e : Fin 6) (q : StreamCmd) (g : Signal),
    let c := q.ctxId n
    let r := recOf q.rec1
    s.working n e = some q → q.kind = .sload → (s.ctx c).sig q.sig = some g →
    (g.fillMeets q.fillSample = .wait → r.winUnits ≤ q.e → q.reqs = [] → exec (.fillWindow n e) s = .next s) ∧
    (g.fillMeets q.fillSample = .ok → q.e < r.winUnits → s.readsNow q = false → ∀ u,
      s.unitSrc n q.ctx r q.a.toNat (q.ix.getD []) q.j q.e q.run = .ok u → ∃ t, exec (.fillWindow n e) s = .next t ∧
        onlyCore n s t ∧ (t.core n).ctxs = (s.core n).ctxs ∧ (t.core n).plane = (s.core n).plane ∧
        (∀ b, u.bytes = some b → (t.engine n e).current = some { q with run := u.run, e := q.e + 1, got := q.got ++ [(q.e, b)] }) ∧
        (u.bytes = none → ∃ v, (t.engine n e).current = some { q with run := u.run, e := q.e + 1, reqs := q.reqs ++ [v] } ∧
          v.u = q.e ∧ v.va = u.va ∧ v.src = u.src ∧ v.pos = u.pos)) ∧
    (g.fillMeets q.fillSample = .ok → s.readsNow q = true ∨ r.winUnits ≤ q.e → ∀ u b, s.nextReq q = some u →
      s.readReq n q (fun _ => .core n) u = .ok b → ∃ t, exec (.fillWindow n e) s = .next t ∧ u ∈ q.reqs ∧ t.mem = s.mem ∧
        (t.core n).ctxs = (s.core n).ctxs ∧ (t.core n).plane = (s.core n).plane ∧
        (t.engine n e).current = some { q with reqs := q.reqs.filter (fun v => v.u != u.u), got := q.got ++ [(u.u, b)] }) ∧
    (g.fillMeets q.fillSample = .ok → r.winUnits ≤ q.e → q.reqs = [] →
      ∃ t, exec (.fillWindow n e) s = .next t ∧ onlyCore n s t ∧ sameRegisters { s.ctx c with k := (t.ctx c).k } (t.ctx c) ∧
        (t.core n).plane = (s.core n).plane ∧ (t.core n).cp = (s.core n).cp ∧ (t.engine n e).queue = (s.engine n e).queue ∧
        (0 < g.slots.length → g.slots.length = g.plan.nslots → ∃ g', (t.ctx c).sig q.sig = some g' ∧
          g'.adv = g.adv ∧ g'.bind = g.bind ∧ (g'.slot q.fillSample).st = .full ∧ (g'.slot q.fillSample).tag = q.fillSample ∧
          (g'.slot q.fillSample).claim = (s.ctx c).now ∧
          (g'.slot q.fillSample).data = r.sample g.plan.rows (q.gathered r.winUnits)) ∧
        (q.j + 1 < r.windows → (t.engine n e).current = some { q with j := q.j + 1, e := 0, got := [] } ∧
          (t.ctx c).k = (s.ctx c).k) ∧
        (r.windows ≤ q.j + 1 → (t.engine n e).current = none ∧ (t.ctx c).k = ((s.ctx c).setToken q.kp q.id).k))

/-- Drains and copies (R218, R231, R237, R238, R240, R241, R255, R262): a unit of a `sstore`'s sample goes into flight to the place
that the record gives, unless it is outside the tensor; with its last unit sent, the command leaves the engine and performs with its
last write. A `scopy` translates a unit and its destination, reads those translated, and sends their bytes on in the same way; a
`sload.pl` writes whole column words of the plane store. A unit in flight performs whole, at its place, under its domain's key, after
the earlier units of its command to a common byte; which write else performs when is free (log entry 48). -/
def Obligations.DrainsAndCopiesWriteUnits : Prop :=
  (∀ (s : State) (n : CoreId) (e : Fin 6) (q : StreamCmd), s.working n e = some q →
    let c := q.ctxId n
    let x := s.ctx c
    let r := recOf q.rec1
    let sends (t : State) (u : Nat) (ps : List (Nat × Nat)) (b : List Byte) : Prop := ∃ p, t.posted = s.posted ++ [p] ∧
      p.kind = .unit ps b ∧ p.eng = some e ∧ p.cmd = q.id ∧ p.ord = u ∧ p.id = s.cmdSeq ∧ p.src = c ∧ p.kid = x.kid ∧ p.dom = x.dom ∧
      p.key = s.keyOf x ∧ t.mem = s.mem ∧ t.cmdSeq = s.cmdSeq + 1 ∧ (∀ o, (t.core o).cp = (s.core o).cp) ∧
      (∀ o, (t.core o).plane = (s.core o).plane) ∧ sameRegisters x (t.ctx c)
    (q.kind = .sstore → x.drainReady q = true →
      (∀ ps run, s.unitDest n x.dom r q.a.toNat (q.ix.getD []) q.j q.e q.run = .ok (some ps, run) →
        ∃ t, exec (.drainSample n e) s = .next t ∧ sends t (q.j * r.winUnits + q.e) ps (r.unitOfSample (x.drainRows q) q.e) ∧
          (q.e + 1 < r.winUnits → (t.engine n e).current = some { q with run := run, e := q.e + 1 }) ∧
          (r.winUnits ≤ q.e + 1 → q.j + 1 < q.samples →
            (t.engine n e).current = some { q with run := run, j := q.j + 1, e := 0, entry := none }) ∧
          (r.winUnits ≤ q.e + 1 → q.samples ≤ q.j + 1 → (t.engine n e).current = none ∧
            (t.engine n e).sent = (s.engine n e).sent ++ [{ q with run := run, j := q.samples, e := 0 }])) ∧
      (∀ run, s.unitDest n x.dom r q.a.toNat (q.ix.getD []) q.j q.e q.run = .ok (none, run) →
        exec (.drainSample n e) s = .next (s.drainNext n e q r.winUnits))) ∧
    (q.kind = .sstore → x.drainReady q = false → exec (.drainSample n e) s = .next s) ∧
    (q.kind = .scopy ∨ q.kind = .sloadPl → q.j < r.windows → q.reqs = [] → s.quiescing c = false →
      ∀ u dst run2, s.unitSrc n q.ctx r q.a.toNat (q.ix.getD []) q.j q.e q.run = .ok u → s.copyDest n q = .ok (dst, run2) →
        let q' : StreamCmd := { q.copyNext with run := u.run, run2 := run2 }
        ∃ t, exec (.copyUnit n e) s = .next t ∧
          (u.bytes = none → ∃ v, (t.engine n e).current = some { q' with reqs := [v] } ∧ v.u = q.j * r.winUnits + q.e ∧
            v.va = u.va ∧ v.src = u.src ∧ v.dst = dst ∧ t.posted = s.posted ∧ t.mem = s.mem) ∧
          (∀ b, u.bytes = some b → q.kind = .scopy → (t.engine n e).current = some q' ∧
            (∀ ps, dst = some ps → sends t (q.j * r.winUnits + q.e) ps b) ∧
            (dst = none → t.posted = s.posted ∧ t.mem = s.mem))) ∧
    (∀ u b, q.kind = .scopy ∨ q.kind = .sloadPl → q.reqs = [u] → s.readsNow q = true ∨ r.windows ≤ q.j ∨ s.quiescing c = true →
      q.fail = none → (∀ o ∈ (s.engine n e).sent, o.id ≠ q.id) → s.readReq n q (fun _ => .core n) u = .ok b → ∃ t, exec (.copyUnit n e) s = .next t ∧
        (q.kind = .scopy → (t.engine n e).current = some { q with reqs := [] } ∧ (∀ ps, u.dst = some ps → sends t u.u ps b) ∧
          (u.dst = none → t.posted = s.posted ∧ t.mem = s.mem)) ∧
        (q.kind = .sloadPl → t.posted = s.posted ∧ t.mem = s.mem ∧ (t.core n).cp = (s.core n).cp ∧
          ∀ w, (s.core n).window? x = some w → q.got = [] →
            let z := unitSize r.fmt
            let at0 := q.b.toNat % 2 ^ 32 + u.u * z
            z % 64 = 0 → q.b.toNat % 64 = 0 → b.length = z → u.u < r.windows * r.winUnits →
              Memory.getBytes (t.core n).plane (w.plBase + at0) z = b ∧
              ∀ o, o < w.plBase + at0 ∨ w.plBase + at0 + z ≤ o →
                Memory.get (t.core n).plane o = Memory.get (s.core n).plane o)) ∧
    (q.kind = .scopy ∨ q.kind = .sloadPl → r.windows ≤ q.j → q.reqs = [] → ∃ t, exec (.copyUnit n e) s = .next t ∧
      (t.engine n e).current = none ∧ t.posted = s.posted ∧ t.mem = s.mem ∧ (t.core n).plane = (s.core n).plane ∧
      (s.unitsOut n e q.id = false → (t.ctx c).k = (x.setToken q.kp q.id).k) ∧
      (s.unitsOut n e q.id = true → (t.ctx c).k = x.k ∧
        (t.engine n e).sent = (s.engine n e).sent ++ [{ q with j := q.samples, e := 0 }]))) ∧
  (∀ (s : State) (k : Nat) (p : Posted) (ps : List (Nat × Nat)) (b : List Byte), s.posted? k = some p → p.kind = .unit ps b →
    (s.unitBehind p ps = true → exec (.deviceWritePerform k) s = .next s) ∧
    (s.unitBehind p ps = false → s.strayKey p = false → (∀ q ∈ ps, s.linkDown q.1 = false) →
      (∀ e, p.eng = some e → ∀ c ∈ (s.engine p.src.core e).cmds, c.id = p.cmd → c.fail = none) →
      ∃ t, exec (.deviceWritePerform k) s = .next t ∧
      t.posted = s.posted.filter (fun o => o.id != p.id) ∧ (∀ o, (t.core o).cp = (s.core o).cp) ∧
      (∀ o, (t.core o).plane = (s.core o).plane) ∧
      ∀ pa m, ps = [(pa, m)] → Memory.getBytes t.mem pa (b.take m).length = b.take m ∧
        sameDevBytes s t pa (b.take m).length ∧
        (paExt pa = false → ∀ j, j < (b.take m).length → Owners.get t.memOwner (pa + j) = p.key)))

/-- Yarrow (R149, R242 to R248): the entries of a command's list are read one by one; an index that yields no row costs a `sgather` no
sample; one that yields a row fills the next sample with its item's units; a `sreduce` counts its rows, and pools them into its one
sample, its flags enter FLAGS, and it performs; a `sscatter` sends each element of its sample to the cell of the row that the index
yields, none where the row item holds no cell, and a cell takes what is added to it modulo 2^72, unless it is marked. The order of
these steps is free (log entry 48). -/
def Obligations.YarrowResults : Prop :=
  (∀ (s : State) (n : CoreId) (e : Fin 6) (q : StreamCmd) (g : Signal), s.working n e = some q →
    let c := q.ctxId n
    let x := s.ctx c
    let r := recOf q.rec1
    let still (i : Instr) (q' : StreamCmd) : Prop := ∃ t, exec i s = .next t ∧ onlyCore n s t ∧
      (t.core n).ctxs = (s.core n).ctxs ∧ (t.engine n e).current = some q'
    x.sig q.sig = some g →
    (∀ en run, q.entry = none → s.listEntry n q q.j = .ok (en, run) →
      (q.kind = .sgather → q.j < q.count → still (.yarrowGather n e) { q with entry := some en, runIx := run }) ∧
      (q.kind = .sreduce → q.j < q.count → g.fillMeets q.fillSample = .ok →
        still (.yarrowPool n e) { q with entry := some en, runIx := run }) ∧
      (q.kind = .sscatter → x.drainReady q = true → still (.yarrowScatterAdd n e) { q with entry := some en, runIx := run })) ∧
    (∀ w, q.kind = .sgather → q.entry = some (.skip, w) → q.j + 1 < q.count → still (.yarrowGather n e) q.nextEntry) ∧
    (∀ row w u, q.kind = .sgather → q.entry = some (row, w) → row ≠ .skip → g.fillMeets q.fillSample = .ok →
      s.readsNow q = false → q.e < r.itemUnits → s.rowUnit n q row q.j q.e q.run = .ok u →
      still (.yarrowGather n e) { q.met u q.e none with e := q.e + 1 }) ∧
    (∀ row w, q.kind = .sgather → q.entry = some (row, w) → row ≠ .skip → g.fillMeets q.fillSample = .ok →
      q.itemFull = true → q.j + 1 < q.count → ∃ t, exec (.yarrowGather n e) s = .next t ∧ onlyCore n s t ∧
        t.ctx c = x.setSig q.sig (some (g.writeSample q.fillSample x.now (r.sample g.plan.rows (q.gathered r.itemUnits)))) ∧
        (t.engine n e).current = some { q.nextEntry with made := q.made + 1 }) ∧
    (∀ row w, q.kind = .sreduce → q.entry = some (row, w) → q.j < q.count → g.fillMeets q.fillSample = .ok →
      (q.counts row = false → still (.yarrowPool n e) q.nextEntry) ∧
      (q.counts row = true → q.itemFull = true → still (.yarrowPool n e) (q.pooled row w))) ∧
    (q.kind = .sreduce → q.count ≤ q.j → g.fillMeets q.fillSample = .ok → ∃ t,
      exec (.yarrowPool n e) s = .next t ∧ onlyCore n s t ∧ (t.engine n e).current = none ∧
        (t.ctx c).flags = x.flags ||| (r.pool q.red q.pool).2 ∧ (t.ctx c).x = x.x ∧ (t.ctx c).p = x.p ∧
        (t.ctx c).k = (x.setToken q.kp q.id).k ∧
        (0 < g.slots.length → g.slots.length = g.plan.nslots → ∃ g', (t.ctx c).sig q.sig = some g' ∧ g'.adv = g.adv ∧
          (g'.slot q.fillSample).st = .full ∧
          (g'.slot q.fillSample).data = r.sample g.plan.rows (r.pool q.red q.pool).1)) ∧
    (∀ k w, q.kind = .sscatter → x.drainReady q = true → q.entry = some (.row k, w) → r.itemUnits = 0 → q.j + 1 < q.samples →
      ∃ t, exec (.yarrowScatterAdd n e) s = .next t ∧ t.posted = s.posted ∧ t.mem = s.mem ∧
        (t.engine n e).current = some { q with j := q.j + 1, e := 0, entry := none }) ∧
    (∀ k w u, q.kind = .sscatter → x.drainReady q = true → q.entry = some (.row k, w) → r.itemUnits ≠ 0 →
      s.rowUnit n q (.row k) q.j q.e q.run = .ok u → ∃ t p, exec (.yarrowScatterAdd n e) s = .next t ∧
        t.posted = s.posted ++ [p] ∧ p.kind = .cell ∧ p.eng = some e ∧ p.cmd = q.id ∧ p.src = c ∧ p.key = s.keyOf x ∧
        p.pa = ((u.src.head?.map (·.1)).getD 0) ∧ p.va = u.va ∧
        p.data = BitVec.ofInt 64 (sampleElem g.plan.fmt (x.drainRows q) q.e) ∧ t.mem = s.mem ∧
        (q.e + 1 < r.itemUnits → (t.engine n e).current = some { q with run := u.run, e := q.e + 1 }))) ∧
  (∀ (s : State) (k : Nat) (p : Posted), s.posted? k = some p → p.kind = .cell → s.behind p .dev = false → s.unread p = false →
    s.strayKey p = false → s.poisoned p.pa 16 = false → paExt p.pa = false →
    (∀ j, j < 16 → Owners.get s.memOwner (p.pa + j) = p.key) → ∃ t, exec (.cellAddPerform k) s = .next t ∧
      sameDevBytes s t p.pa 9 ∧ (∀ o, (t.core o).cp = (s.core o).cp) ∧ t.posted = s.posted.filter (fun o => o.id != p.id) ∧
      ((Memory.get s.mem (p.pa + 9)).getLsbD 0 = true → ∀ a, Memory.get t.mem a = Memory.get s.mem a) ∧
      ((Memory.get s.mem (p.pa + 9)).getLsbD 0 = false → (leNat (Memory.getBytes t.mem p.pa 9) : Int) =
        ((leNat (Memory.getBytes s.mem p.pa 9) : Int) + p.data.toInt) % 2 ^ 72))

/-! ### Between a context and the rest of its core (R40, R44, R65, R145, R165 to R167) -/

/-- Ticks, slot tables, the choice of a context, and its release (R40, R43, R44, R65, R98): a tick that waits for nothing completes,
NOW rises, the signals that are due advance and no other does, and every slot in use counts as claimed before a committed NOW (log
entry 44); a staged table takes effect at a cycle that is a multiple of 32; of the ready contexts the table's entry issues, or under a
conserving table and an `any` entry the one of the highest PRIO, of tied ones the next after the last winner; an ended context without
commands is free, and its kernel's barriers count it on. Barriers, `sync` and remote stores (R63, R145, R166, R167, R322, R334): a
wait is released 4, 48 or 160 cycles after the last arrival that it needs, the end of a member included, at once where its own count is
0 (log entry 49); once every member that has not ended has come to a `sync`, none stopped there, those that wait restart eight cycles
after the last came, or now if that is past, those of one core a cycle apart (how a member that has passed it in another run counts is
the model's reading of R346, log entry 40); an `rst` writes its unit of the partner's slot, and is discarded when the partner has
ended. -/
def Obligations.CoreEventsGoOn : Prop :=
  (∀ (s : State) (n : CoreId) (c : CtxId),
     let x := s.ctx c
     (∀ r, x.tick = some r →
       (x.tickWaits = true → exec (.tickStep c) s = .next s) ∧
       (x.tickWaits = false → ∃ t, exec (.tickStep c) s = .next t ∧ onlyCtx c s t ∧
         let y := t.ctx c
         y.tick = none ∧ y.now = x.now + 1 ∧ y.nowc = (if x.specd = 0 then x.now + 1 else x.nowc) ∧ y.specd = x.specd ∧
           y.x = x.x ∧ y.p = x.p ∧ y.flags = x.flags ∧ y.k = (x.setToken r.kp r.id).k ∧
           ∀ m g, x.sig m = some g →
             (g.plan.isStatic = false → g.plan.due (x.now + 1) = true →
               ∃ g', y.sig m = some g' ∧ g'.adv = g.adv + 1 ∧ g'.plan = g.plan ∧ g'.bind = g.bind) ∧
             (g.plan.isStatic = true ∨ g.plan.due (x.now + 1) = false → y.sig m = some (if x.specd = 0 then
               { g with slots := g.slots.map fun v => if v.st != .free then { v with past := true } else v } else g)))) ∧
     (∀ u, (s.core n).stagedAt = some u →
       (u < s.cycle → s.cycle % 32 = 0 → exec (.slotTableEffect n) s = .next (s.setCore n { s.core n with
         table := (s.core n).staged, strict := (s.core n).stagedStrict, stagedAt := none })) ∧
       (s.cycle ≤ u ∨ s.cycle % 32 ≠ 0 → exec (.slotTableEffect n) s = .next s)) ∧
     (x.live = true → x.ended = true → s.ctxBusy c = false →
       ∃ t, exec (.contextRelease c) s = .next t ∧ t.ctx c = { x with live := false, entryValid := 0 } ∧
         (∀ o, o ≠ c → t.ctx o = s.ctx o) ∧ t.mem = s.mem ∧
         (t.posted = s.posted.map fun p =>
           if p.src == c && p.kid == x.kid && decide (x.trigAt ≤ p.id) then { p with late := true } else p) ∧
         t.kernels = s.kernels.map fun k => if k.kid = x.kid then
           { k with gone := ⟨x.die, x.point, x.arrived, x.endedAt⟩ :: k.gone } else k) ∧
     (∀ (k : Core) (cycle : Nat) (ready : List (Fin 4)), ready.Nodup →
       let e := (k.table[cycle % 32]'(Nat.mod_lt _ (by decide))).toNat
       let prio (o : Fin 4) : Nat := (k.ctxs[o.val]'o.isLt).prio.toNat
       let after (o : Fin 4) : Nat := (o - k.lastTie - 1).val
       (∀ o ∈ ready, e = o.val → k.pick cycle ready = some (o, none)) ∧
       (e < 4 → (∀ o ∈ ready, e ≠ o.val) → k.strict = true → k.pick cycle ready = none) ∧
       (4 ≤ e ∨ ((∀ o ∈ ready, e ≠ o.val) ∧ k.strict = false) →
         (ready = [] → k.pick cycle ready = none) ∧
         (ready ≠ [] → ∃ o tie, k.pick cycle ready = some (o, tie) ∧ o ∈ ready ∧ (∀ m ∈ ready, prio m ≤ prio o) ∧
           ((∀ m ∈ ready, m ≠ o → prio m < prio o) → tie = none) ∧
           ((∃ m ∈ ready, m ≠ o ∧ prio m = prio o) → tie = some o ∧
             ∀ m ∈ ready, prio m = prio o → after o ≤ after m)))) ∧
     (∀ r tie, (∀ b ∈ s.readies n, (s.ctx { core := n, ctx := b.1 }).syncAt = none) → s.choose n = some (r, tie) →
       r ∈ s.readies n ∧ (s.core n).pick s.cycle ((s.readies n).map (·.1)) = some (r.1, tie))) ∧
  (∀ (s : State) (c : CtxId),
     let x := s.ctx c
     (∀ sc, x.wait = some ⟨sc, none⟩ → sc ≠ .none → sc ≠ .sys →
       let d := match sc with
         | .cl => 4
         | .die => 48
         | _ => 160
       let i := sc.release.1
       let m := (x.arrive[i.val]'i.isLt).toNat
       let nth (l : List Nat) (ended : Option Nat) : Option Nat :=
         if m = 0 then some 0 else if m ≤ l.length then l[l.length - m]? else ended
       let times := ((s.group c sc).map fun o =>
           nth ((s.ctx o).arrived[i.val]'i.isLt) (if (s.ctx o).ended then some (s.ctx o).endedAt else none)) ++
         (s.goneOf c sc).map fun g => nth (g.arrived[i.val]'i.isLt) (some g.endedAt)
       (m ≠ 0 → times.all Option.isSome = true → ∃ last, (∀ a ∈ times, ∀ v, a = some v → v ≤ last) ∧
         (last = 0 ∨ some last ∈ times) ∧
         exec (.barrierRelease c) s = .next (s.setCtx c { x with wait := some ⟨sc, some (last + d)⟩ })) ∧
       (m = 0 → exec (.barrierRelease c) s = .next (s.setCtx c { x with wait := some ⟨sc, some s.cycle⟩ })) ∧
       (times.all Option.isSome = false → exec (.barrierRelease c) s = .next s)) ∧
     (x.syncSeen.isSome = true → x.syncAt = none →
       let ms := s.syncMembers c
       let waits (o : CtxId) : Bool := (s.ctx o).syncSeen.isSome && (s.ctx o).syncAt.isNone && (s.ctx o).sync == x.sync
       let came (o : CtxId) : Bool := decide (x.sync.toNat ≤ (s.ctx o).sync.toNat) && !((s.ctx o).stopped && waits o)
       (ms.all came = true → ∃ t T, exec (.syncRestart c) s = .next t ∧ s.cycle ≤ T ∧ (∀ v ∈ s.syncReached c, v + 8 ≤ T) ∧
         (T = s.cycle ∨ T = 8 ∨ ∃ v ∈ s.syncReached c, T = v + 8) ∧
         ∀ o, t.ctx o = if o ∈ ms ∧ waits o = true then { s.ctx o with syncAt := some (T +
           (ms.filter fun p => waits p && p.core == o.core && decide (p.ctx < o.ctx)).length) } else s.ctx o) ∧
       (ms.all came = false → exec (.syncRestart c) s = .next s)) ∧
     (∀ (n : CoreId) (r : Remote), (s.core n).remote = [r] → r.held = false →
       (s.remotePartner n r = none → exec (.remoteWritePerform n) s = .next (s.setCore n { s.core n with remote := [] })) ∧
       (∀ o g, s.remotePartner n r = some o → (s.ctx o).sig r.sig = some g → r.pos ≤ g.plan.lead →
         g.writeTest (g.adv + r.pos) = .ok → ∃ t, exec (.remoteWritePerform n) s = .next t ∧ (t.core n).remote = [] ∧
           t.ctx o = (s.ctx o).setSig r.sig (some (g.writeUnit r.pos r.unit.toNat (s.ctx o).now r.value)) ∧
           (∀ p, p ≠ o → t.ctx p = s.ctx p) ∧ t.mem = s.mem) ∧
       (∀ o g, s.remotePartner n r = some o → (s.ctx o).sig r.sig = some g → r.pos ≤ g.plan.lead →
         g.writeTest (g.adv + r.pos) = .wait → exec (.remoteWritePerform n) s = .next s)))

/-! ### Launch queues, placement and completion (R33 to R36, R40, R46, R165, R274 to R277, R323, R335) -/

/-- `launch` at the head of its posting queue (R165, R275, R335): after the context's earlier stores, with a device-fed, enabled
queue of its domain, a well-formed record and room in the ring, the record is copied to slot TAIL and TAIL rises; while the ring is
full it waits, and reads its record anew (log entry 49); into a disabled or host-fed queue, or one of another domain, or with a
reserved field, it posts nothing and its fault 0x65 is held. In a rerun, what the interval has posted is not posted again (log entry
40). Queues (R46, R47, R274): a head begins to wait, and rises a level for each full 2^20 cycles, as does each pre-empted kernel that
waits, behind which the record is not the head; TAIL of a host-fed queue is written unless that overruns the ring,
which stops the queue with record 0x64; a device-fed queue's is read only; with STOP cleared the head is read and checked anew (log
entry 35); any other BAR0 location ignores a write. -/
def Obligations.LaunchQueues : Prop :=
  (∀ (s : State) (c : CtxId) (r : LaunchReq) (rest : List LaunchReq),
     let x := s.ctx c
     let v := s.queue r.queue
     let refused (t : State) (reason : Nat) : Prop := t.mem = s.mem ∧ t.queues = s.queues ∧ (t.ctx c).posting = rest ∧
       ∃ f, (t.ctx c).faults = x.faults ++ [f] ∧ f.cause = 0x65 ∧ f.source = 3 ∧ f.id = r.id ∧ f.kp = r.kp ∧
         f.detail = queueDetail reason r.queue v.tail
     x.posting = r :: rest →
     (s.posted.any fun p => p.kind.isStore && p.src == c && p.kid == x.kid && decide (p.id < r.id)) = false →
     let again : Bool := x.ckpting && decide (x.epoch ≤ r.id) && x.launched
     (again = true → ∃ t, exec (.launchPost c) s = .next t ∧ t.mem = s.mem ∧ t.queues = s.queues ∧
       (t.ctx c).posting = rest ∧ (t.ctx c).k = (x.setToken r.kp r.id).k ∧ (t.ctx c).faults = x.faults) ∧
     (again = false →
     (∀ b s1, v.en = true → v.src = true → v.dom = x.dom → s.vaRead x.dom r.addr 64 = .ok b → recordOk b = true →
       v.count ≠ v.size → s.vaWrite v.dom (v.slot v.tail) b = .ok s1 → ∃ t, exec (.launchPost c) s = .next t ∧
         t.mem = s1.mem ∧ (t.queue r.queue).tail = v.tail + 1 ∧ (t.queue r.queue).head = v.head ∧
         (t.queue r.queue).producers = v.producers ++ [(v.tail, x.kid)] ∧ (∀ q, q ≠ r.queue → t.queue q = s.queue q) ∧
         (t.ctx c).posting = rest ∧ (t.ctx c).k = (x.setToken r.kp r.id).k ∧ (t.ctx c).faults = x.faults ∧
         (t.ctx c).launched = (x.launched || x.ckpting && decide (x.epoch ≤ r.id))) ∧
     (∀ b, v.en = true → v.src = true → v.dom = x.dom → s.vaRead x.dom r.addr 64 = .ok b →
       (recordOk b = true → v.count = v.size → exec (.launchPost c) s = .next s) ∧
       (recordOk b = false → ∃ t, exec (.launchPost c) s = .next t ∧ refused t 3)) ∧
     ((v.en && v.src) = false ∨ v.dom ≠ x.dom → ∃ t, exec (.launchPost c) s = .next t ∧
       refused t (if (v.en && v.src) = false then 1 else 2)))) ∧
  (∀ (s : State) (q : BitVec 7) (v : BitVec 32) (o : BitVec 17),
     let u := s.queue q
     let risen (since n : Nat) : Nat := if n < (s.cycle - since) / 2 ^ 20 then n + 1 else n
     let anew : Queue := { u with since := none, raised := 0, got := [], record := none }
     (u.waiting = [] → u.waits = true → u.since = none →
       exec (.aging q) s = .next (s.setQueue q { u with since := some s.cycle, raised := 0 })) ∧
     (∀ b, u.waiting = [] → u.waits = true → u.since = some b →
       exec (.aging q) s = .next (s.setQueue q { u with raised := risen b u.raised })) ∧
     (u.waiting = [] → u.waits = false → u.since ≠ none → exec (.aging q) s = .next (s.setQueue q anew)) ∧
     (u.waiting ≠ [] → u.waits = true → ∃ t, exec (.aging q) s = .next t ∧ t.queue q = { u with since := none, raised := 0 }) ∧
     (∃ t, exec (.aging q) s = .next t ∧ t.cores = s.cores ∧ t.mem = s.mem ∧ (∀ j, j ≠ q → t.queue j = s.queue j) ∧
       t.kernels = s.kernels.map fun k =>
         if u.waiting.contains k.kid then { k with raised := risen k.since k.raised } else k) ∧
     (s.bootst = 1 → u.src = false → (v - u.head).toNat ≤ 2 ^ u.rsize.toNat →
       exec (.tailWrite q v) s = .next (s.setQueue q { u with tail := v })) ∧
     (s.bootst = 1 → u.src = false → 2 ^ u.rsize.toNat < (v - u.head).toNat → ∃ t r, exec (.tailWrite q v) s = .next t ∧
       t.queue q = { anew with stop := true } ∧ (∀ j, j ≠ q → t.queue j = s.queue j) ∧ t.monq = s.monq ++ [r] ∧
       r.dom = u.dom ∧ r.w0.extractLsb' 56 8 = 0x64 ∧ r.w1 = queueDetail 0 q u.head) ∧
     (u.src = true → exec (.tailWrite q v) s = .next s) ∧
     (s.bootst = 1 → u.stop = true → exec (.stopClear q) s = .next (s.setQueue q { anew with stop := false })) ∧
     (u.stop = false → exec (.stopClear q) s = .next s) ∧
     exec (.registerWrite o v) s = .next s)

/-- Heads are read when they become heads (R275, R276, R335): a record is read word by word from its ring and checked once, in
the order of R276: a disabled queue, a failing read, reserved fields, an unknown object or one of another domain, an unknown kernel
stop the queue with record 0x62 and its reason. The placement unit (R33 to R36, R46, R100, R274 to R277, R335, R337) takes the head of
the highest effective level, in turn after the queue served last, and keeps it until it is placed: a record with more points than R33
allows stops its queue with record 0x63; one of an aborted producer is discarded; one whose kernel finds places leaves the ring as a
new kernel of its queue's domain and level with its arguments, and its queue returns to its configured level; a kernel of one point
gets a fresh context on a free place of its core, at its first bundle, with the arguments at IMGEND. Where a kernel goes is a free
choice (log entry 15), as is when a word of a record is read (log entry 1). The model's choices: a record that is discarded or refused
leaves the round-robin position (log entry 49); the records of an aborted producer are discarded before they are read or checked, and a
record is read word by word (log entry 35). -/
def Obligations.PlacementPlacesRecords : Prop :=
  (∀ (s : State) (q : BitVec 7) (b : Nat),
     let v := s.queue q
     let stops (reason : Nat) : Prop := s.readHead q =
       (s.setQueue q { v with since := none, raised := 0, got := [], record := none, stop := true }).post v.dom
         (recordWord 0x62 v.dom 0 0 7 0 false 0) (queueDetail reason q v.head)
     v.waits = true → v.record = none → v.got = [] → v.since = some b → b < s.cycle →
     ((v.producers.any fun p => p.1 == v.head && p.2 == 0) = true → s.readHead q = s) ∧
     ((v.producers.any fun p => p.1 == v.head && p.2 == 0) = false →
     (v.en = false → stops 1) ∧
     (v.en = true → (∀ i, i < 8 → s.readyAt (8 + i) = true) →
       (∀ f d, s.vaRead v.dom (v.slot v.head) 8 = .error (f, d) → f ≠ 0x84 → stops 5) ∧
       (∀ w : Nat → List Byte, (∀ i, i < 8 → s.vaRead v.dom (v.slot v.head + BitVec.ofNat 64 (8 * i)) 8 = .ok (w i)) →
         let bytes := (List.range 8).flatMap w
         let r := launchRecOf bytes
         (recordOk bytes = false → ∃ t, s.readHead q = t ∧ (t.queue q).stop = true ∧
           t.monq = s.monq ++ [{ dom := v.dom, w0 := recordWord 0x62 v.dom 0 0 7 0 false 0, w1 := queueDetail 2 q v.head }]) ∧
         (∀ o, recordOk bytes = true → s.object? r.obj = some o → o.dom = v.dom → r.kidx.toNat < o.kernels.length →
           ∃ t, s.readHead q = t ∧ (t.queue q).record = some r ∧ (t.queue q).stop = false ∧ (t.queue q).head = v.head ∧
             (∀ j, j ≠ q → t.queue j = s.queue j) ∧ t.monq = s.monq ∧ t.cores = s.cores ∧ t.mem = s.mem))))) ∧
  (∀ (s : State), s.bootst = 1 →
     let h := ((List.range 128).map (BitVec.ofNat 7)).foldl State.readHead s
     (∃ qs ms, h = { s with queues := qs, monq := s.monq ++ ms }) ∧
     (∀ q w, h.choose? = some (q, w) → ∃ l, h.offer q = some (w, l) ∧ ∀ j m, h.offer j = some m →
       m.2 ≤ l ∧ (m.2 = l → (q - h.lastQueue - 1).toNat ≤ (j - h.lastQueue - 1).toNat)) ∧
     (∀ q, h.leaving? = none → h.chosen = none → h.choose? = some (q, none) →
       ((h.queue q).producers.any fun p => p.1 == (h.queue q).head && p.2 == 0) = true → ∃ t,
         exec .launchPlacement s = .next t ∧ (t.queue q).head = (h.queue q).head + 1 ∧ (t.queue q).record = none ∧
         (t.queue q).stop = (h.queue q).stop ∧ t.monq = h.monq ∧ t.kernels = s.kernels ∧ t.cores = s.cores) ∧
     (∀ q r o im, h.leaving? = none → h.chosen = some (q, none) ∨ (h.chosen = none ∧ h.choose? = some (q, none)) →
       let v := h.queue q
       v.waits = true → v.record = some r →
       ((v.producers.any fun p => p.1 == v.head && p.2 == 0) = true → ∃ t, exec .launchPlacement s = .next t ∧
         t.queue q = { v with
           since := none, raised := 0, got := [], record := none, head := v.head + 1,
           producers := v.producers.filter fun p => p.1 != v.head } ∧ t.kernels = s.kernels ∧ t.cores = s.cores ∧
         t.chosen = none ∧ t.lastQueue = s.lastQueue) ∧
       ((v.producers.any fun p => p.1 == v.head) = false → h.object? r.obj = some o → o.kernels[r.kidx.toNat]? = some im →
         (4 < (spatial im.loops).1 ∨ 320 < (spatial im.loops).2 → ∃ t f, exec .launchPlacement s = .next t ∧
           (t.queue q).stop = true ∧ (t.queue q).head = v.head ∧ t.monq = h.monq ++ [f] ∧ f.dom = v.dom ∧
           f.w0.extractLsb' 56 8 = 0x63 ∧ f.w1 = queueDetail 1 q v.head ∧ t.kernels = s.kernels ∧ t.cores = s.cores) ∧
         (∀ p, (spatial im.loops).1 ≤ 4 → (spatial im.loops).2 ≤ 320 →
           (h.findPlaces (spatial im.loops).1 (spatial im.loops).2 fun j i k =>
             let xs := newCtxs h.kidSeq v.dom v.level im (spatial im.loops).2 j i
             decide (pointsAt (spatial im.loops).2 i ≤ k.freeCtxs.length) && (placeCtxs h.pick k.sigRanges xs).isSome &&
               (k.window 0 0 xs.length (o.needs r.kidx) h.pick).isSome) = some p →
           ∃ t k, exec .launchPlacement s = .next t ∧ t.kernels = s.kernels ++ [k] ∧ k.kid = s.kidSeq ∧ k.obj = r.obj ∧
             k.kidx = r.kidx ∧ k.dom = v.dom ∧ k.prio = v.level ∧ k.queue = q ∧ k.recIdx = v.head ∧ k.args = r.args ∧
             k.done = r.done ∧ k.seqn = r.seqn ∧ k.notify = r.notify ∧ k.aborted = false ∧ k.saved = [] ∧
             t.kidSeq = s.kidSeq + 1 ∧ t.lastQueue = q ∧ t.chosen = none ∧ (t.queue q).head = v.head + 1 ∧
             (t.queue q).tail = v.tail ∧ (t.queue q).since = none ∧ (t.queue q).raised = 0 ∧ (t.queue q).record = none ∧
             (∀ j, j ≠ q → t.queue j = h.queue j) ∧ t.mem = s.mem ∧ t.objects = s.objects ∧
             (∀ die cl w f fs x, p = [(0, die, [(0, cl)])] → (spatial im.loops).2 = 1 →
               let k0 := h.core (coreAt die cl 0)
               k0.window h.kidSeq 0 1 (o.needs r.kidx) h.pick = some w →
               placeCtxs h.pick k0.sigRanges [newCtx h.kidSeq v.dom v.level im 0 0] = some [x] →
               rotated k0.freeCtxs h.pick = f :: fs →
               let c : CtxId := { core := coreAt die cl 0, ctx := f }
               t.ctx c = x ∧ x.toBlock = {} ∧ x.live = true ∧ x.kid = s.kidSeq ∧ x.dom = v.dom ∧ x.prio = v.level ∧
                 x.coord = pointCoord im.loops 0 0 ∧ x.ncoord = extents im.loops ∧ w ∈ (t.core c.core).windows ∧
                 Memory.getBytes (t.core c.core).cp (w.wbase + w.imgEnd) (argBytes r.args).length = argBytes r.args ∧
                 ∀ b, b ≠ c → t.ctx b = s.ctx b)))))

/-- Pre-emption (R47, R48, R326 to R328, R350): the chosen record finds no free contexts: the placed kernel of the lowest PRIO below
the record's effective level, the latest placed among those, with room for its image in the save pool of its domain (log entry
34), is told to leave, and nothing else changes. Once every context of it stands between two bundles, with its engines quiet, all of
it is saved: context blocks, signals, held writes, shadows and spill areas, the accumulator rows and the A rows of its calls; its
contexts are free, and it waits in its queue, from that cycle on; until then the kernel stays. A kernel restored on a core that takes
it goes on from what was saved, in its new places, its stream commands behind those of the core, its A rows ahead of those left there
(log entry 26). The time of each stage is free
(log entry 1). -/
def Obligations.PreemptionAndRestore : Prop :=
  ∀ (s : State), s.bootst = 1 →
    let h := ((List.range 128).map (BitVec.ofNat 7)).foldl State.readHead s
    let of (kid : Nat) (c : CtxId) : Bool := (h.ctx c).live && (h.ctx c).kid == kid
    (∀ eff kid, h.victim eff = some kid →
      let may (k : Kernel) : Prop := k.saved = [] ∧ k.aborted = false ∧ k.prio.toNat < eff ∧ h.ctxsOf k.kid ≠ [] ∧
        h.poolHolds k = true
      ∃ k ∈ h.kernels, k.kid = kid ∧ may k ∧
        ∀ m ∈ h.kernels, may m → k.prio < m.prio ∨ (k.prio = m.prio ∧ m.order ≤ k.order)) ∧
    (∀ q r o im kid, h.leaving? = none → h.chosen = some (q, none) →
      let v := h.queue q
      let nd := (spatial im.loops).1
      let nc := (spatial im.loops).2
      v.waits = true → v.record = some r → (v.producers.any fun p => p.1 == v.head) = false → h.object? r.obj = some o →
      o.kernels[r.kidx.toNat]? = some im → nd ≤ 4 → nc ≤ 320 →
      h.findPlaces nd nc (fun _ i k => decide (pointsAt nc i ≤ k.freeCtxs.length)) = none →
      h.findPlaces nd nc (fun j i k => k.takesNew h.kidSeq v.dom v.level im (o.needs r.kidx) j i h.pick) = none →
      h.victim (min 23 (v.level.toNat + v.raised)) = some kid →
      ∃ t, exec .launchPlacement s = .next t ∧ t.kernels = h.kernels ∧ t.queues = h.queues ∧ t.chosen = some (q, none) ∧
        t.mem = s.mem ∧ ∀ c, t.ctx c = if of kid c then { h.ctx c with leaving := true } else h.ctx c) ∧
    (∀ kid k, h.leaving? = some kid → h.kernel? kid = some k →
      let g := h.suspendCalls kid
      (g.quiet kid = false → exec .launchPlacement s = .next g) ∧
      (g.quiet kid = true → ∃ t sv, exec .launchPlacement s = .next t ∧ t.mem = s.mem ∧ t.posted = s.posted ∧
        t.kernels = h.kernels.map (fun m =>
          if m.kid = kid then { m with saved := sv, since := s.cycle, raised := 0 } else m) ∧
        (t.queue k.queue).waiting = (h.queue k.queue).waiting ++ [kid] ∧ (t.queue k.queue).head = (h.queue k.queue).head ∧
        (∀ j, j ≠ k.queue → t.queue j = h.queue j) ∧
        ∀ c, (of kid c = false → t.ctx c = h.ctx c) ∧
          (of kid c = true → t.ctx c = {} ∧ ∃ m ∈ sv.flatten, ∃ e ∈ m.ctxs,
            let x := h.ctx c
            let k0 := g.core c.core
            m.place = x.place ∧ e.slot = c.ctx ∧ e.ctx.toBlock = { x.toBlock with
              sync := if x.syncSeen.isSome then x.sync - 1 else x.sync } ∧
            e.ctx.sigs = x.sigs ∧ e.ctx.hold = x.hold ∧ e.ctx.heldPosts = x.heldPosts ∧ e.ctx.faults = x.faults ∧
            e.ctx.shadow0 = x.shadow0 ∧ e.ctx.shadow1 = x.shadow1 ∧ e.ctx.cur = x.cur ∧ e.ctx.posting = x.posting ∧
            (∀ i, i < 0x1000 → Memory.get e.spill i = Memory.get k0.cp (spillArea c.ctx + i)) ∧
            m.afeed = k0.mx.afeed.filter (fun a => a.kid == kid && a.place == x.place) ∧
            ∀ i a, k0.acc[i]? = some a → a.kids.contains kid = true → (i, a) ∈ m.rows))) ∧
    (∀ q kid k o im v e die cl w y slot rest, h.leaving? = none → h.chosen = some (q, some kid) →
      kid ∈ (h.queue q).waiting → h.kernel? kid = some k → h.object? k.obj = some o → h.image? k = some im →
      spatial im.loops = (1, 1) → k.saved = [[v]] → v.place = 0 → v.ctxs = [e] →
      let n := o.needs k.kidx
      let m := coreAt die cl 0
      let c : CtxId := { core := m, ctx := slot }
      let named (i : Fin 4) : Fin 4 := if e.slot = i then slot else i
      h.findPlaces 1 1 (fun j r c =>
        c.takes (((k.saved[j]?).getD []).find? fun v => v.place == r) n h.pick) = some [(0, die, [(0, cl)])] →
      (h.core m).window kid 0 1 n h.pick = some w → placeCtxs h.pick (h.core m).sigRanges [e.ctx] = some [y] →
      rotated (h.core m).freeCtxs h.pick = slot :: rest →
      ∃ t, exec .launchPlacement s = .next t ∧ t.mem = s.mem ∧ t.lastQueue = q ∧ t.chosen = none ∧
        (t.queue q).waiting = (h.queue q).waiting.filter (fun i => i != kid) ∧ (t.queue q).since = none ∧
        (t.queue q).raised = 0 ∧ (t.queue q).head = (h.queue q).head ∧
        (∀ b, b ≠ c → t.ctx b = h.ctx b) ∧ (t.ctx c).toBlock = e.ctx.toBlock ∧ (t.ctx c).sigs = y.sigs ∧
        (t.ctx c).hold = e.ctx.hold ∧ (t.ctx c).live = e.ctx.live ∧ (t.ctx c).kid = e.ctx.kid ∧
        (t.ctx c).shadow0 = y.shadow0 ∧ (t.ctx c).shadow1 = y.shadow1 ∧ (t.ctx c).cur = e.ctx.cur ∧
        (t.ctx c).posting = e.ctx.posting ∧ (t.ctx c).launched = e.ctx.launched ∧
        (t.ctx c).heldPosts = e.ctx.heldPosts.map (fun h => { h with post := { h.post with src := c } }) ∧
        w ∈ (t.core m).windows ∧
        (t.core m).acc = ((h.core m).putRows (v.rows.map fun r => (r.1, { r.2 with
          caller := r.2.caller.map fun a => (if a.2 = kid then named a.1 else a.1, a.2) }))).acc ∧
        (t.core m).mx.afeed =
          v.afeed.map (fun r => { r with src := (named r.src.1, r.src.2) }) ++ (h.core m).mx.afeed ∧
        (∀ j, (t.engine m j).queue.map (fun a => a.id) =
          (h.engine m j).queue.map (fun a => a.id) ++ (v.streams.filter fun a => a.1 == j).map fun a => a.2.id) ∧
        (∀ b, b ∈ t.kernels → b.kid = kid → b.saved = []) ∧
        ∀ b, b ∈ h.kernels → b.kid ≠ kid → b ∈ t.kernels)

/-- Completion, invalidation and fault records (R40, R256, R277, R322, R323, R335, R337): a kernel whose contexts are free and whose
writes have performed writes SEQN to DONE, signals MSI-X, and is gone; a completion write that fails leaves record 0x66 with its
reason, and the signal follows that record; of host memory an error is a free choice (log entry 35); an aborted one writes and
signals nothing, and the record of its ABORT follows once its matrix calls are over; an invalidation performs once no access of the
old mapping is left, and no cache holds a translation of the domain any more (log entry 7); a waiting record enters its domain's ring
with PROD and MSI-X, or waits. -/
def Obligations.KernelsCompleteAndRecordsPost : Prop :=
  ∀ (s : State),
    (∀ k v, s.kernel? k = some v → v.saved = [] → s.ctxsOf k = [] → (s.posted.any fun p => p.kid == k) = false →
      (v.aborted = true → s.arrayBusy k = true → exec (.kernelComplete k) s = .next s) ∧
      (v.aborted = false ∨ s.arrayBusy k = false →
        ∃ t, exec (.kernelComplete k) s = .next t ∧ t.kernels = s.kernels.filter (fun o => o.kid != k) ∧
          t.queues = s.queues ∧
          let told := if v.notify then [v.queue.toNat] else []
          (v.aborted = true → t.mem = s.mem ∧ t.msix = s.msix ∧
            (v.record = none → t.monq = s.monq) ∧
            ∀ a b, v.record = some (a, b) → t.monq = s.monq ++ [{ dom := v.dom, w0 := a, w1 := b }]) ∧
          (v.aborted = false → v.done = 0 → t.mem = s.mem ∧ t.msix = s.msix ++ told ∧ t.monq = s.monq) ∧
          (v.aborted = false → v.done ≠ 0 →
            let fails (reason : Nat) : Prop := t.mem = s.mem ∧ t.msix = s.msix ∧ ∃ r, t.monq = s.monq ++ [r] ∧
              r.dom = v.dom ∧ r.w0.extractLsb' 56 8 = 0x66 ∧ r.w1 = queueDetail reason v.queue v.recIdx ∧
              (r.notify.map BitVec.toNat).toList = told
            (∀ pa, s.translate none v.dom v.done 8 0x54 Need.write = .ok pa →
              (paExt pa = false → leNat (Memory.getBytes t.mem pa 8) = v.seqn.toNat ∧ sameDevBytes s t pa 8 ∧
                t.msix = s.msix ++ told ∧ t.monq = s.monq) ∧
              (s.linkDown pa = true → fails 4)) ∧
            (∀ f, s.translate none v.dom v.done 8 0x54 Need.write = .error f →
              (f = 0x50 ∨ f = 0x53 → fails 1) ∧ (f = 0x51 ∨ f = 0x52 → fails 2) ∧ (f = 0x54 ∨ f = 0x55 → fails 3) ∧
                (f = 0x57 → fails 5))))) ∧
    (∀ d m, (s.domain d).inval = some m →
      (s.oldAccess d m = false → exec (.invalidationPerform d) s = .next { s.setDomain d { s.domain d with
          inval := none, stale := [] } with
        cores := s.cores.map fun (k : Core) => { k with
          ranges := k.ranges.filter fun x => x.dom != d, pages := k.pages.filter fun x => x.dom != d } }) ∧
      ((s.posted.any fun p => p.dom == d && decide (p.born < m)) = true ∨
        (∃ c, (s.ctx c).live = true ∧ (s.ctx c).oldAccess d m = true) →
        exec (.invalidationPerform d) s = .next s)) ∧
    (∀ r h, s.monq = [r] → s.vaRead r.dom (s.domain r.dom).fqAddr 8 = .ok h →
      let d := s.domain r.dom
      let prod := imgField h 0 4
      let size := 2 ^ d.fqSize.toNat
      ((prod + 2 ^ 32 - imgField h 4 4) % 2 ^ 32 = size → exec .faultRecordPost s = .next s) ∧
      (∀ s1 s2, (prod + 2 ^ 32 - imgField h 4 4) % 2 ^ 32 ≠ size →
        s.vaWrite r.dom (d.fqAddr + BitVec.ofNat 64 (16 + 16 * (prod % size)))
          (leBytes 8 r.w0.toNat ++ leBytes 8 r.w1.toNat) = .ok s1 →
        s1.vaWrite r.dom d.fqAddr (leBytes 4 (prod + 1)) = .ok s2 → ∃ t, exec .faultRecordPost s = .next t ∧
          t.mem = s2.mem ∧ t.monq = [] ∧
          t.msix = s.msix ++ [128 + r.dom.toNat] ++ (r.notify.map BitVec.toNat).toList ∧ t.cores = s.cores))

/-! ### Mailbox, start-up, power, SPDM (R281 to R285, R324, R337) -/

/-- The mailbox commands of the device in a secure session (R98, R251, R256, R258, R274, R281, R282, R285, R336, R337): CREATE makes
a domain with new keys, DESTROY disables its queues and ends its kernels, MAP writes its translations, INVAL begins an invalidation,
QCFG sets a queue's block, and discards the records of a queue that changes its domain, each with a record 0xA0, POWER sets PLIM, SLOT
stages half a table; an operand out of range is status 5 and changes nothing, a domain that is not there 4, a command outside a
session 6, and an opcode that no table names 5. The model's choices: the order of the statuses (log entry 32), what `rangeOk` and
`rootOk` refuse (log entry 33), DESTROY's HEAD := TAIL and its later answer and what QCFG does to records (log entry 36), that INVAL
is answered as it begins (log entry 7), what MAP hands over (log entry 5). -/
def Obligations.DomainCommands : Prop :=
  ∀ (s : State) (d : DomNum), s.bootst = 1 →
    (s.spdm ≠ .secure → ∀ i, (∃ l r, i = .map d l r) ∨ i = .inval d ∨ i = .destroy d ∨ (∃ p, i = .power p) ∨
      (∃ c, i = .create c) ∨ (∃ q c, i = .qcfg q c) ∨ (∃ n v, i = .slot n v) → exec i s = .next (s.answer 6)) ∧
    (s.spdm = .secure →
      (∀ c s1, s.specOk c = true →
        ((s.newDomain c).handOver c.dom (c.ranges.map (·.2)) (some c.root)).vaWrite c.dom c.fqAddr (fqHeader c.fqSize) =
          .ok s1 → ∃ t,
        exec (.create c) s = .next t ∧ t.mbStatus = 0 ∧ t.mem = s1.mem ∧ t.keySeq = s.keySeq + 1 ∧
        (t.domain c.dom).live = true ∧ (t.domain c.dom).key = s.keySeq ∧ (t.domain c.dom).root = c.root ∧
        (t.domain c.dom).fqAddr = c.fqAddr ∧ (t.domain c.dom).windows = c.windows ∧
        ∀ o, o ≠ c.dom → t.domain o = s.domain o) ∧
      (∀ c, s.specOk c = false → exec (.create c) s = .next (s.answer 5)) ∧
      (s.hasDomain d = true → ∃ t, exec (.destroy d) s = .next t ∧ (t.domain d).dying = true ∧ t.mem = s.mem ∧
        (∀ q, (s.queue q).dom = d → (t.queue q).en = false ∧ (t.queue q).head = (s.queue q).tail) ∧
        (∀ k ∈ t.kernels, k.dom = d → k.aborted = true)) ∧
      (∀ l r, s.hasDomain d = true → (l.all fun p => rangeOk p.2) = true → r.all rootOk = true → ∃ t,
        exec (.map d l r) s = .next t ∧ t.mbStatus = 0 ∧ (t.domain d).ranges = putRanges (s.domain d).ranges l ∧
        (t.domain d).root = r.getD (s.domain d).root ∧
        (t.domain d).stale = ((s.domain d).ranges, (s.domain d).root) :: (s.domain d).stale ∧ t.mem = s.mem ∧
        (∀ o ∈ t.memOwner, o ∈ s.memOwner ∧ (o.2 = (s.domain d).key ∨ ∀ p ∈ l, rangeReaches p.2 o.1 = false)) ∧
        ∀ o, o ≠ d → t.domain o = s.domain o) ∧
      (s.hasDomain d = true → exec (.inval d) s =
        .next (({ s.setDomain d { s.domain d with inval := some (s.cmdSeq + 1) } with cmdSeq := s.cmdSeq + 1 }).answer 0)) ∧
      (∀ l r, s.hasDomain d = true → (∃ p ∈ l, rangeOk p.2 = false) ∨ (∃ a, r = some a ∧ rootOk a = false) →
        exec (.map d l r) s = .next (s.answer 5)) ∧
      (∀ q c, cfgOk c = true → s.hasDomain (c.word1.extractLsb' 56 6) = true → ∃ t, exec (.qcfg q c) s = .next t ∧
        t.mbStatus = 0 ∧ (t.queue q).rbase = c.rbase ∧ (t.queue q).en = c.word1.getLsbD 63 ∧
        (t.queue q).src = c.word1.getLsbD 62 ∧ (t.queue q).dom = c.word1.extractLsb' 56 6 ∧
        (t.queue q).level = c.word1.extractLsb' 51 5 ∧ (t.queue q).rsize = c.word1.extractLsb' 47 4 ∧
        (t.queue q).tail = (s.queue q).tail ∧ (∀ j, j ≠ q → t.queue j = s.queue j) ∧
        let u := s.queue q
        (u.dom = c.word1.extractLsb' 56 6 → (t.queue q).head = u.head ∧ (t.queue q).record = u.record ∧
          (t.queue q).producers = u.producers ∧ t.monq = s.monq) ∧
        (u.dom ≠ c.word1.extractLsb' 56 6 → (t.queue q).head = u.tail ∧ (t.queue q).record = none ∧
          (t.queue q).producers = [] ∧ ((s.domain u.dom).live = false → t.monq = s.monq) ∧
          ((s.domain u.dom).live = true → ∃ l, t.monq = s.monq ++ l ∧ l.length = (u.tail - u.head).toNat ∧
            ∀ f ∈ l, f.dom = u.dom ∧ f.w0.extractLsb' 56 8 = 0xA0))) ∧
      (∀ q c, c.word1.extractLsb' 0 47 ≠ 0 ∨ 23 < (c.word1.extractLsb' 51 5).toNat ∨ (c.word1.extractLsb' 47 4).toNat < 4 ∨
        c.rbase.toNat % (64 * 2 ^ (c.word1.extractLsb' 47 4).toNat) ≠ 0 → exec (.qcfg q c) s = .next (s.answer 5)) ∧
      (∀ q c, cfgOk c = true → s.hasDomain (c.word1.extractLsb' 56 6) = false → exec (.qcfg q c) s = .next (s.answer 4)) ∧
      (∀ n v, v.extractLsb' 48 14 ≠ 0 ∨ (∃ i, i < 16 ∧ 4 < (v.extractLsb' (3 * i) 3).toNat) →
        exec (.slot n v) s = .next (s.answer 5)) ∧
      (∀ p : BitVec 32, (1200 ≤ p.toNat ∧ p.toNat ≤ 2400 → exec (.power p) s = .next (({ s with plim := p }).answer 0)) ∧
        (p.toNat < 1200 ∨ 2400 < p.toNat → exec (.power p) s = .next (s.answer 5))) ∧
      (∀ n v, slotsOk v = true → ∃ t, exec (.slot n v) s = .next t ∧ t.mbStatus = 0 ∧ (t.core n).half = v.getLsbD 62 ∧
        (t.core n).table = (s.core n).table ∧ (t.core n).strict = (s.core n).strict ∧
        (∀ i, (h : i < 32) → (t.core n).staged[i]'h =
          if (16 ≤ i) = (v.getLsbD 62 = true) then v.extractLsb' (3 * (i % 16)) 3 else (s.core n).staged[i]'h) ∧
        (v.getLsbD 62 = true → (t.core n).stagedAt = some s.cycle ∧ (t.core n).stagedStrict = v.getLsbD 63) ∧
        (v.getLsbD 62 = false → (t.core n).stagedAt = (s.core n).stagedAt)) ∧
      (s.hasDomain d = false → ∀ i, (∃ l r, i = .map d l r) ∨ i = .inval d ∨ i = .destroy d →
        exec i s = .next (s.answer 4))) ∧
    (∀ op : BitVec 32, op.toNat = 0 ∨ 0x0C < op.toNat → exec (.mailboxOpcodeRefused op) s = .next (s.answer 5))

/-- LOAD, UNLOAD and the commands on a stopped context (R29, R32, R99, R282, R324, R337, R355): LOAD checks the domain, the bytes,
the container and the signature in this order, and keeps the object under a new handle; UNLOAD releases an object no kernel of which
is placed; CTXGET writes the context block; RESUME reinstates what was parked and goes on at EPC; ABORT ends the kernel and its
contexts, and a record 0xA1 follows when its work is over. What RELOC patches, where images go, and what else the loader refuses are
the model's (log entries 9, 15, 50), as are the times of these commands (log entries 32, 36). -/
def Obligations.ObjectAndContextCommands : Prop :=
  ∀ (s : State) (d : DomNum), s.bootst = 1 →
    (∀ a n, (s.hasDomain d = false → exec (.load d a n) s = .next (s.answer 4)) ∧
      (∀ f, s.hasDomain d = true → s.vaRead d a n.toNat = .error f → exec (.load d a n) s = .next (s.answer 5)) ∧
      (∀ b, s.hasDomain d = true → s.vaRead d a n.toNat = .ok b →
        (containerOk b = false → exec (.load d a n) s = .next (s.answer 1)) ∧
        (containerOk b = true → (s.domain d).signed = true → signatureOk (s.domain d).digests b = false →
          exec (.load d a n) s = .next (s.answer 2)) ∧
        (∀ l, containerOk b = true → (s.domain d).signed = false ∨ signatureOk (s.domain d).digests b = true →
          s.devPlacement d ((sectionsOf b 6).map fun e => (e.2.size, e.2.align)) = some l →
          (objectOf b s.objSeq d l).fitsEmpty = true → s.object? s.objSeq = none → ∃ t, exec (.load d a n) s = .next t ∧
            t.objects = s.objects ++ [objectOf b s.objSeq d l] ∧ t.objSeq = s.objSeq + 1 ∧ t.mbStatus = 0 ∧
            t.hostOut = s.hostOut ++ [.mailbox 0 (s.objSeq.setWidth 32)] ∧ t.cores = s.cores) ∧
        (containerOk b = true → (s.domain d).signed = false ∨ signatureOk (s.domain d).digests b = true →
          s.devPlacement d ((sectionsOf b 6).map fun e => (e.2.size, e.2.align)) = none →
          exec (.load d a n) s = .next (s.answer 3)))) ∧
    (∀ h, (s.object? h).isSome = true → (s.kernels.any fun k => k.obj == h) = false → exec (.unload h) s =
      .next (({ s with objects := s.objects.filter fun o => o.handle != h }).answer 0)) ∧
    (∀ h, (s.object? h).isSome = false ∨ (s.kernels.any fun k => k.obj == h) = true →
      exec (.unload h) s = .next (s.answer 5)) ∧
    (s.spdm = .secure → ∀ c : CtxId,
      let x := s.ctx c
      (s.stoppedIn d c = false → ∀ i, (∃ a, i = .ctxget d c a) ∨ (∃ a b, i = .resume d c a b) ∨ i = .abort d c →
        exec i s = .next (s.answer 4)) ∧
      (s.stoppedIn d c = true →
        (∀ a s1, s.vaWrite d a (s.blockBytes c) = .ok s1 → exec (.ctxget d c a) s = .next (s1.answer 0)) ∧
        (∀ a b, x.cause ≠ 0x13 → x.cause ≠ 0x14 → ∃ t, exec (.resume d c a b) s = .next t ∧ t.mbStatus = 0 ∧
          let y := t.ctx c
          y.stopped = false ∧ y.trapped = false ∧ y.pc = a ∧ y.epc = a ∧ y.btarg = b ∧ y.land = x.parked ∧
            y.parked = [] ∧ y.outer = x.pOuter ∧ y.inner = x.pInner ∧ y.delay = (if b = 0 then .none else .taken (.goto b)) ∧
            y.tvec = x.tvec ∧ y.flags = x.flags ∧ (x.land = [] → y.x = x.x ∧ y.p = x.p) ∧ t.mem = s.mem) ∧
        (∀ a b, x.cause = 0x13 ∨ x.cause = 0x14 → exec (.resume d c a b) s = .next (s.answer 5)) ∧
        (∃ t, exec (.abort d c) s = .next t ∧ t.mbStatus = 0 ∧ t.mem = s.mem ∧ t.monq = s.monq ∧
          (∀ k ∈ t.kernels, k.kid = x.kid → k.aborted = true ∧ k.saved = [] ∧ ∃ a, k.record = some (a, queueDetail 0 k.queue k.recIdx) ∧
            a.extractLsb' 56 8 = 0xA1) ∧
          (∀ o, (s.ctx o).live = true → (s.ctx o).kid = x.kid → (t.ctx o).ended = true ∧ (t.ctx o).triggered = true) ∧
          (∀ o, (s.ctx o).live = false ∨ (s.ctx o).kid ≠ x.kid → (t.ctx o).ended = (s.ctx o).ended ∧
            (t.ctx o).toBlock = (s.ctx o).toBlock))))

/-- Start-up, power and SPDM (R281, R283, R284): ROM is measured, then each stage that is verified before it runs, and BOOTST tells
how start-up ended; a power sample moves the clock: halved at once above 2,600 W, lowered by 25 MHz above PLIM to no less than 425
MHz, raised by 25 MHz after a millisecond more than 50 W below PLIM to no more than 850 MHz; an SPDM request is answered by its
response in the states that allow it, and else by an error. The order of requests and their codes are the model's (log entry 10), as
are the images that start-up measures and the events that a sample stands for (log entries 17, 31). -/
def Obligations.StartUpPowerAndSpdm : Prop :=
  ∀ s : State,
    (∀ a b c, s.bootst = 0 → ∃ t, exec (.boot a b c) s = .next t ∧
      t.bootst = (if a = false then 2 else if b = false then 3 else if c = false then 4 else 1) ∧
      (∀ i : BitVec 8, i ≠ 1 → i ≠ 2 → i ≠ 3 → t.measures.filter (fun m => m.1 == i) = s.measures.filter fun m => m.1 == i) ∧
      (1, Config.sha384 (Config.bootImage 1)) ∈ t.measures ∧
      (a = true → (2, Config.sha384 (Config.bootImage 2)) ∈ t.measures) ∧
      (a = true → b = true → (3, Config.sha384 (Config.bootImage 3)) ∈ t.measures) ∧ t.cores = s.cores ∧ t.mem = s.mem) ∧
    (∀ a b c, s.bootst ≠ 0 → exec (.boot a b c) s = .next s) ∧
    (∀ m f i : BitVec 32, s.bootst = 1 → ∃ t, exec (.powerSample m f i) s = .next t ∧
      t.throt = s.throt + i.setWidth 64 ∧ t.plim = s.plim ∧ t.cores = s.cores ∧ t.mem = s.mem ∧
      (s.clk.toNat ≤ 850 →
        (2600 < f.toNat → t.clk.toNat = s.clk.toNat / 2) ∧
        (f.toNat ≤ 2600 → s.plim.toNat < m.toNat →
          t.clk.toNat = if s.clk.toNat ≤ 425 then s.clk.toNat else max 425 (s.clk.toNat - 25)) ∧
        (f.toNat ≤ 2600 → m.toNat + 50 < s.plim.toNat → s.belowFor < 99 → t.clk = s.clk ∧ t.belowFor = s.belowFor + 1) ∧
        (f.toNat ≤ 2600 → m.toNat ≤ s.plim.toNat → s.plim.toNat ≤ m.toNat + 50 → t.clk = s.clk) ∧
        (f.toNat ≤ 2600 → m.toNat + 50 < s.plim.toNat → 99 ≤ s.belowFor → t.clk.toNat = min 850 (s.clk.toNat + 25)))) ∧
    (let asked (i : Instr) (ok : SpdmState → Bool) (code : Nat) (next : SpdmState → SpdmState) : Prop :=
       (s.bootst ≠ 0 → ok s.spdm = true → ∃ t b, exec i s = .next t ∧ t.hostOut = s.hostOut ++ [.spdm code b] ∧
         t.spdm = next s.spdm ∧ t.cores = s.cores ∧ t.mem = s.mem) ∧
       (s.bootst ≠ 0 → ok s.spdm = false → ∃ t b, exec i s = .next t ∧ t.hostOut = s.hostOut ++ [.spdm 0x7F b] ∧
         t.spdm = s.spdm) ∧ (s.bootst = 0 → exec i s = .next s)
     let opened (p : SpdmState) : Bool := p == .negotiated || p == .secure
     asked .getVersion (fun _ => true) 0x04 (fun _ => .version) ∧
     asked .getCapabilities (· == .version) 0x61 (fun _ => .capabilities) ∧
     asked .negotiateAlgorithms (· == .capabilities) 0x63 (fun _ => .negotiated) ∧
     asked .getDigests opened 0x01 id ∧ asked .getCertificate opened 0x02 id ∧ asked .challenge opened 0x03 id ∧
     (∀ i, asked (.getMeasurements i) opened 0x60 id) ∧ asked .keyExchange (· == .negotiated) 0x64 (fun _ => .handshake) ∧
     asked .finish (· == .handshake) 0x65 (fun _ => .secure) ∧
     asked .endSession (· == .secure) 0x6C (fun _ => .negotiated))

/-! ### The host's and peers' accesses, links, data errors (R268, R272, R279, R280, R338 to R349) -/

/-- Accesses from outside (R268, R272, R280, R323): CXL.mem and a peer's accesses are translated under the domain of their window or
link; a refused read returns poison and a refused CXL.mem write is discarded and reported as an error; an unbound window reads as
zeros and discards writes with no error; PROD and FQSIZE of a fault queue ignore a write. Which domain a link is bound to, that bits
39:0 are a virtual address, and how a refused access of a peer ends are the model's (log entry 11). Links and errors of host accesses
(R279, R338, R339): a port comes up with its peer; a CRC failure is replayed, and after 16 failed replays the port goes down: that
this is the seventeenth failure, and that an access that gets through begins the count anew, is the model's reading (log entry 37). A
`gld`, a `gst` or an engine's unit in host memory that meets an error fails with 0xA3 and the host address. These events come from
outside (log entries 11, 30, 38, 39). -/
def Obligations.OutsideAccessesAndLinks : Prop :=
  (∀ (s : State) (a : Word) (n : BitVec 7) (b : List Byte) (p : BitVec 4), s.bootst = 1 →
     let tells (i : Instr) (u : State) (r : HostResp) : Prop := exec i s = .next { u with hostOut := s.hostOut ++ [r] }
     (s.windowOwner a = none → tells (.cxlMemRead a n) s (.data (List.replicate n.toNat 0)) ∧
       tells (.cxlMemWrite a b) s .discarded) ∧
     (∀ d, s.windowOwner a = some d →
       (∀ v, s.vaRead d a n.toNat = .ok v → tells (.cxlMemRead a n) s (.data v)) ∧
       (∀ f, s.vaRead d a n.toNat = .error f → tells (.cxlMemRead a n) s .poison) ∧
       (∀ f, s.vaWrite d a b = .error f → tells (.cxlMemWrite a b) s .refused) ∧
       (∀ s1, s.vaWrite d a b = .ok s1 → ∃ t, exec (.cxlMemWrite a b) s = .next t ∧
         (∀ l, s.vaRange d Need.write a b.length = .ok l →
           (∀ x ∈ l, ∀ i, i < x.2 → x.1 + i ∉ s.headerFixed) → t.mem = s1.mem) ∧
         (∀ i ∈ s.headerFixed, Memory.get t.mem i = Memory.get s.mem i) ∧
         t.hostOut = s.hostOut ++ [.written] ∧ t.cores = s.cores)) ∧
     ((s.port p).state = 2 →
       let d := Config.linkDomain p
       let va : Word := (a.extractLsb' 0 40).setWidth 64
       let u := s.setPort p { s.port p with replays := 0 }
       (∀ f, u.vaRange d { r := true, ext0 := true } va n.toNat = .error f → tells (.apertureAccessArrival p a none n) u .poison) ∧
       (∀ l, u.vaRange d { r := true, ext0 := true } va n.toNat = .ok l → (l.any fun x => s.poisoned x.1 x.2) = false →
         tells (.apertureAccessArrival p a none n) u (.data (l.flatMap fun x => s.devRead (s.domain d).key x.1 x.2))) ∧
       (∀ l, u.vaRange d { r := true, ext0 := true } va n.toNat = .ok l → (l.any fun x => s.poisoned x.1 x.2) = true →
         tells (.apertureAccessArrival p a none n) u .poison) ∧
       (∀ f, u.vaRange d { w := true, ext0 := true } va b.length = .error f →
         tells (.apertureAccessArrival p a (some b) n) u .discarded) ∧
       (∀ pa, u.vaRange d { w := true, ext0 := true } va b.length = .ok [(pa, b.length)] → s.poisoned pa b.length = false → ∃ t,
         exec (.apertureAccessArrival p a (some b) n) s = .next t ∧ t.hostOut = s.hostOut ++ [.written] ∧
         Memory.getBytes t.mem pa b.length = b ∧ sameDevBytes s t pa b.length ∧ t.cores = s.cores)) ∧
     ((s.port p).state ≠ 2 → ∀ w, exec (.apertureAccessArrival p a w n) s = .next s)) ∧
  (∀ (s : State) (p : BitVec 4),
     (∀ a b, exec (.linkPortUp p a b) s =
       .next (s.setPort p { state := 2, peerPort := a &&& 15, peerPart := b, replays := 0 })) ∧
     ((s.port p).state = 2 → (s.port p).replays < 16 →
       exec (.linkFlitCrcFail p) s = .next (s.setPort p { s.port p with replays := (s.port p).replays + 1 })) ∧
     ((s.port p).state = 2 → 16 ≤ (s.port p).replays → ∃ t, exec (.linkFlitCrcFail p) s = .next t ∧ t.port p = {} ∧
       t.mem = s.mem ∧ (∀ o, o ≠ p → t.port o = s.port o) ∧
       ∀ w, s.posted = [w] → w.kind = .store → w.eng = none → paAperture w.pa = true → paPeer w.pa = p →
         (s.ctx w.src).live = true → (s.ctx w.src).kid = w.kid → t.posted = [] ∧
           ∃ f, f ∈ (t.ctx w.src).faults ∧ f.cause = 0xA2 ∧ f.atSys = true ∧
             f.detail = BitVec.ofNat 64 (p.toNat * 2 ^ 60 + w.pa % 2 ^ 40)) ∧
     ((s.port p).state ≠ 2 → exec (.linkFlitCrcFail p) s = .next s) ∧
     (∀ b c r, (s.ctx c).read = some r → r.atomic = false → paHost r.pa = true →
       exec (.hostAccessError (.read c) b) s = .next (s.setCtx c { s.ctx c with
         read := none, readFault := some (0xA3, BitVec.ofNat 64 (r.pa % 2 ^ 48)) })) ∧
     (∀ b k w, s.posted[k]? = some w → w.kind = .store → w.eng = none → paHost w.pa = true → ∃ t,
       exec (.hostAccessError (.posted k) b) s = .next t ∧ t.posted = s.posted.filter (fun o => o.id != w.id) ∧ t.mem = s.mem ∧
         ((s.ctx w.src).live = true → (s.ctx w.src).kid = w.kid → ∃ f, (t.ctx w.src).faults = (s.ctx w.src).faults ++ [f] ∧
           f.cause = 0xA3 ∧ f.atSys = true ∧ f.detail = BitVec.ofNat 64 (w.pa % 2 ^ 48)) ∧
         ((s.ctx w.src).live = false ∨ (s.ctx w.src).kid ≠ w.kid → t.cores = s.cores)) ∧
     (∀ b n e q r pa m, s.working n e = some q → q.fail = none → (∀ m ∈ (s.engine n e).sent, m.id ≠ q.id) →
       q.reqs = [r] → r.src = [(pa, m)] → paHost pa = true → s.unitsOut n e q.id = false → ∃ t f,
       exec (.hostAccessError (.stream n e) b) s = .next t ∧ t.mem = s.mem ∧
         (t.engine n e).current = none ∧ f ∈ (t.ctx (q.ctxId n)).faults ∧ f.cause = 0xA3 ∧ f.id = q.id ∧
         f.detail = BitVec.ofNat 64 (pa % 2 ^ 48)))

/-- Data errors (R340, R341, R346, R348, R349): one that the code of its store corrects is counted, per store and per core, and changes
nothing else; one in HBM poisons its block; any other stops a context that does not checkpoint, or that rollback cannot repair, with
cause 0x81 and the pairs of a rerun that was going on, and rolls back one that does to its current shadow copy, for a rerun; a
context that has ended or stopped is not touched (log entry 40). That HBM is counted per core, under code 7, is the model's (log entry
16). A rerun goes on with all of its contexts together once all are at
their boundaries: its second run; the end of a pair that agrees, with a notice 0x80 for each; another pair after one that had an
error, up to three; else the core is retired. -/
def Obligations.DataErrors : Prop :=
  (∀ (s : State) (n : CoreId) (k : StoreKind) (o : BitVec 48),
     let code : Nat := match k with
       | .cpMem => 0
       | .signal => 1
       | .accumulator => 2
       | .plane => 3
       | .hold => 4
       | .registers => 5
       | .shadow => 6
       | .hbm _ => 7
     let detail : Word := BitVec.ofNat 64 (code * 2 ^ 60 + if k = .registers then 0 else o.toNat)
     (k ≠ .registers → ∃ v, exec (.uncorrectableError n k o true) s = .next (s.setCore n { s.core n with corrected := v }) ∧
       ∀ i, (h : i < 8) → v[i]'h = (s.core n).corrected[i]'h + if i = code then 1 else 0) ∧
     (∀ h, ∃ t, exec (.uncorrectableError n (.hbm h) o false) s = .next t ∧
       (h.val * 2 ^ 48 + o.toNat) / 64 ∈ t.poison ∧ (∀ b ∈ s.poison, b ∈ t.poison) ∧ t.mem = s.mem ∧ t.cores = s.cores) ∧
     (∀ single, (∀ h, k ≠ .hbm h) → (single = true → k = .registers) → ∃ t,
       exec (.uncorrectableError n k o single) s = .next t ∧ t.mem = s.mem ∧ (∀ c : CtxId, c.core ≠ n → t.ctx c = s.ctx c) ∧
       ∀ i : Fin 4,
         let c : CtxId := { core := n, ctx := i }
         let x := s.ctx c
         let y := t.ctx c
         let lost := (s.core n).beyondRepair x k o.toNat
         (x.live = false ∨ x.ended = true ∨ x.stopped = true → y = x) ∧
         (x.live = true → x.ended = false → x.stopped = false → x.ckpting = false ∨ lost = true →
           y.stopped = true ∧ y.cause = 0x81 ∧ y.x = x.x ∧ y.p = x.p ∧ y.rerunning = false ∧
             ((s.core n).rerun = none → y.faddr = detail) ∧
             ∀ r, (s.core n).rerun = some r → y.faddr = insertBits detail 56 (BitVec.ofNat 4 r.pair)) ∧
         (x.live = true → x.ended = false → x.stopped = false → x.ckpting = true → lost = false →
           x.rerunning = true ∨ x.retiring.isSome = true → y = x ∧
             ∀ r, (s.core n).rerun = some r → ∃ r', (t.core n).rerun = some r' ∧ r'.err = true ∧ r'.pair = r.pair) ∧
         (∀ sh, x.live = true → x.ended = false → x.stopped = false → x.ckpting = true → lost = false →
           x.rerunning = false → x.retiring = none → x.shadow = some sh →
           y.toBlock = sh.blk ∧ y.hold = [] ∧ y.heldPosts = [] ∧ y.rerunning = true ∧
             y.faults = sh.faults ++ x.faults.filter (fun f => decide (f.id < x.epoch) && !sh.faults.contains f) ∧
             (∀ (m : SigNum) g, sh.sigs[m.toNat]'(m.isLt) = some g → ∃ g', y.sig m = some g' ∧ g'.adv = g.adv ∧
               g'.bind = g.bind ∧ ∀ (j : Nat) (v : SigSlot), g.slots[j]? = some v → v.st ≠ .draining → g'.slots[j]? = some v) ∧
             ∃ r, (t.core n).rerun = some r ∧ (∃ m ∈ r.members, m.ctx = i ∧ m.there = false) ∧
               ((s.core n).rerun = none → r.pair = 1 ∧ r.run = 1 ∧ r.err = false ∧ r.detail = detail)))) ∧
  (∀ (s : State) (n : CoreId) (r : Rerun), (s.core n).rerun = some r → (s.core n).rerunners r ≠ [] →
     let ms := (s.core n).rerunners r
     let t := s.pairTurn n
     let again (q : Rerun) : Prop := (t.core n).rerun = some { q with members := ms.map fun m => { m with there := false } }
     let same : Bool := ms.all fun m => m.gbusy1 == m.gbusy2 && m.sig1 == m.sig2
     t.mem = s.mem ∧
     ((∃ m ∈ ms, m.there = false) → t = s) ∧
     ((∀ m ∈ ms, m.there = true) →
       (r.run = 1 → again { r with run := 2 }) ∧
       (r.run ≠ 1 → r.err = false → same = true → (t.core n).rerun = none ∧ ∃ l, t.monq = s.monq ++ l ∧
         l.length = ms.length ∧ ∀ f ∈ l, f.w0.extractLsb' 56 8 = 0x80 ∧ f.w1 = insertBits r.detail 56 (BitVec.ofNat 4 r.pair)) ∧
       (r.run ≠ 1 → r.err = true → r.pair < 3 → again { r with pair := r.pair + 1, run := 1, err := false }) ∧
       (r.run ≠ 1 → (r.err = false ∧ same = false) ∨ (r.err = true ∧ 3 ≤ r.pair) →
         (t.core n).retired = true ∧ (t.core n).rerun = none ∧
         ((s.core n).retired = false → t.nRetired = s.nRetired + 1))))
end

