-- ==== Sys2Proof/Laws/Placement.lean ====
section
/-! SUPPORT. What reading the head records of the launch queues can do: it changes the queues and the monitor's records, and nothing
else. -/

namespace Sys2Proof.Machine

/-- A state that differs from another at most in its queues and in what the monitor has still to post. -/
def onlyQueues (s t : State) : Prop := ∃ qs ms, t = { s with queues := qs, monq := ms }

theorem onlyQueues_refl (s : State) : onlyQueues s s := ⟨s.queues, s.monq, rfl⟩

theorem onlyQueues_trans {s t u : State} (h : onlyQueues s t) (g : onlyQueues t u) : onlyQueues s u := by
  obtain ⟨_, _, rfl⟩ := h
  obtain ⟨qs, ms, rfl⟩ := g
  exact ⟨qs, ms, rfl⟩

theorem onlyQueues_foldl {α : Type} (f : State → α → State) (h : ∀ s a, onlyQueues s (f s a)) (l : List α) (s : State) :
    onlyQueues s (l.foldl f s) := by
  induction l generalizing s with
  | nil => exact onlyQueues_refl s
  | cons a l ih => exact onlyQueues_trans (h s a) (ih _)

theorem setQueue_onlyQueues (s : State) (q : BitVec 7) (v : Queue) : onlyQueues s (s.setQueue q v) := ⟨_, s.monq, rfl⟩

theorem stopQueue_onlyQueues (s : State) (q : BitVec 7) (c : BitVec 8) (r : Nat) : onlyQueues s (s.stopQueue q c r) := ⟨_, _, rfl⟩

theorem readWord_onlyQueues (s : State) (q : BitVec 7) (i : Nat) : onlyQueues s (s.readWord q i) := by
  simp only [State.readWord]
  split
  · exact onlyQueues_refl s
  split
  · exact setQueue_onlyQueues ..
  · split
    · exact ⟨_, _, rfl⟩
    · exact stopQueue_onlyQueues ..

/-- What a head read can do (R275, R276, R335). -/
theorem readHead_onlyQueues (s : State) (q : BitVec 7) : onlyQueues s (s.readHead q) := by
  have words : onlyQueues s ((List.range 8).foldl (fun s i => if s.readyAt (8 + i) then s.readWord q i else s) s) := by
    refine onlyQueues_foldl (fun s i => if s.readyAt (8 + i) then s.readWord q i else s) (fun s i => ?_) _ s
    split
    · exact readWord_onlyQueues ..
    · exact onlyQueues_refl s
  simp only [State.readHead]
  split
  · split
    · exact stopQueue_onlyQueues ..
    · split
      · exact words
      · split
        · exact onlyQueues_trans words (stopQueue_onlyQueues ..)
        · exact onlyQueues_trans words (setQueue_onlyQueues ..)
  · exact onlyQueues_refl s

theorem readHeads_onlyQueues (l : List (BitVec 7)) (s : State) : onlyQueues s (l.foldl State.readHead s) :=
  onlyQueues_foldl _ readHead_onlyQueues l s

@[simp] theorem readHeads_cores (l : List (BitVec 7)) (s : State) : (l.foldl State.readHead s).cores = s.cores := by
  obtain ⟨_, _, h⟩ := readHeads_onlyQueues l s
  rw [h]

end Sys2Proof.Machine
end

