-- ==== Sys2Proof/Tests/Slice0.lean ====
section
/-! SUPPORT. Tests: ill-formed terms refused, words of the spec decoded, and for every statement a state and operands that meet its
hypotheses. The expected values are those of the spec's rules and worked examples. -/

namespace Sys2Proof.Tests

open Sys2Proof.Machine Sys2Proof.Claims

-- one theorem at a time: their evaluations together would take too much memory
set_option Elab.async false

/-- Register forms: OP, and D 31, A 16, B 1 at bits 19:15, 14:10 and 9:5, guard p10, Q 1 (R104, R107). -/
theorem test_decode_scalar_registers :
    decodeSlot .a 0xA81FC020 none = .ok (.add 10 true 31 16 1) ∧
    decodeSlot .b 0xA82FC020 none = .ok (.sub 10 true 31 16 1) ∧
    decodeSlot .a 0xA84FC020 none = .ok (.mul 10 true 31 16 1) ∧
    decodeSlot .b 0xA85FC020 none = .ok (.mulh 10 true 31 16 1) ∧
    decodeSlot .a 0xA86FC020 none = .ok (.mulhn 10 true 31 16 1) ∧
    decodeSlot .b 0xA87FC020 none = .ok (.div 10 true 31 16 1) ∧
    decodeSlot .a 0xA88FC020 none = .ok (.divn 10 true 31 16 1) ∧
    decodeSlot .b 0xA89FC020 none = .ok (.rem 10 true 31 16 1) ∧
    decodeSlot .a 0xA8AFC020 none = .ok (.remn 10 true 31 16 1) ∧
    decodeSlot .b 0xA8BFC020 none = .ok (.min 10 true 31 16 1) ∧
    decodeSlot .a 0xA8CFC020 none = .ok (.max 10 true 31 16 1) ∧
    decodeSlot .b 0xA8DFC020 none = .ok (.minn 10 true 31 16 1) ∧
    decodeSlot .a 0xA8EFC020 none = .ok (.maxn 10 true 31 16 1) ∧
    decodeSlot .b 0xA8FFC020 none = .ok (.and 10 true 31 16 1) ∧
    decodeSlot .a 0xA90FC020 none = .ok (.or 10 true 31 16 1) ∧
    decodeSlot .b 0xA91FC020 none = .ok (.xor 10 true 31 16 1) ∧
    decodeSlot .a 0xA92FC020 none = .ok (.andn 10 true 31 16 1) ∧
    decodeSlot .b 0xA93FC020 none = .ok (.shl 10 true 31 16 1) ∧
    decodeSlot .a 0xA94FC020 none = .ok (.shr 10 true 31 16 1) ∧
    decodeSlot .b 0xA95FC020 none = .ok (.sra 10 true 31 16 1) := by
  exact ⟨rfl, rfl, rfl, rfl, rfl, rfl, rfl, rfl, rfl, rfl, rfl, rfl, rfl, rfl, rfl, rfl, rfl, rfl, rfl, rfl⟩

/-- Immediate and unary forms: I10 at bits 9:0, I15 at 14:0, a shift amount at 5:0, F of `sel` at 3:0 (R104, R107,
    R119 to R122). -/
theorem test_decode_scalar_immediates :
    decodeSlot .a 0xA830FA01 none = .ok (.addi 10 true 1 30 0x201) ∧
    decodeSlot .b 0xA960F821 none = .ok (.shli 10 true 1 30 33) ∧
    decodeSlot .b 0xA970F821 none = .ok (.shri 10 true 1 30 33) ∧
    decodeSlot .b 0xA980F821 none = .ok (.srai 10 true 1 30 33) ∧
    decodeSlot .b 0xA992C001 none = .ok (.movi 10 true 5 0x4001) ∧
    decodeSlot .a 0xA9A2C001 none = .ok (.lhi 10 true 5 0x4001) ∧
    decodeSlot .a 0xA9B0F800 none = .ok (.sxI8 10 true 1 30) ∧
    decodeSlot .a 0xA9C0F800 none = .ok (.sxI16 10 true 1 30) ∧
    decodeSlot .a 0xA9D0F800 none = .ok (.sxI32 10 true 1 30) ∧
    decodeSlot .a 0xA9E0F800 none = .ok (.zxN8 10 true 1 30) ∧
    decodeSlot .a 0xA9F0F800 none = .ok (.zxN16 10 true 1 30) ∧
    decodeSlot .a 0xAA00F800 none = .ok (.zxN32 10 true 1 30) ∧
    decodeSlot .a 0xAA10F800 none = .ok (.clz 10 true 1 30) ∧
    decodeSlot .a 0xAA20F800 none = .ok (.ctz 10 true 1 30) ∧
    decodeSlot .a 0xAA30F800 none = .ok (.popc 10 true 1 30) ∧
    decodeSlot .b 0xAA40F909 none = .ok (.sel 10 true 1 30 8 9) := by
  exact ⟨rfl, rfl, rfl, rfl, rfl, rfl, rfl, rfl, rfl, rfl, rfl, rfl, rfl, rfl, rfl, rfl⟩

/-- Compares into the pair p10, p11 (D 10), predicate operations, and a special register by its number in I15 (R107,
    R123 to R125). -/
theorem test_decode_compares :
    decodeSlot .b 0xAA557900 none = .ok (.cmpEq 10 true 5 30 8) ∧
    decodeSlot .b 0xAA657900 none = .ok (.cmpNe 10 true 5 30 8) ∧
    decodeSlot .b 0xAA757900 none = .ok (.cmpLt 10 true 5 30 8) ∧
    decodeSlot .b 0xAA857900 none = .ok (.cmpLe 10 true 5 30 8) ∧
    decodeSlot .b 0xAA957900 none = .ok (.cmpLtn 10 true 5 30 8) ∧
    decodeSlot .b 0xAAA57900 none = .ok (.cmpLen 10 true 5 30 8) ∧
    decodeSlot .a 0xAAB57BFF none = .ok (.cmpiEq 10 true 5 30 0x3FF) ∧
    decodeSlot .a 0xAAC57BFF none = .ok (.cmpiNe 10 true 5 30 0x3FF) ∧
    decodeSlot .a 0xAAD57BFF none = .ok (.cmpiLt 10 true 5 30 0x3FF) ∧
    decodeSlot .a 0xAAE57BFF none = .ok (.cmpiLe 10 true 5 30 0x3FF) ∧
    decodeSlot .a 0xAAF57BFF none = .ok (.cmpiLtn 10 true 5 30 0x3FF) ∧
    decodeSlot .a 0xAB057BFF none = .ok (.cmpiLen 10 true 5 30 0x3FF) ∧
    decodeSlot .b 0xAC013D00 none = .ok (.pand 10 true 2 15 8) ∧
    decodeSlot .b 0xAC113D00 none = .ok (.por 10 true 2 15 8) ∧
    decodeSlot .b 0xAC213D00 none = .ok (.pxor 10 true 2 15 8) ∧
    decodeSlot .b 0xAC313C00 none = .ok (.pmov 10 true 2 15) ∧
    decodeSlot .b 0xAC43801F none = .ok (.mfs 10 true 7 31) ∧
    decodeSlot .b 0xAC53801F none = .ok (.mts 10 true 7 31) := by
  exact ⟨rfl, rfl, rfl, rfl, rfl, rfl, rfl, rfl, rfl, rfl, rfl, rfl, rfl, rfl, rfl, rfl, rfl, rfl⟩

/-- Control transfers, loops, traps, and `nop` in the other classes (R107 to R109, R128 to R137, R319). -/
theorem test_decode_control :
    decodeSlot .a 0xAC080001 none = .ok (.b 10 true 0x80001) ∧
    decodeSlot .a 0xAC104400 none = .ok (.bi 10 true 17) ∧
    decodeSlot .a 0xAC204473 none = .ok (.jt 10 true 17 3 19) ∧
    decodeSlot .a 0xAC37FFFF none = .ok (.call 10 true 0x7FFFF) ∧
    decodeSlot .a 0xAC404400 none = .ok (.calli 10 true 17) ∧
    decodeSlot .a 0xAC500000 none = .ok (.ret 10 true) ∧
    decodeSlot .a 0xA4688003 none = .ok (.loop 10 17 3) ∧
    decodeSlot .a 0xAC700000 none = .ok (.halt 10 true) ∧
    decodeSlot .a 0xAC804001 none = .ok (.trap 10 true 0x4001) ∧
    decodeSlot .a 0xAC900000 none = .ok (.rett 10 true) ∧
    decodeSlot .b 0xA8000000 none = .ok (.nop 10 true none) ∧
    decodeSlot .m 0xA8000000 none = .ok (.nop 10 true none) ∧
    decodeSlot .e 0xA8000000 none = .ok (.nop 10 true none) := by
  exact ⟨rfl, rfl, rfl, rfl, rfl, rfl, rfl, rfl, rfl, rfl, rfl, rfl, rfl⟩

/-- Slot M (R108, R139 to R150). -/
theorem test_decode_memory :
    decodeSlot .m 0xA81C1DFF none = .ok (.ldI8 10 true 24 7 0x1FF) ∧
    decodeSlot .m 0xA82C1DFF none = .ok (.ldN8 10 true 24 7 0x1FF) ∧
    decodeSlot .m 0xA83C1DFF none = .ok (.ldI16 10 true 24 7 0x1FF) ∧
    decodeSlot .m 0xA84C1DFF none = .ok (.ldN16 10 true 24 7 0x1FF) ∧
    decodeSlot .m 0xA85C1DFF none = .ok (.ldI32 10 true 24 7 0x1FF) ∧
    decodeSlot .m 0xA86C1DFF none = .ok (.ldN32 10 true 24 7 0x1FF) ∧
    decodeSlot .m 0xA87C1DFF none = .ok (.ld64 10 true 24 7 0x1FF) ∧
    decodeSlot .m 0xA88C1DFF none = .ok (.st8 10 true 24 7 0x1FF) ∧
    decodeSlot .m 0xA89C1DFF none = .ok (.st16 10 true 24 7 0x1FF) ∧
    decodeSlot .m 0xA8AC1DFF none = .ok (.st32 10 true 24 7 0x1FF) ∧
    decodeSlot .m 0xA8BC1DFF none = .ok (.st64 10 true 24 7 0x1FF) ∧
    decodeSlot .m 0xA98C1DFF none = .ok (.gld 10 true 24 7 0x1FF) ∧
    decodeSlot .m 0xA99C1DFF none = .ok (.gst 10 true 24 7 0x1FF) ∧
    decodeSlot .m 0xA90C4731 none = .ok (.tld 10 true 24 35 9 17) ∧
    decodeSlot .m 0xA91C4731 none = .ok (.tst 10 true 24 35 9 17) ∧
    decodeSlot .m 0xA92C46D1 none = .ok (.rst 10 true 24 35 1 2 17) ∧
    decodeSlot .m 0xAA0C1C40 none = .ok (.aadd 10 true 24 7 2) ∧
    decodeSlot .m 0xAA1C1C40 none = .ok (.amin 10 true 24 7 2) ∧
    decodeSlot .m 0xAA2C1C40 none = .ok (.amax 10 true 24 7 2) ∧
    decodeSlot .m 0xAA3C1C40 none = .ok (.aswp 10 true 24 7 2) ∧
    decodeSlot .m 0xAA4C1C5D none = .ok (.acas 10 true 24 7 2 29) ∧
    decodeSlot .m 0xAA501C40 none = .ok (.acadd 10 true 7 2) ∧
    decodeSlot .m 0xAB000000 none = .ok (.drainCl 10 true) ∧
    decodeSlot .m 0xAB100000 none = .ok (.drainDie 10 true) ∧
    decodeSlot .m 0xAB200000 none = .ok (.drainDev 10 true) ∧
    decodeSlot .m 0xAB300000 none = .ok (.drainSys 10 true) := by
  exact ⟨rfl, rfl, rfl, rfl, rfl, rfl, rfl, rfl, rfl, rfl, rfl, rfl, rfl, rfl, rfl, rfl, rfl, rfl, rfl, rfl, rfl, rfl, rfl,
    rfl, rfl, rfl⟩

/-- Slot E, with the extension word KP 3, KC0 1, KC1 2, KC2 4 (R105, R109, R153 to R167). -/
theorem test_decode_engines :
    decodeSlot .e 0xA8100000 (some 0x31240000) = .ok (.tick 10 true (some ⟨3, 1, 2, 4⟩)) ∧
    decodeSlot .e 0xA9000000 (some 0x31240000) = .ok (.gacq 10 true (some ⟨3, 1, 2, 4⟩)) ∧
    decodeSlot .e 0xA9100000 (some 0x31240000) = .ok (.grel 10 true (some ⟨3, 1, 2, 4⟩)) ∧
    decodeSlot .e 0xAB000000 (some 0x31240000) = .ok (.kwait 10 true (some ⟨3, 1, 2, 4⟩)) ∧
    decodeSlot .e 0xAB800000 (some 0x31240000) = .ok (.trig 10 true (some ⟨3, 1, 2, 4⟩)) ∧
    decodeSlot .e 0xAC000000 (some 0x31240000) = .ok (.arriveCl 10 true (some ⟨3, 1, 2, 4⟩)) ∧
    decodeSlot .e 0xAC100000 (some 0x31240000) = .ok (.arriveDie 10 true (some ⟨3, 1, 2, 4⟩)) ∧
    decodeSlot .e 0xAC200000 (some 0x31240000) = .ok (.arriveDev 10 true (some ⟨3, 1, 2, 4⟩)) ∧
    decodeSlot .e 0xAC300000 (some 0x31240000) = .ok (.waitCl 10 true (some ⟨3, 1, 2, 4⟩)) ∧
    decodeSlot .e 0xAC400000 (some 0x31240000) = .ok (.waitDie 10 true (some ⟨3, 1, 2, 4⟩)) ∧
    decodeSlot .e 0xAC500000 (some 0x31240000) = .ok (.waitDev 10 true (some ⟨3, 1, 2, 4⟩)) ∧
    decodeSlot .e 0xAC600000 (some 0x31240000) = .ok (.sync 10 true (some ⟨3, 1, 2, 4⟩)) ∧
    decodeSlot .e 0xA8200020 (some 0x31240000) = .ok (.spec 10 true 32 (some ⟨3, 1, 2, 4⟩)) ∧
    decodeSlot .e 0xA8348005 (some 0x31240000) = .ok (.commit 10 true 9 5 (some ⟨3, 1, 2, 4⟩)) ∧
    decodeSlot .e 0xA8407E00 (some 0x31240000) = .ok (.sclr 10 true 63 (some ⟨3, 1, 2, 4⟩)) ∧
    decodeSlot .e 0xA854C200 (some 0x31240000) = .ok (.sstat 10 true 9 33 (some ⟨3, 1, 2, 4⟩)) ∧
    decodeSlot .e 0xA0648000 (some 0x31240000) = .ok (.ckpt 10 ⟨9, false, 0⟩ (some ⟨3, 1, 2, 4⟩)) ∧
    decodeSlot .e 0xA9204003 (some 0x31240000) = .ok (.gcfg 10 true 0x4003 (some ⟨3, 1, 2, 4⟩)) ∧
    decodeSlot .e 0xA9302400 (some 0x31240000) = .ok (.grun 10 true 9 (some ⟨3, 1, 2, 4⟩)) ∧
    decodeSlot .e 0xA94FA404 (some 0x31240000) = .ok (.gset 10 true 31 9 4 (some ⟨3, 1, 2, 4⟩)) ∧
    decodeSlot .e 0xA9800015 (some 0x31240000) = .ok (.mxload 10 true 21 (some ⟨3, 1, 2, 4⟩)) ∧
    decodeSlot .e 0xA9902406 (some 0x31240000) = .ok (.mxp 10 true 6 9 (some ⟨3, 1, 2, 4⟩)) ∧
    decodeSlot .e 0xA9A00015 (some 0x31240000) = .ok (.mxcall 10 true 21 (some ⟨3, 1, 2, 4⟩)) ∧
    decodeSlot .e 0xAA602412 (some 0x31240000) = .ok (.spos 10 true 18 9 (some ⟨3, 1, 2, 4⟩)) ∧
    decodeSlot .e 0xAA82A40B (some 0x31240000) = .ok (.dset 10 true 5 11 9 (some ⟨3, 1, 2, 4⟩)) ∧
    decodeSlot .e 0xAA94940B (some 0x31240000) = .ok (.dget 10 true 9 5 11 (some ⟨3, 1, 2, 4⟩)) ∧
    decodeSlot .e 0xAAA28000 (some 0x31240000) = .ok (.dclr 10 true 5 (some ⟨3, 1, 2, 4⟩)) ∧
    decodeSlot .e 0xAB148000 (some 0x31240000) = .ok (.kpoll 10 true 9 (some ⟨3, 1, 2, 4⟩)) ∧
    decodeSlot .e 0xAB902460 (some 0x31240000) = .ok (.launch 10 true 9 3 (some ⟨3, 1, 2, 4⟩)) ∧
    decodeSlot .e 0xAB902460 none = .ok (.launch 10 true 9 3 none) := by
  exact ⟨rfl, rfl, rfl, rfl, rfl, rfl, rfl, rfl, rfl, rfl, rfl, rfl, rfl, rfl, rfl, rfl, rfl, rfl, rfl, rfl, rfl, rfl, rfl,
    rfl, rfl, rfl, rfl, rfl, rfl, rfl⟩

/-- The stream commands: ENG, SIG, POS in EXOP; K in D 2:0; W, RED, DISTINCT and OOR; e4 and e5 of the drains (R160, R161). -/
theorem test_decode_streams :
    decodeSlot .e 0xAA02A400 (some 0x312450C0) = .ok (.sload 10 true 2 33 64 5 9 ⟨3, 1, 2, 4⟩) ∧
    decodeSlot .e 0xAA02A461 (some 0x31244000) = .ok (.sloadPl 10 true 2 5 9 3 ⟨3, 1, 2, 4⟩) ∧
    decodeSlot .e 0xAA12A400 (some 0x3124B0C0) = .ok (.sstore 10 true 1 33 64 5 9 ⟨3, 1, 2, 4⟩) ∧
    decodeSlot .e 0xAA22A466 (some 0x31246000) = .ok (.scopy 10 true 3 5 6 9 3 ⟨3, 1, 2, 4⟩) ∧
    decodeSlot .e 0xAA32A470 (some 0x312450C0) = .ok (.sgather 10 true 2 33 64 5 9 3 2 ⟨3, 1, 2, 4⟩) ∧
    decodeSlot .e 0xAA46A475 (some 0x312450C0) = .ok (.sreduce 10 true true 2 33 64 5 9 3 1 true 2 ⟨3, 1, 2, 4⟩) ∧
    decodeSlot .e 0xAA52A468 (some 0x31249083) = .ok (.sscatter 10 true 0 33 3 5 9 3 1 ⟨3, 1, 2, 4⟩) := by
  exact ⟨rfl, rfl, rfl, rfl, rfl, rfl, rfl⟩

/-- The micro-words of the matrix array (R225). -/
theorem test_decode_micro :
    decodeMicro 0x00000000 = .ok (.mEnd) ∧
    decodeMicro 0x10000002 = .ok (.fmt 2) ∧
    decodeMicro 0x20000001 = .ok (.bindA true) ∧
    decodeMicro 0x35000001 = .ok (.bindB 5 true) ∧
    decodeMicro 0x45000000 = .ok (.bindAcc 5 false) ∧
    decodeMicro 0x56000000 = .ok (.scl 6) ∧
    decodeMicro 0x60000801 = .ok (.pass 0x801) ∧
    decodeMicro 0x6E000000 = .ok (.passParam 6) ∧
    decodeMicro 0x70000801 = .ok (.lp 0x801) ∧
    decodeMicro 0x7E000000 = .ok (.lpParam 6) ∧
    decodeMicro 0x80000000 = .ok (.el) ∧
    decodeMicro 0x96008001 = .ok (.padd 6 0x8001) ∧
    decodeMicro 0xA0000201 = .ok (.zacc 0x201) ∧
    decodeMicro 0xB2018030 = .ok (.anch 0x201 0x8030) ∧
    decodeMicro 0xC0000000 = .ok (.tok) ∧
    decodeMicro 0xD000000F = .ok (.wt 15) := by
  exact ⟨rfl, rfl, rfl, rfl, rfl, rfl, rfl, rfl, rfl, rfl, rfl, rfl, rfl, rfl, rfl, rfl⟩

/-! ### Well-formedness -/

/-- For each check of `Instr.wf` a term that it refuses, just outside the range that the rule gives (R96, R116, R154, R157, R159,
R161, R225). -/
theorem test_ill_formed :
    (Instr.mfs 0 false 1 22).wf = false ∧ (Instr.mts 0 false 1 30).wf = false ∧ (Instr.spec 0 false 0 none).wf = false ∧
    (Instr.spec 0 false 33 none).wf = false ∧ (Instr.gset 0 false 0 1 5 none).wf = false ∧
    (Instr.dset 0 false 0 12 1 none).wf = false ∧ (Instr.dget 0 false 1 0 12 none).wf = false ∧
    (Instr.sload 0 false 0 1 65 0 2 ⟨0, 0, 0, 0⟩).wf = false ∧ (Instr.scopy 0 false 6 0 1 2 3 ⟨0, 0, 0, 0⟩).wf = false ∧
    (Instr.sgather 0 false 0 1 65 0 2 3 0 ⟨0, 0, 0, 0⟩).wf = false ∧
    (Instr.sgather 0 false 0 1 0 0 2 3 3 ⟨0, 0, 0, 0⟩).wf = false ∧
    (Instr.sreduce 0 false false 0 1 65 0 2 3 0 false 0 ⟨0, 0, 0, 0⟩).wf = false ∧
    (Instr.sreduce 0 false false 0 1 0 0 2 3 3 false 0 ⟨0, 0, 0, 0⟩).wf = false ∧
    (Instr.sreduce 0 false false 0 1 0 0 2 3 0 false 3 ⟨0, 0, 0, 0⟩).wf = false ∧
    (Instr.sscatter 0 false 0 1 0 0 2 3 3 ⟨0, 0, 0, 0⟩).wf = false ∧ (Instr.pass 0).wf = false ∧ (Instr.lp 0).wf = false ∧
    (Instr.wt 0).wf = false := by decide

/-- The words of those terms are refused as reserved where their fields hold them (R116, R225): `mfs` of 22, `spec 33`, `gset` of
field 5, `dset` of word 12, `sload` at position 65, engine 6, OOR 3, RED 3, `pass 0`, `lp 0`, `wt 0`. -/
theorem test_ill_formed_words :
    decodeSlot .b 0x04408016 none = .error .reserved ∧ decodeSlot .e 0x00200021 none = .error .reserved ∧
    decodeSlot .e 0x01400405 none = .error .reserved ∧ decodeSlot .e 0x0280040C none = .error .reserved ∧
    decodeSlot .e 0x02000800 (some 0x000000C1) = .error .reserved ∧
    decodeSlot .e 0x02200861 (some 0x0000C000) = .error .reserved ∧
    decodeSlot .e 0x02300878 (some 0x00000080) = .error .reserved ∧
    decodeSlot .e 0x02400863 (some 0x00000080) = .error .reserved ∧
    decodeMicro 0x60000000 = .error .reserved ∧ decodeMicro 0x70000000 = .error .reserved ∧
    decodeMicro 0xD0000000 = .error .reserved := by
  exact ⟨rfl, rfl, rfl, rfl, rfl, rfl, rfl, rfl, rfl, rfl, rfl⟩

/-! ### States for the witnesses -/

/-- Context 0 of core 0, live, with a one-bundle kernel, its registers changed by `f`; it is the context issuing. -/
def ctx0 (f : Ctx → Ctx) : State :=
  let s := State.reset.placeSlot .a 0x00118C40 none
  s.setMe (f s.me)

/-- A word, with its extension word, as the next bundle of context 0. -/
def ready (c : SlotClass) (w : Lane) (x : Option Lane := none) (f : Ctx → Ctx := id) : State :=
  let s := State.reset.placeSlot c w x
  s.setMe (f s.me)

/-- An x register set. -/
def withX (r : Reg) (v : Word) (x : Ctx) : Ctx := { x with x := x.x.set r.toNat v r.isLt }

/-- Whether an outcome is a next state. -/
def isNext (o : Out) : Bool :=
  match o with
  | .next _ => true
  | _ => false

/-- The next state of an outcome. -/
def after (o : Out) : State :=
  match o with
  | .next s => s
  | _ => {}

/-- A write in flight of context 0. -/
def inFlight (k : PostKind) (pa : Nat) (v : Word) (sc : Scope) (read : Bool) : Posted :=
  { id := 1, cmd := 1, eng := none, src := { core := 0, ctx := 0 }, kid := 1, dom := 0, key := 0, kind := k, va := 0, pa := pa,
    data := v, scope := sc, read := read }

theorem after_eq {o : Out} (h : isNext o = true) : o = .next (after o) := by
  cases o <;> simp_all [isNext, after]

/-! ### Witnesses: encoding and the step -/

/-- Whether a word is refused for an opcode that no table assigns. -/
def isUnassigned (r : Except DecodeError Instr) : Bool :=
  match r with
  | .error .unassigned => true
  | _ => false


theorem witness_WellFormedWordsDecode :
    (Instr.sload 0 false 3 63 64 7 31 ⟨15, 0, 1, 2⟩).wf = true ∧ SlotClass.e ∈ (Instr.sload 0 false 3 63 64 7 31 ⟨15, 0, 1, 2⟩).classes ∧
    (Instr.pass 1).wf = true ∧ (Instr.pass 1).isMicro = true := by decide

theorem witness_WordsEncodeBack :
    decodeSlot .m 0x611C0400 none = .ok (.tst 6 false 24 2 0 0) ∧
    decodeMicro 0xB0070030 = .ok (.anch 7 0x30) := by
  exact ⟨rfl, rfl⟩

/-- The ends of the ranges that each class leaves unassigned, and the codes beside them (R107 to R109, R225). -/
theorem witness_UnassignedOpcodesRefused :
    [0x31, 0x3F, 0x4A, 0x7F].all (fun o => isUnassigned (decodeSlot .a (BitVec.ofNat 32 (o * 2 ^ 20)) none)) = true ∧
    [0x31, 0x3F, 0x46, 0x7F].all (fun o => isUnassigned (decodeSlot .b (BitVec.ofNat 32 (o * 2 ^ 20)) none)) = true ∧
    [0x0C, 0x0F, 0x13, 0x17, 0x1A, 0x1F, 0x26, 0x2F, 0x34, 0x7F].all (fun o =>
      isUnassigned (decodeSlot .m (BitVec.ofNat 32 (o * 2 ^ 20)) none)) = true ∧
    [0x07, 0x0F, 0x15, 0x17, 0x1B, 0x1F, 0x27, 0x2B, 0x2F, 0x32, 0x37, 0x3A, 0x3F, 0x47, 0x7F].all (fun o =>
      isUnassigned (decodeSlot .e (BitVec.ofNat 32 (o * 2 ^ 20)) none)) = true ∧
    isUnassigned (decodeMicro 0xE0000000) = true ∧ isUnassigned (decodeMicro 0xD0000001) = false ∧
    isUnassigned (decodeSlot .a 0x04900000 none) = false ∧ isUnassigned (decodeSlot .m 0x03300000 none) = false ∧
    isUnassigned (decodeSlot .e 0x04600000 none) = false := by decide

theorem witness_NopDoesNothing :
    opOf 0x00000001 = 0 ∧ (0x00000001 : Lane).extractLsb' 0 20 ≠ 0 ∧ opOf 0xF8000000 = 0 ∧
    (0xF8000000 : Lane).extractLsb' 0 20 = 0 := by decide

/-- The state in which a bundle chosen on core 0 issues. -/
def chosen0 (s : State) : State :=
  (((s.pairTurn 0).prepareAll 0).clearStalls 0).onCore 0 fun k => { k with lastTie := (none : Option (Fin 4)).getD k.lastTie }

/-- A bundle of one `add`; one of a `gld` whose address no mapping holds; and one without slots. -/
theorem witness_StepIssuesBundle :
    (let s := ready .a 0x00118C40
     let l : List Slot := [{ n := 0, word := 0x00118C40, ext := none, ins := .add 0 false 3 3 2 }]
     s.turn.phase = .cp ∧ ((s.pairTurn 0).prepareAll 0).choose 0 = some ((0, 2, l), none) ∧
     (((chosen0 s).bundleXlat s.cur 2 l).map (·.cause)) = none ∧
     isNext (execAll ((effectOrder l).map (·.ins)) ((chosen0 s).openBundle s.cur 2 l)) = true) := by
  decide +kernel

theorem witness_StepIssuesBundle_fault :
    (let s := ready .m 0x0180C400
     let l : List Slot := [{ n := 2, word := 0x0180C400, ext := none, ins := .gld 0 false 1 17 0 }]
     ((s.pairTurn 0).prepareAll 0).choose 0 = some ((0, 2, l), none) ∧
     (((chosen0 s).bundleXlat s.cur 2 l).map (·.cause)) = some 0x50 ∧ ((after (step s)).ctx s.cur).cause = 0x50) := by
  decide +kernel

theorem witness_StepIssuesBundle_empty :
    (let s := { State.reset.placeCode [0] [] with turn := { core := 0, phase := .cp } }
     s.turn.phase = .cp ∧ ((s.pairTurn 0).prepareAll 0).choose 0 = some ((0, 1, []), none)) := by
  decide +kernel

/-- Whether a word decodes to a micro-operation. -/
def isMicroOk (r : Except DecodeError Instr) (i : Instr) : Bool :=
  match r with
  | .ok j => j == i
  | .error _ => false

/-- An event's turn on core 0, or the device's. -/
def turnOf (p : Phase) : State := { State.reset with turn := { core := 0, phase := p } }

/-- A micro-operation's turn, one of an idle array, an event list's in each phase, and the host's: with an input whose cycle has
come, with one whose cycle has not, with a mailbox command behind a DESTROY, with none, and with an access of the host to its own
memory. -/
theorem witness_StepRunsEvents :
    (let s := State.reset.placeMicro 0xA0000007
     let s1 := after (execAll [.routineLoad 0, .routineCallStart 0] s)
     isNext (execAll [.routineLoad 0, .routineCallStart 0] s) = true ∧ s.turn.phase = .array ∧
     (match (s1.core 0).mx.run with
      | none => false
      | some r => r.passLeft == 0 && r.busy == 0 && isMicroOk (decodeMicro ((s1.core 0).microWord r r.pc)) (.zacc 7)
          && isNext (exec (.zacc 7) { s1 with cur := { core := 0, ctx := r.item.ctx } })) = true) ∧
    (let s := after (execAll [.routineLoad 0, .routineCallStart 0] (turnOf .array))
     isNext (execAll [.routineLoad 0, .routineCallStart 0] (turnOf .array)) = true ∧ (s.core 0).microNext = none) := by
  decide +kernel

/-- The turns of an idle core and of the device. -/
theorem witness_StepRunsEvents_turns :
    ([Phase.slots, .array, .readout, .engine 5, .attar, .remote, .grid, .tick 3, .post 0, .host].all
      fun p => isNext (step (turnOf p)) && (turnOf p).readyAt 0 && (turnOf p).readyAt 1) = true ∧
    ([Phase.place, .memory, .monitor].all fun p => (turnOf p).readyAt 0 && (turnOf p).readyAt 1 && (turnOf p).readyAt 2) = true := by
  decide +kernel

theorem witness_StepRunsEvents_memory : isNext (step (turnOf .memory)) = true := by decide +kernel

theorem witness_StepRunsEvents_monitor : isNext (step (turnOf .monitor)) = true := by decide +kernel

/-- An input whose cycle has come, one whose cycle has not, a mailbox command behind a DESTROY, none, and an access of the host to
its own memory. -/
theorem witness_StepRunsEvents_host :
    (let s := { turnOf .host with inbox := [(0, .boot true true true)] }
     isOutside (.boot true true true) = true ∧ s.hostMem = [] ∧ s.hostOwn.waitsForMailbox (.boot true true true) = false ∧
     (after (step s)).bootst = 1 ∧ (after (step s)).inbox = []) ∧
    (let s := { turnOf .host with inbox := [(1, .boot true true true)] }
     s.hostOwn.cycle < 1 ∧ (after (step s)).inbox.length = 1) := by
  decide +kernel

theorem witness_StepRunsEvents_mailbox :
    (let s := { turnOf .host with inbox := [(0, .power 1200)], domains := (turnOf .host).domains.set 3 { dying := true } }
     s.hostOwn.waitsForMailbox (.power 1200) = true ∧ (after (step s)).inbox.length = 1) := by
  decide +kernel

theorem witness_StepRunsEvents_hostMemory :
    (let s := { turnOf .host with hostMem := [(0, .store 8 [5])] }
     Memory.get (after (step s)).mem (2 ^ 51 + 8) = 5 ∧ (after (step s)).hostMem = []) := by
  decide +kernel

/-- A step that stores to device memory from a memory in canonical form. -/
theorem witness_StepKeepsMemoryCanonical :
    (let s : State := { turnOf .memory with
       mem := [(0x100, 7)]
       posted := [inFlight .store 0x100 5 .none false] }
     s.mem.wf = true ∧ isNext (step s) = true) := by
  decide +kernel

/-! ### Witnesses: scalar instructions -/

/-- Guards p0 and p15 that read true, and the operands of each clause of R117 and R118: a sum and a product that wrap, a shift
amount of 63 and of 64 modulo 64, a division by 0, −2^63 by −1, and −7 by 2; with what the rules give. -/
theorem witness_ArithmeticResults :
    (let s := ctx0 fun x => withX 1 0xFFFFFFFFFFFFFFFF (withX 2 2 { x with p := 0x8001 })
     s.me.rp 0 = true ∧ s.me.rp 15 = true ∧
     (after (exec (.add 15 true 3 1 2) s)).me.land = [{ dest := .x 3, value := 1, rem := 0, sq := true }] ∧
     (after (exec (.mul 15 false 3 1 2) s)).me.land =
       [{ dest := .x 3, value := 0xFFFFFFFFFFFFFFFE, rem := 2, sq := false }] ∧
     (after (exec (.min 0 false 3 1 2) s)).me.land =
       [{ dest := .x 3, value := 0xFFFFFFFFFFFFFFFF, rem := 0, sq := false }] ∧
     (after (exec (.minn 0 false 3 1 2) s)).me.land = [{ dest := .x 3, value := 2, rem := 0, sq := false }] ∧
     (after (exec (.andn 0 false 3 1 2) s)).me.land =
       [{ dest := .x 3, value := 0xFFFFFFFFFFFFFFFD, rem := 0, sq := false }] ∧
     (after (exec (.shl 0 false 3 2 1) s)).me.land = [{ dest := .x 3, value := 0, rem := 0, sq := false }] ∧
     (after (exec (.sra 0 false 3 1 1) s)).me.land =
       [{ dest := .x 3, value := 0xFFFFFFFFFFFFFFFF, rem := 0, sq := false }]) := by decide +kernel

theorem witness_DivisionResults :
    (let s := ctx0 (withX 1 0x8000000000000000 ∘ withX 2 0xFFFFFFFFFFFFFFFF ∘ withX 4 0xFFFFFFFFFFFFFFF9 ∘ withX 5 2)
     s.me.rp 0 = true ∧ s.me.rx 6 = 0 ∧ (s.me.rx 1).toInt = -2 ^ 63 ∧ (s.me.rx 2).toInt = -1 ∧
     (after (exec (.div 0 false 3 1 6) s)).me.land =
       [{ dest := .x 3, value := 0xFFFFFFFFFFFFFFFF, rem := 11, sq := false }] ∧
     (after (exec (.rem 0 false 3 1 6) s)).me.land =
       [{ dest := .x 3, value := 0x8000000000000000, rem := 11, sq := false }] ∧
     (after (exec (.div 0 false 3 1 2) s)).me.land =
       [{ dest := .x 3, value := 0x8000000000000000, rem := 11, sq := false }] ∧
     (after (exec (.rem 0 false 3 1 2) s)).me.land = [{ dest := .x 3, value := 0, rem := 11, sq := false }] ∧
     (after (exec (.div 0 false 3 4 5) s)).me.land =
       [{ dest := .x 3, value := 0xFFFFFFFFFFFFFFFD, rem := 11, sq := false }] ∧
     (after (exec (.rem 0 false 3 4 5) s)).me.land =
       [{ dest := .x 3, value := 0xFFFFFFFFFFFFFFFF, rem := 11, sq := false }] ∧
     (after (exec (.mulhn 0 false 3 2 2) s)).me.land =
       [{ dest := .x 3, value := 0xFFFFFFFFFFFFFFFE, rem := 2, sq := false }]) := by decide +kernel

theorem witness_UnaryResults :
    (let s := ctx0 (withX 1 0x8000000000008080)
     s.me.rp 0 = true ∧
     (after (exec (.addi 0 false 3 0 0x3FF) s)).me.land =
       [{ dest := .x 3, value := 0xFFFFFFFFFFFFFFFF, rem := 0, sq := false }] ∧
     (after (exec (.sxI8 0 false 3 1) s)).me.land =
       [{ dest := .x 3, value := 0xFFFFFFFFFFFFFF80, rem := 0, sq := false }] ∧
     (after (exec (.zxN16 0 false 3 1) s)).me.land = [{ dest := .x 3, value := 0x8080, rem := 0, sq := false }] ∧
     (after (exec (.clz 0 false 3 0) s)).me.land = [{ dest := .x 3, value := 64, rem := 0, sq := false }] ∧
     (after (exec (.ctz 0 false 3 1) s)).me.land = [{ dest := .x 3, value := 7, rem := 0, sq := false }] ∧
     (after (exec (.popc 0 false 3 1) s)).me.land = [{ dest := .x 3, value := 3, rem := 0, sq := false }] ∧
     (after (exec (.lhi 0 false 1 0x7FFF) s)).me.land =
       [{ dest := .x 1, value := 0x40407FFF, rem := 0, sq := false }]) := by decide +kernel

/-- −1 against 1: less when signed, not when unsigned. -/
theorem witness_SelectAndPredicateResults :
    (let s := ctx0 fun x => withX 1 0xFFFFFFFFFFFFFFFF (withX 2 1 { x with p := 0x0041 })
     s.me.rp 6 = true ∧
     (after (exec (.cmpLt 6 false 2 1 2) s)).me.land = [{ dest := .pair 2, value := 1, rem := 0, sq := false }] ∧
     (after (exec (.cmpLtn 6 false 2 1 2) s)).me.land = [{ dest := .pair 2, value := 0, rem := 0, sq := false }] ∧
     (after (exec (.cmpiLen 6 false 2 1 0x3FF) s)).me.land = [{ dest := .pair 2, value := 1, rem := 0, sq := false }] ∧
     (after (exec (.sel 6 false 9 1 2 7) s)).me.land = [{ dest := .x 9, value := 1, rem := 0, sq := false }] ∧
     (after (exec (.pxor 6 false 8 6 7) s)).me.land = [{ dest := .pred 8, value := 1, rem := 0, sq := false }]) := by
  decide +kernel

/-- A result of latency 3, two that land at one bundle, a pair, a single predicate, and the discarded destinations. -/
theorem witness_ResultsLand :
    (let x : Ctx := {}
     x.land = [] ∧ (arrivals 2 (x.enter (.x 1) 5 3 false).toBlock).x = x.x ∧
     (arrivals 3 (x.enter (.x 1) 5 3 false).toBlock).x = x.x.set 1 5) ∧
    (let b : Block := { land := [⟨.x 1, 4, 0, false⟩, ⟨.x 1, 5, 0, false⟩] }
     (b.arrive').x[1] = 5) ∧
    ((({} : Block).write (.pair 7) 1).p = 0x4001 ∧ (({} : Block).write (.pair 1) 0).p = 0x0009) ∧
    ((({} : Block).write (.pred 2) 1).p = 0x0005 ∧ 2 ≤ (2 : Pred).toNat) ∧ Dest.discarded (.pred 1) = true := by
  decide +kernel

/-- A guard that reads false, on a result, on a transfer and on a wait; the context that goes on; a blocked bundle. -/
theorem witness_FalseGuardHasNoEffect :
    (let s := ctx0 id
     s.me.rp 1 = false ∧ guardOf (.div 1 false 3 1 2) = some 1 ∧ guardOf (.b 1 false 5) = some 1 ∧
     guardOf (.kwait 1 false (some ⟨0, 5, 0, 0⟩)) = some 1 ∧ (after (exec (.div 1 false 3 1 2) s)).me = s.me ∧
     (after (exec (.b 1 false 5) s)).me.xfer = .untaken ∧ isTransfer (.b 1 false 5) = true) ∧
    (let x : Ctx := { xfer := .untaken, next := 0x40 }
     x.jump = none ∧ x.outer.active = false ∧ x.inner.active = false ∧ x.delay = .none ∧ x.close.pc = 0x40) ∧
    (let s := ready .e 0x03000000 (some 0x05000000)
     s.verdict s.cur = .blocked 3 [{ n := 3, word := 0x03000000, ext := some 0x05000000,
                                     ins := .kwait 0 false (some ⟨0, 5, 0, 0⟩) }]) := by decide +kernel

/-- A slot that issues because it passes its own checks and waits for nothing. -/
def issuesB (i : Instr) (g : Pred) (s : State) : Bool :=
  s.me.rp g && decide (slotCheck i s = none) && decide (s.slotDue i = none) && !slotWaits i s
    && decide (slotXlat i s = none)

theorem issues_of {i : Instr} {g : Pred} {s : State} (h : issuesB i g s = true) : slotIssues i g s := by
  simp only [issuesB, Bool.and_eq_true, decide_eq_true_eq, Bool.not_eq_true'] at h
  exact ⟨h.1.1.1.1, .inr ⟨h.1.1.1.2, h.1.1.2, h.1.2, h.2⟩⟩

/-- A code image of which context 0 issues the first bundle, of `n` words. -/
def code0 (code : List Lane) (n : Nat) (f : Ctx → Ctx := id) : State :=
  let s := State.reset.placeCode code []
  s.setMe (f { s.me with next := BitVec.ofNat 64 (4 * n) })

/-- The core of the context that issues, changed. -/
def onMyCore (f : Core → Core) (s : State) : State := s.setMyCore (f s.myCore)

/-! ### Witnesses: control transfers, loops, traps -/

/-- A branch back by one word; a `jt` whose index is clamped to n; calls with seven and with eight entries; a return. -/
theorem witness_TransfersTaken :
    (let s := ctx0 fun x => withX 1 0x3C000 (withX 2 9 { x with here := 0x40, next := 0x48, epc := 0x20 })
     let s := onMyCore (fun k => { k with cp := [(0x3C004, 0x44), (0x3C008, 8)] }) s
     let s := { s with domains := Vector.replicate 64 {} }
     s.me.rp 0 = true ∧ (after (exec (.b 0 false 0xFFFFF) s)).me.xfer = .taken (.goto 0x3C) ∧
     issuesB (.jt 0 false 1 2 1) 0 s = true ∧ cpPhys s.myCore s.me 0x3C004 4 = some 0x3C004 ∧
     Owners.get s.myCore.cpOwner 0x3C007 = s.keyOf s.me ∧
     (after (exec (.jt 0 false 1 2 1) s)).me.xfer = .taken (.goto 0x44)) ∧
    (let s := ctx0 fun x => withX 1 4 { x with rstk := List.replicate 7 0 }
     issuesB (.call 0 false 1) 0 s = true ∧ issuesB (.calli 0 false 1) 0 s = true ∧ s.me.rstk.length < 8 ∧
     (after (exec (.calli 0 false 1) s)).me.rstk.length = 8) ∧
    (let s := ctx0 fun x => withX 1 4 { x with rstk := 0x30 :: List.replicate 7 0 }
     issuesB (.calli 0 false 1) 0 s = true ∧ (after (exec (.calli 0 false 1) s)).me.spilled = 1 ∧
     Memory.get (after (exec (.calli 0 false 1) s)).myCore.cp 0x3C000 = 0x30) ∧
    (let s := ctx0 fun x => { x with rstk := [4] }
     issuesB (.ret 0 false) 0 s = true ∧ s.me.spilled = 0 ∧
     (after (exec (.ret 0 false) s)).me.xfer = .taken (.goto 4)) := by decide +kernel

/-- A `call` with eight entries, whose delay bundle is one word; a `ret` that brings an older entry back. -/
theorem witness_TransfersTaken_spills :
    (let s := ctx0 fun x => withX 1 4 { x with rstk := 0x30 :: List.replicate 7 0, next := 4 }
     bundleAt (s.codeOf s.me) s.me.next = some [0x00118C40] ∧ issuesB (.call 0 false 1) 0 s = true ∧
     (after (exec (.call 0 false 1) s)).me.rstk[7]? = some 8) ∧
    (let s := onMyCore (fun k => { k with cp := [(0x3C008, 0x44)] }) (ctx0 fun x => { x with rstk := [4], spilled := 2 })
     let s := { s with domains := Vector.replicate 64 {} }
     issuesB (.ret 0 false) 0 s = true ∧ Owners.get s.myCore.cpOwner 0x3C00F = s.keyOf s.me ∧
     (after (exec (.ret 0 false) s)).me.rstk = [0x44] ∧ (after (exec (.ret 0 false) s)).me.spilled = 1 ∧
     (after (exec (.ret 0 false) s)).me.stall = true) := by decide +kernel

/-- The delay bundle of a transfer to the last word of the code image, and to the word past it; no transfer, with a loop step that
returns, a redirection, and neither. -/
theorem witness_BundlesEnd :
    (let s := ctx0 fun x => { x with delay := .taken (.goto 4), land := [⟨.x 1, 5, 2, true⟩, ⟨.x 2, 6, 2, false⟩] }
     validTarget (s.codeOf s.me) 4 = true ∧ ((s.endBundle s.cur).ctx s.cur).pc = 4 ∧
     ((s.endBundle s.cur).ctx s.cur).land = [⟨.x 2, 6, 2, false⟩]) ∧
    (let s := ctx0 fun x => { x with delay := .taken (.goto 8) }
     validTarget (s.codeOf s.me) 8 = false ∧ ((s.endBundle s.cur).ctx s.cur).cause = 0x08 ∧
     ((s.endBundle s.cur).ctx s.cur).epc = 8) ∧
    (let s := ctx0 fun x => { x with delay := .taken (.goto 2) }
     validTarget (s.codeOf s.me) 2 = false ∧ s.me.read = none) ∧
    (let s := ctx0 fun x => { x with delay := .taken (.goto 2), read := some ⟨false, 0, 8, 4, true, none, 0, []⟩ }
     s.me.read ≠ none ∧ ((s.endBundle s.cur).ctx s.cur).closing = true) ∧
    (let s := ctx0 fun x => { x with delay := .taken (.goto 4), read := some ⟨false, 0, 8, 4, true, none, 0, []⟩ }
     (((s.endBundle s.cur).ctx s.cur).read.map (·.dest)) = some 0) ∧
    (let s := ctx0 fun x => { x with here := 8, next := 16, outer := { active := true, count := 2, first := 4, last := 8 } }
     s.me.delay = .none ∧ ((s.endBundle s.cur).ctx s.cur).pc = 4 ∧
     ((s.endBundle s.cur).ctx s.cur).outer.count = 1) ∧
    (let s := ctx0 fun x => { x with next := 16, jump := some 24 }
     ((s.endBundle s.cur).ctx s.cur).pc = 24) ∧
    (let s := ctx0 fun x => { x with next := 16, xfer := .untaken }
     ((s.endBundle s.cur).ctx s.cur).pc = 16 ∧ ((s.endBundle s.cur).ctx s.cur).delay = .untaken) := by decide +kernel

/-- `loop` with the counts 0 and 1, outer and inner; and each clause of the loop step at the counts 1 and 2. -/
theorem witness_HardwareLoops :
    (let s := code0 [0x10000000, 0x04628002, 0, 0] 2
     issuesB (.loop 0 5 2) 0 s = true ∧ s.me.rx 5 = 0 ∧
     bundleAt (s.codeOf s.me) 8 = some [0] ∧ (after (exec (.loop 0 5 2) s)).me.jump = some 12) ∧
    (let s := code0 [0x10000000, 0x04628003, 0, 0] 2 (withX 5 0x100000001)
     issuesB (.loop 0 5 3) 0 s = true ∧ (after (exec (.loop 0 5 3) s)).me.outer =
       { active := true, count := 1, first := 8, last := 12 }) ∧
    (let s := code0 [0x10000000, 0x04628002, 0, 0] 2 fun x =>
       withX 5 3 { x with outer := { active := true, count := 1, last := 64 } }
     issuesB (.loop 0 5 2) 0 s = true ∧ (after (exec (.loop 0 5 2) s)).me.inner.count = 3) ∧
    (let o (n : BitVec 32) : HwLoop := { active := true, count := n, first := 4, last := 8 }
     let z : HwLoop := {}
     loopStep (o 2) z 12 false = { outer := o 2, inner := z, back := none } ∧
     loopStep (o 2) (o 2) 8 true = { outer := o 2, inner := o 1, back := none } ∧
     loopStep (o 2) (o 2) 8 false = { outer := o 2, inner := o 1, back := some 4 } ∧
     loopStep (o 2) (o 1) 8 false = { outer := o 1, inner := { o 0 with active := false }, back := some 4 } ∧
     loopStep (o 1) (o 1) 8 false =
       { outer := { o 0 with active := false }, inner := { o 0 with active := false }, back := none } ∧
     loopStep (o 1) z 8 true = { outer := { o 0 with active := false }, inner := z, back := none } ∧
     loopStep (o 2) z 8 false = { outer := o 1, inner := z, back := some 4 } ∧
     loopStep (o 1) z 8 false = { outer := { o 0 with active := false }, inner := z, back := none } ∧
     loopStep { o 2 with last := 12 } (o 1) 8 false =
       { outer := { o 2 with last := 12 }, inner := { o 0 with active := false }, back := none }) := by decide +kernel

/-- A context whose last temporal point this is, with a result in flight; and one with a point left. -/
theorem witness_HaltEndsThePass :
    (let s := ready .a 0x04700000 none fun x => { x with land := [⟨.x 7, 9, 1, false⟩] }
     issuesB (.halt 0 false) 0 s = true ∧ s.passBusy s.cur = false ∧
     odometer (s.loopsOf s.me) s.me.coord [5, 4, 3, 2, 1, 0] = none ∧
     (after (exec (.halt 0 false) s)).me.ended = true ∧ (after (exec (.halt 0 false) s)).me.rx 7 = 9) ∧
    (let s := ready .a 0x04700000
     let s := { s with objects := s.objects.map fun o => { o with kernels := o.kernels.map fun k =>
       { k with loops := k.loops.set 2 { kind := 1, extent := 2 } } } }
     issuesB (.halt 0 false) 0 s = true ∧ s.passBusy s.cur = false ∧
     (odometer (s.loopsOf s.me) s.me.coord [5, 4, 3, 2, 1, 0]).isSome = true ∧
     (after (exec (.halt 0 false) s)).me.ended = false ∧ (after (exec (.halt 0 false) s)).me.coord[2] = 1) := by
  decide +kernel

/-- With a handler; without one; in a handler; and for a cause that never reaches one. -/
theorem witness_TakingATrap :
    (let t : TrapInfo := { cause := 0x10, source := 0, faddr := 5, epc := 8, btarg := 0 }
     let s := ctx0 fun x => { x with tvec := 4, land := [⟨.x 1, 5, 2, true⟩] }
     s.me.trapped = false ∧ s.me.stopped = false ∧ neverHandled t.cause = false ∧
     (s.takeTrap s.cur t).me.pc = 4 ∧ (s.takeTrap s.cur t).me.parked = [⟨.x 1, 5, 2, true⟩] ∧
     ((ctx0 id).takeTrap s.cur t).me.stopped = true ∧ ((ctx0 id).takeTrap s.cur t).monq.length = 1 ∧
     ((ctx0 fun x => { x with tvec := 4, trapped := true }).takeTrap s.cur t).me.stopped = true ∧
     neverHandled 0x13 = true ∧ neverHandled 0x14 = true ∧ neverHandled 0x81 = true ∧ neverHandled 0x84 = true ∧
     (s.takeTrap s.cur { t with cause := 0x14 }).me.stopped = true) := by decide +kernel

/-- A store across the end of its row in the delay bundle of a taken transfer; a `gst` to an address that no mapping holds. -/
theorem witness_PreciseFaultTakesTheTrap :
    (let s := ctx0 fun x => withX 1 0x3CFFC { x with delay := .taken (.goto 4), here := 4 }
     guardOf (.st64 0 false 2 1 0) = some 0 ∧ s.me.rp 0 = true ∧ s.me.admitted = false ∧
     (slotCheck (.st64 0 false 2 1 0) s).isSome = true ∧
     (after (exec (.st64 0 false 2 1 0) s)).me.btarg = 4) ∧
    (let s := ctx0 fun x => withX 1 0x10008 { x with here := 8 }
     guardOf (.gst 0 false 2 1 0) = some 0 ∧ slotCheck (.gst 0 false 2 1 0) s = none ∧ s.slotDue (.gst 0 false 2 1 0) = none ∧
     slotWaits (.gst 0 false 2 1 0) s = false ∧ ((slotXlat (.gst 0 false 2 1 0) s).map (·.cause)) = some 0x50 ∧
     (after (exec (.gst 0 false 2 1 0) s)).me.faddr = 0x10008) := by decide +kernel

/-- Without a handler, and in the delay bundle of a taken transfer with one. -/
theorem witness_SoftwareTrap :
    (let s := ctx0 fun x => { x with next := 8 }
     s.me.rp 0 = true ∧ s.me.read = none ∧ s.me.delay = .none ∧ (after (exec (.trap 0 false 0x7FFF) s)).me.epc = 8 ∧
     (after (exec (.trap 0 false 0x7FFF) s)).me.faddr = 0x7FFF) ∧
    (let s := ctx0 fun x => { x with tvec := 4, delay := .taken (.goto 4) }
     s.me.read = none ∧ (after (exec (.trap 0 false 1) s)).me.epc = 4) ∧
    (let s := ctx0 fun x => { x with tvec := 4, land := [⟨.x 1, 5, 2, false⟩] }
     (after (exec (.trap 0 false 1) s)).me.pc = 4 ∧
     (after (exec (.trap 0 false 1) s)).me.parked = [⟨.x 1, 5, 2, false⟩]) := by decide +kernel

/-- Back to a plain bundle with a result of the handler in flight, and into a delay bundle. -/
theorem witness_TrapReturns :
    (let s := ctx0 fun x => { x with
       trapped := true, delay := .taken (.trapReturn 4), parked := [⟨.x 1, 5, 2, false⟩], land := [⟨.x 2, 6, 0, false⟩] }
     validTarget (s.codeOf s.me) 4 = true ∧ s.me.btarg = 0 ∧ ((s.endBundle s.cur).ctx s.cur).land = [⟨.x 1, 5, 2, false⟩] ∧
     ((s.endBundle s.cur).ctx s.cur).x = s.me.x.set 2 6) ∧
    (let s := ctx0 fun x => { x with trapped := true, btarg := 4, delay := .taken (.trapReturn 0) }
     validTarget (s.codeOf s.me) 0 = true ∧ s.me.land.all (·.sq) = true ∧
     ((s.endBundle s.cur).ctx s.cur).delay = .taken (.goto 4)) ∧
    (let s := ctx0 fun x => { x with delay := .taken (.trapReturn 4) }
     s.me.trapped = false ∧ validTarget (s.codeOf s.me) 4 = true) ∧
    (let s := ctx0 fun x => { x with
       trapped := true, delay := .taken (.trapReturn 4), read := some ⟨false, 0, 8, 4, false, none, 0, []⟩ }
     s.me.read ≠ none ∧ s.me.trapped = true ∧ ((s.endBundle s.cur).ctx s.cur).closing = true) := by decide +kernel

/-- `mfs` of a coordinate of a context at rest and of SLOTTAB; `mts` of FLAGS with a bit set in the same cycle, and of TVEC. -/
theorem witness_SpecialRegisters :
    (let s := ctx0 fun x => { x with coord := x.coord.set 1 7 }
     issuesB (.mfs 0 false 1 17) 0 s = true ∧ issuesB (.mfs 0 false 1 31) 0 s = true ∧
     (after (exec (.mfs 0 false 1 17) s)).me.land = [⟨.x 1, 7, 0, false⟩] ∧
     (after (exec (.mfs 0 false 1 31) s)).me.land = [⟨.x 1, 0x924924924924, 0, false⟩]) ∧
    (let s := ctx0 fun x => withX 1 0x11 { x with flags := 4, flagNew := 4 }
     s.me.rp 0 = true ∧ s.me.flagAt = s.cycle ∧ (after (exec (.mts 0 false 1 9) s)).me.flags = 0x15 ∧
     (after (exec (.mts 0 false 1 10) s)).me.tvec = 0x11) := by decide +kernel

/-! ### Witnesses: memory and signals -/

/-- Domain 0 with the range 0x10000 to 0x1FFFF, all permissions, mapped to the first bytes of stack 0. -/
def mapped (s : State) : State :=
  s.setDomain 0 { s.domain 0 with
    live := true
    ranges := (s.domain 0).ranges.set 0 { vbase := 0x10000, vlimit := 0x1FFFF, pbase := 0, attr := 0xF } }

/-- Whether a result is a value. -/
def isOk {ε α : Type} [DecidableEq α] (r : Except ε α) (a : α) : Bool :=
  match r with
  | .ok b => b == a
  | .error _ => false

/-- A signal of one row, depth 2 and lead 1. -/
def sig1 (n : SigNum) (bind : Binding) (adv : Nat) (slots : List SigSlot) : Signal :=
  { plan := { sig := n, fmt := 1, rows := 1, depth := 2, lead := 1, rate := 1, phase := 0, start := 0x1234, isStatic := false,
              isRemote := false }, adv := adv, bind := bind, slots := slots }

/-- Loads at the last byte, halfword, word and doubleword of a context's spill area, sign bits set. -/
theorem witness_CpLoads :
    (let s := onMyCore (fun k => { k with cp := [(0x3CFF8, 1), (0x3CFFF, 0x80)] }) (ctx0 (withX 1 0x3D000))
     [(Instr.ldI8 0 false 2 1 0x3FF, 1, 0x80), (.ldN8 0 false 2 1 0x3FF, 1, 0x80), (.ldI16 0 false 2 1 0x3FE, 2, 0x8000),
      (.ldN16 0 false 2 1 0x3FE, 2, 0x8000), (.ldI32 0 false 2 1 0x3FC, 4, 0x80000000),
      (.ldN32 0 false 2 1 0x3FC, 4, 0x80000000), (.ld64 0 false 2 1 0x3F8, 8, 0x8000000000000001)].all (fun (i, w, v) =>
        issuesB i 0 s && cpPhys s.myCore s.me (0x3D000 - w) w == some (0x3D000 - w) &&
        Owners.get s.myCore.cpOwner (0x3D000 - w) == s.keyOf s.me &&
        leNat (Memory.getBytes s.myCore.cp (0x3D000 - w) w) == v) = true ∧
     (after (exec (.ldI16 0 false 2 1 0x3FE) s)).me.land = [⟨.x 2, 0xFFFFFFFFFFFF8000, 2, false⟩] ∧
     (after (exec (.ldN32 0 false 2 1 0x3FC) s)).me.land = [⟨.x 2, 0x80000000, 2, false⟩]) := by decide +kernel

/-- Stores at the last place of a context's spill area; and the faults, at an address that meets both conditions and one past the
area. -/
theorem witness_CpStoresAndFaults :
    (let s := ctx0 (withX 1 0x3D000 ∘ withX 2 0x1122334455667788)
     [(Instr.st8 0 false 2 1 0x3FF, 1), (.st16 0 false 2 1 0x3FE, 2), (.st32 0 false 2 1 0x3FC, 4),
      (.st64 0 false 2 1 0x3F8, 8)].all (fun (i, w) =>
        issuesB i 0 s && cpPhys s.myCore s.me (0x3D000 - w) w == some (0x3D000 - w) &&
        leNat (Memory.getBytes (after (exec i s)).myCore.cp (0x3D000 - w) w) == 0x1122334455667788 % 256 ^ w) = true) ∧
    (let s := ctx0 (withX 1 0x3D000)
     s.me.rp 0 = true ∧ s.me.admitted = false ∧ cpPhys s.myCore s.me 0x3D000 8 = none ∧
     (after (exec (.ld64 0 false 2 1 0) s)).me.cause = 0x0B ∧ (after (exec (.st64 0 false 2 1 4) s)).me.cause = 0x0A ∧
     (after (exec (.st64 0 false 2 1 4) s)).me.faddr = 0x3D004) := by decide +kernel

/-- `tld` of a sample at the history's edge and past it; `tst` into a free slot of an unbound signal; `rst` to partner 1. -/
theorem witness_SignalAccesses :
    (let s := ctx0 fun x => x.setSig 2 (some (sig1 2 .cp 0 [{ st := .full, data := [rowOf 9] }, {}, {}]))
     (s.me.sig 2).isSome = true ∧ issuesB (.tld 0 false 3 2 0 31) 0 s = true ∧ issuesB (.tld 0 false 3 2 1 31) 0 s = true ∧
     (after (exec (.tld 0 false 3 2 0 31) s)).me.land = [⟨.x 3, 0x900000009, 3, false⟩] ∧
     (after (exec (.tld 0 false 3 2 1 31) s)).me.land = [⟨.x 3, 0x123400001234, 3, false⟩]) ∧
    (let s := ctx0 fun x => withX 3 5 (x.setSig 2 (some (sig1 2 .unbound 0 [{}, {}, {}])))
     issuesB (.tst 0 false 3 2 1 0) 0 s = true ∧
     (match (after (exec (.tst 0 false 3 2 1 0) s)).me.sig 2 with
      | none => false
      | some g => g.bind == .cp && (g.slot 1).st == .full && unitOf ((g.slot 1).data.getD 0 0) 0 == 5
          && unitOf ((g.slot 1).data.getD 0 0) 31 == 0x123400001234) = true) ∧
    (let r : Signal := { sig1 2 .remote 0 [{}, {}, {}] with plan := { (sig1 2 .remote 0 []).plan with isRemote := true } }
     let s := ctx0 fun x => withX 3 5 (x.setSig 2 (some r))
     let s := s.setCtx { core := 1, ctx := 0 } { s.me with point := 1 }
     issuesB (.rst 0 false 3 2 1 0 7) 0 s = true ∧
     ((after (exec (.rst 0 false 3 2 1 0 7) s)).myCore.remote.map (·.point)) = [1]) := by decide +kernel

/-- Whether an access of the context that issues reaches an address. -/
def reaches (s : State) (va : Word) (align : Nat) (need : Need) (pa : Nat) : Bool :=
  match s.access (some s.cur.core) s.me.dom va align 0x54 need none with
  | .ok (p, _) => p == pa
  | .error _ => false

/-- A `gld`; a `gst` posted, and held under speculation; the atomics with and without a destination; drains. -/
theorem witness_DeviceAccessesIssue :
    (let s := mapped (ctx0 (withX 1 0x10000 ∘ withX 2 6))
     reaches s 0x10008 8 Need.read 8 = true ∧ issuesB (.gld 0 false 3 1 8) 0 s = true ∧
     ((after (exec (.gld 0 false 3 1 8) s)).me.read.map (·.pa)) = some 8 ∧
     (after (exec (.gld 0 false 3 1 8) s)).myCore.ranges.length = 1 ∧
     issuesB (.gst 0 false 2 1 8) 0 s = true ∧ reaches s 0x10008 8 Need.write 8 = true ∧
     s.me.specd = 0 ∧ s.me.ckpting = false ∧ (after (exec (.gst 0 false 2 1 8) s)).posted.length = 1 ∧
     reaches s 0x10000 8 Need.atomic 0 = true ∧ reaches s 0x10000 16 Need.atomic 0 = true ∧
     [Instr.aadd 0 false 3 1 2, .aadd 0 false 0 1 2, .amin 0 false 3 1 2, .amax 0 false 3 1 2, .aswp 0 false 3 1 2,
      .acas 0 false 3 1 2 4, .acadd 0 false 1 2, .drainCl 0 false, .drainDie 0 false, .drainDev 0 false,
      .drainSys 0 false].all (fun i => issuesB i 0 s) = true) ∧
    (let s := mapped (ctx0 fun x => withX 1 0x10000 { x with specd := 1 })
     issuesB (.gst 0 false 2 1 8) 0 s = true ∧ (after (exec (.gst 0 false 2 1 8) s)).me.hold.length = 1) ∧
    (let s := mapped (ctx0 fun x => withX 1 0x10000 { x with ckpting := true })
     issuesB (.aadd 0 false 0 1 2) 0 s = true ∧ (after (exec (.aadd 0 false 0 1 2) s)).me.heldPosts.length = 1) ∧
    (let s := { ctx0 id with posted := [inFlight .store 0 5 .none false] }
     s.drainWaits s.cur .cl = true ∧ s.drainWaits s.cur .sys = true) := by decide +kernel

/-- An atomic of each kind on the word −1; a cell at 2^72 − 1, and one whose MARK is set. -/
theorem witness_AtomicsPerform :
    (let m : Memory := (List.range 8).map fun i => (8 + i, 0xFF)
     [(PostKind.aadd, 0x2), (.amin, 0xFFFFFFFFFFFFFFFF), (.amax, 0x3), (.aswp, 0x3), (.acas 0xFFFFFFFFFFFFFFFF, 0x3),
      (.acas 1, 0xFFFFFFFFFFFFFFFF)].all (fun (k, v) =>
        let p := inFlight k 8 3 .none false
        let s := { mapped (ctx0 id) with mem := m, posted := [p] }
        s.posted? 1 == some p && !p.kind.isStore && p.kind != .cell && !s.behind p .dev && !s.unread p && !s.strayKey p &&
        !s.poisoned 8 8 && !paExt 8 && leNat (Memory.getBytes (after (exec (.atomicPerform 1) s)).mem 8 8) == v) = true) ∧
    (let p := inFlight .cell 0 1 .none false
     let s := { mapped (ctx0 id) with mem := (List.range 9).map fun i => (i, 0xFF), posted := [p] }
     s.posted? 1 = some p ∧ s.behind p .dev = false ∧ s.unread p = false ∧ s.strayKey p = false ∧
     s.poisoned 0 16 = false ∧ (after (exec (.cellAddPerform 1) s)).mem = []) ∧
    (let p := inFlight .cell 0 1 .none false
     let s := { mapped (ctx0 id) with mem := [(9, 1)], posted := [p] }
     (Memory.get s.mem 9).getLsbD 0 = true ∧ (after (exec (.cellAddPerform 1) s)).mem = [(9, 1)]) ∧
    (let p := inFlight .aadd 8 3 .none true
     let s := { mapped (ctx0 fun x => { x with read := some ⟨true, 0, 8, 4, false, none, 0, []⟩ }) with posted := [p] }
     s.unread p = false ∧ ((after (exec (.atomicPerform 1) s)).me.read.map (·.value)) = some (some 0)) := by decide +kernel

/-- A `gst` at each scope, and behind another that has performed at `cl`; a `gld` of memory, of the context's own `gst` in flight,
and an atomic, whose values return. -/
theorem witness_StoresPerformAndValuesReturn :
    ([Scope.none, .cl, .die].all (fun sc =>
        let p := inFlight .store 8 3 sc false
        let s := { mapped (ctx0 id) with posted := [p] }
        s.posted? 1 == some p && !s.behind p p.scope.succ && !s.strayKey p && s.coherent p && !paExt p.pa
          && Memory.get (after (exec (.deviceWritePerform 1) s)).mem 8 == if sc = .die then 3 else 0) = true) ∧
    (let s := { ctx0 (fun x => { x with read := some ⟨false, 0, 8, 4, false, none, 0, []⟩ }) with mem := [(9, 1)] }
     s.posted = [] ∧ s.me.hold = [] ∧ s.poisoned 8 8 = false ∧ Owners.get s.memOwner 15 = s.keyOf s.me ∧
     (after (exec (.deviceReadReturn s.cur) s)).me.land = [⟨.x 4, 0x100, 0, false⟩]) ∧
    (let p := { inFlight .store 8 3 .die false with id := 2 }
     let q := inFlight .store 15 9 .cl false
     let s := { mapped (ctx0 id) with posted := [q, p] }
     s.posted? 2 = some p ∧ q.scope ≠ .none ∧ p.pa < q.pa + 8 ∧ q.pa < p.pa + 8 ∧
     (after (exec (.deviceWritePerform 2) s)).posted = s.posted) ∧
    (let p := inFlight .store 8 3 .cl false
     let s := { ctx0 (fun x => { x with read := some ⟨false, 0, 8, 4, false, none, 0, []⟩ }) with posted := [p] }
     p.src = s.cur ∧ p.kid = s.me.kid ∧ p.key = s.keyOf s.me ∧
     (after (exec (.deviceReadReturn s.cur) s)).me.land = [⟨.x 4, 3, 0, false⟩]) ∧
    (let s := ctx0 fun x => { x with read := some ⟨true, 0, 8, 4, true, some 7, 0, []⟩ }
     (after (exec (.deviceReadReturn s.cur) s)).me.land = [⟨.x 4, 7, 0, true⟩]) := by decide +kernel

/-- A `gld` of a held store, and of one that a `commit` has discarded; a store that takes its place in the coherence order beside
another context's. -/
theorem witness_StoresPerformAndValuesReturn_held :
    (let s := ctx0 fun x => { x with read := some ⟨false, 0, 8, 4, false, none, 0, []⟩, hold := [⟨1, 0, 8, 5, 0, true, 0⟩] }
     s.readBehind s.cur 8 = false ∧ s.poisoned 8 8 = false ∧
     (after (exec (.deviceReadReturn s.cur) s)).me.land.map (·.value) = [5]) ∧
    (let s := ctx0 fun x => { x with read := some ⟨false, 0, 8, 4, false, none, 0, [(8, 6)]⟩ }
     s.readBehind s.cur 8 = false ∧ (after (exec (.deviceReadReturn s.cur) s)).me.land.map (·.value) = [6]) ∧
    (let p := { inFlight .store 8 3 .none false with id := 2, src := ⟨0, 1⟩ }
     let q := inFlight .store 8 9 .cl false
     let s := { mapped (ctx0 id) with posted := [q, p] }
     s.posted? 2 = some p ∧ s.behind p .cl = false ∧ s.strayKey p = false ∧
     (after (exec (.deviceWritePerform 2) s)).posted.length = 2) := by decide +kernel

/-! ### Witnesses: slot E -/

/-- A record of one dimension: FMT, BASE, EXT0 and WIN0 (R232). -/
def rec1 (fmt base ext win : Nat) : Vector Word 12 :=
  ((((Vector.replicate 12 0).set 0 (BitVec.ofNat 64 base)).set 1 (BitVec.ofNat 64 (fmt * 2 ^ 56 + 2 ^ 53))).set 2
    (BitVec.ofNat 64 ext)).set 9 (BitVec.ofNat 64 win)

/-- A token cleared and set again; `kwait` with a clear and with a set token; `kpoll` and `nop`. -/
theorem witness_TokenInstructions :
    (let s := ctx0 fun x => { x with k := 0x8002 }
     s.me.rk 5 = false ∧ slotWaits (.kwait 0 false (some ⟨0, 0, 0, 5⟩)) s = true ∧
     issuesB (.kwait 0 false (some ⟨5, 1, 15, 0⟩)) 0 s = true ∧ kpOf (some ⟨5, 1, 15, 0⟩) = 5 ∧ kpOf none = 0 ∧
     (after (exec (.kwait 0 false (some ⟨5, 1, 15, 0⟩)) s)).me.k = 0x8022 ∧
     issuesB (.kpoll 0 false 3 none) 0 s = true ∧
     (after (exec (.kpoll 0 false 3 none) s)).me.land = [⟨.x 3, 0x8002, 1, false⟩] ∧
     issuesB (.nop 0 false (some ⟨2, 0, 0, 0⟩)) 0 s = true ∧
     (after (exec (.nop 0 false (some ⟨2, 0, 0, 0⟩)) s)).me.k = 0x8006) := by decide +kernel

/-- `tick`, `spec` of 32, `sclr`, `sstat` of a planned and an unplanned signal; `commit` without speculation, and of one of two
speculative ticks, with a held store of each. -/
theorem witness_TicksAndSpeculation :
    (let s := ctx0 fun x => x.setSig 2 (some (sig1 2 .cp 3 [{ st := .full }, {}, {}]))
     issuesB (.tick 0 false (some ⟨4, 0, 0, 0⟩)) 0 s = true ∧ issuesB (.spec 0 false 32 none) 0 s = true ∧
     (after (exec (.spec 0 false 32 none) s)).me.specd = 32 ∧ issuesB (.sclr 0 false 2 none) 0 s = true ∧
     ((after (exec (.sclr 0 false 2 none) s)).me.sig 2) = some (sig1 2 .unbound 0 [{}, {}, {}]) ∧
     issuesB (.sstat 0 false 3 2 none) 0 s = true ∧ issuesB (.sstat 0 false 3 63 none) 0 s = true ∧
     (after (exec (.sstat 0 false 3 63 none) s)).me.land = [⟨.x 3, 0, 1, false⟩] ∧
     issuesB (.commit 0 false 0 0 none) 0 s = true ∧ s.me.specd = 0) ∧
    (let s := mapped (ctx0 fun x => { x with
       specd := 2, now := 12, nowc := 10, hold := [⟨1, 0x10000, 0, 7, 10, true, 0⟩, ⟨2, 0x10008, 8, 8, 11, true, 0⟩] })
     issuesB (.commit 0 false 0 1 none) 0 s = true ∧ s.me.ckpting = false ∧
     (after (exec (.commit 0 false 0 1 none) s)).me.now = 11 ∧
     (after (exec (.commit 0 false 0 1 none) s)).posted.map (fun p => (p.va, p.data)) = [(0x10000, 7)] ∧
     (let c := s.setMe { s.me with ckpting := true }
      issuesB (.commit 0 false 0 1 none) 0 c = true ∧ c.me.trigs = [] ∧ (after (exec (.commit 0 false 0 1 none) c)).posted = [] ∧
      (after (exec (.commit 0 false 0 1 none) c)).me.hold.map (·.spec) = [false])) ∧
    (let s := mapped (ctx0 fun x => { x.setSig 2 (some (sig1 2 .cp 3 [{ st := .full, tag := 3, claim := 10 },
       { st := .full, tag := 4, claim := 11 }, {}])) with specd := 2, now := 12, nowc := 10 })
     issuesB (.commit 0 false 0 1 none) 0 s = true ∧
     ((after (exec (.commit 0 false 0 1 none) s)).me.sig 2).map (fun g => (g.adv, g.slots.map (·.st))) =
       some (2, [.full, .free, .free])) := by decide +kernel

/-- The status word of a planned signal, with a sample ahead of its position and a held one; a `commit` of a bundle with a `gld`. -/
theorem witness_TicksAndSpeculation_status :
    (let s := ctx0 fun x => x.setSig 2 (some { sig1 2 .cp 3 [{ st := .full, tag := 3, held := true }, { st := .full, tag := 4 }, {}]
       with adv := 3 })
     issuesB (.sstat 0 false 3 2 none) 0 s = true ∧
     (after (exec (.sstat 0 false 3 2 none) s)).me.land.map (·.value) =
       [BitVec.ofNat 64 (3 * 2 ^ 61 + 2 * 2 ^ 59 + 2 ^ 58 + 1 * 2 ^ 46 + 1 * 2 ^ 39 + 0 * 2 ^ 26 + 3)]) ∧
    (let s := mapped (ctx0 fun x => { x with
       specd := 2, now := 12, nowc := 10, hold := [⟨1, 0x10000, 0, 7, 10, true, 0⟩, ⟨2, 0x10008, 8, 8, 11, true, 0⟩]
       read := some ⟨false, 0x10008, 8, 4, false, none, 0, []⟩ })
     issuesB (.commit 0 false 0 1 none) 0 s = true ∧
     ((after (exec (.commit 0 false 0 1 none) s)).me.read.map (·.lost)) = some [(8, 8)]) := by decide +kernel

/-- The step of a due signal of depth 2: a free slot at ADV is finalised with start values, and the full sample beyond depth
expires; under speculation it is held; of depth 1 the sample just finalised expires. -/
theorem witness_TicksAndSpeculation_step :
    (let g := sig1 2 .cp 1 [{ st := .full, tag := 0 }, { st := .free, tag := 1 }, {}]
     let s := ctx0 fun x => { x.setSig 2 (some g) with tick := some ⟨5, 0⟩ }
     s.me.tickWaits = false ∧ g.plan.isStatic = false ∧ g.plan.due 1 = true ∧ 0 < g.plan.depth ∧
     g.slots.length = g.plan.nslots ∧ (s.core 0).pinned 0 2 0 = false ∧
     ((after (exec (.tickStep s.cur) s)).me.sig 2).map (fun g => (g.adv, g.slots.map fun v => (v.st, v.data))) =
       some (2, [(.free, []), (.full, [rowOf 0x1234]), (.free, [])])) ∧
    (let g := sig1 2 .cp 1 [{ st := .full, tag := 0 }, { st := .full, tag := 1 }, {}]
     let s := ctx0 fun x => { x.setSig 2 (some g) with tick := some ⟨5, 0⟩, specd := 4 }
     s.me.tickWaits = false ∧
     ((after (exec (.tickStep s.cur) s)).me.sig 2).map (fun g => g.slots.map fun v => (v.st, v.held)) =
       some [(.full, true), (.full, false), (.free, false)]) ∧
    (let g : Signal := { sig1 2 .cp 0 [{}, {}] with plan := { (sig1 2 .cp 0 []).plan with depth := 1 } }
     let s := ctx0 fun x => { x.setSig 2 (some g) with tick := some ⟨5, 0⟩ }
     s.me.tickWaits = false ∧ g.slots.length = g.plan.nslots ∧ g.plan.depth ≤ g.adv + 1 ∧
     ((after (exec (.tickStep s.cur) s)).me.sig 2).map (fun g => g.slots.map (·.st)) = some [.free, .free]) := by decide +kernel

/-- A `ckpt` with two held stores, of which one is speculative's to keep; with Q, an immediate, and under speculation. -/
theorem witness_CheckpointTaken :
    (let s := ctx0 fun x => withX 5 3 { x with next := 8, hold := [⟨1, 0x10000, 0, 7, 10, false, 0⟩] }
     issuesB (.ckpt 0 ⟨5, false, 0⟩ none) 0 s = true ∧ s.me.rerunning = false ∧ s.me.delay = .none ∧ s.me.jump = none ∧
     (let y := (after (exec (.ckpt 0 ⟨5, false, 0⟩ none) s)).me
      y.ckmask = 3 ∧ (y.shadow.map (·.blk.pc)) = some 8 ∧ (y.shadow.map (·.blk.x[5])) = some 3 ∧
      (y.shadow.map (·.rows.length)) = some 32 ∧ y.hold = []) ∧
     (after (exec (.ckpt 0 ⟨5, false, 0⟩ none) s)).posted.map (·.data) = [7] ∧
     s.me.rp 0 = true ∧ s.me.admitted = false ∧ (after (exec (.ckpt 0 ⟨5, true, 0⟩ none) s)).me.cause = 0x83 ∧
     (after (exec (.ckpt 0 ⟨5, false, 1⟩ none) s)).me.cause = 0x83) ∧
    (let s := ctx0 fun x => { x with specd := 1 }
     (after (exec (.ckpt 0 ⟨5, false, 0⟩ none) s)).me.cause = 0x83) := by decide +kernel

/-- The grid owned by the context: each command, a `grun` of 2^32 + 1 and one of 2^32; and the array's. -/
theorem witness_GridAndMatrixCommands :
    (let s := onMyCore (fun k => { k with grid := { k.grid with owner := some 0 } })
       (ctx0 (withX 1 0x100000001 ∘ withX 2 0x100000000))
     [Instr.gacq 0 false none, .grel 0 false none, .gcfg 0 false 3 (some ⟨4, 0, 0, 0⟩), .gset 0 false 31 1 4 none,
      .grun 0 false 1 none, .grun 0 false 2 (some ⟨4, 0, 0, 0⟩), .mxload 0 false 31 none, .mxcall 0 false 31 none,
      .mxp 0 false 7 1 none].all (fun i => issuesB i 0 s) = true ∧
     (s.me.rx 1).extractLsb' 0 32 ≠ 0 ∧ (s.me.rx 2).extractLsb' 0 32 = 0 ∧
     ((after (exec (.grun 0 false 1 none) s)).myCore.grid.queue.map (·.op)) = [.run 1] ∧
     (after (exec (.grun 0 false 2 (some ⟨4, 0, 0, 0⟩)) s)).me.rk 4 = true ∧
     (after (exec (.mxp 0 false 7 1 none) s)).me.mp[7] = 1) := by decide +kernel

/-- Each stream command, one that moves a unit and a `sgather` of no index. -/
theorem witness_StreamCommandsAreQueued :
    (let s := ctx0 fun x => withX 3 1 { x with
       d := ((x.d.set 0 (rec1 1 0x10000 1 1)).set 1 (rec1 0x13 0x10000 1 1))
       sigs := ((x.sigs.set 2 (some (sig1 2 .unbound 0 [{}, {}, {}]))).set 3 (some
         { sig1 3 .cp 0 [{}, {}, {}] with plan := { (sig1 3 .cp 0 []).plan with fmt := 3 } })) }
     let t : Tokens := ⟨4, 0, 0, 0⟩
     [Instr.sload 0 false 3 2 1 0 1 t, .sloadPl 0 false 3 0 1 2 t, .sstore 0 false 1 2 0 0 1 t, .scopy 0 false 5 0 0 1 2 t,
      .sgather 0 false 3 2 0 0 1 3 0 t, .sgather 0 false 3 2 0 0 1 2 0 t, .sreduce 0 false false 3 2 0 0 1 3 0 false 0 t,
      .sscatter 0 false 0 3 0 1 1 3 0 t].all (fun i => issuesB i 0 s) = true ∧
     ((after (exec (.sload 0 false 3 2 1 0 1 t) s)).myCore.engines[3]).queue.length = 1 ∧
     (((after (exec (.sload 0 false 3 2 1 0 1 t) s)).me.sig 2).map (·.bind)) = some .stream ∧
     ((after (exec (.sgather 0 false 3 2 0 0 1 2 0 t) s)).myCore.engines[3]).queue = [] ∧
     (after (exec (.sgather 0 false 3 2 0 0 1 2 0 t) s)).me.rk 4 = true) := by decide +kernel

theorem witness_TablesAndDescriptors :
    (let s := ctx0 (withX 1 0x100000005)
     [Instr.spos 0 false 31 1 none, .dset 0 false 7 11 1 none, .dget 0 false 2 7 11 none,
      .dclr 0 false 7 none].all (fun i => issuesB i 0 s) = true ∧ (11 : BitVec 4).toNat < 12 ∧
     (after (exec (.spos 0 false 31 1 none) s)).myCore.seqs[31] = { ptr := 5, owner := some 0 } ∧
     (after (exec (.dset 0 false 7 11 1 none) s)).me.d[7][11] = 0x100000005) := by decide +kernel

theorem witness_TriggersAndLaunches :
    (let s := ctx0 (withX 1 0x10000 ∘ withX 2 0x85)
     s.me.specd = 0 ∧ issuesB (.trig 0 false none) 0 s = true ∧ issuesB (.launch 0 false 1 2 none) 0 s = true ∧
     (after (exec (.launch 0 false 1 2 none) s)).me.posting.map (·.queue) = [5]) ∧
    (let s := ctx0 fun x => { x with specd := 3, now := 9 }
     issuesB (.trig 0 false (some ⟨6, 0, 0, 0⟩)) 0 s = true ∧
     (after (exec (.trig 0 false (some ⟨6, 0, 0, 0⟩)) s)).me.triggered = false) := by decide +kernel

/-- Arrivals; a released `wait` of each scope; a `sync` whose cycle has come. -/
theorem witness_BarrierInstructions :
    (let s := ctx0 id
     [Instr.arriveCl 0 false none, .arriveDie 0 false none, .arriveDev 0 false none].all (fun i => issuesB i 0 s) = true ∧
     (after (exec (.arriveDie 0 false none) s)).me.arrive.toList = [0, 1, 0]) ∧
    ([(Instr.waitCl 0 false none, Scope.cl), (.waitDie 0 false none, .die), (.waitDev 0 false none, .dev)].all (fun (i, sc) =>
        issuesB i 0 { ctx0 (fun x => { x with wait := some ⟨sc, some 160⟩ }) with cycle := 160 }) = true) ∧
    (let s := { ctx0 (fun x => { x with syncSeen := some 3, syncAt := some 11 }) with cycle := 11 }
     issuesB (.sync 0 false none) 0 s = true ∧ (after (exec (.sync 0 false none) s)).me.syncAt = none) := by decide +kernel

/-! ### Witnesses: the matrix array and the grid -/

/-- The array of core 0 runs a call of context 0, changed by `f`; context 0's kernel has a plane region of one line. -/
def call0 (f : MxCall → MxCall) : State := (State.reset.placeMicro 0).onMx 0 fun m => { m with run := m.run.map f }

/-- A parameter of the call. -/
def withP (p : BitVec 3) (v : Lane) (r : MxCall) : MxCall :=
  { r with item := { r.item with params := r.item.params.set p.toNat v p.isLt } }

/-- The running call after an instruction. -/
def runAfter (i : Instr) (s : State) : Option MxCall := (after (exec i s)).myCore.mx.run

/-- Line 0 inside the region and line 1 past its end; `zacc` of 1,024 rows; `padd` of −1 to 0. -/
theorem witness_MicroSetup :
    (let s := call0 (withP 1 1 ∘ withP 2 0x403)
     (s.myCore.mx.run.map fun r => s.myCore.planeSize (s.myCore.caller r)) = some 8192 ∧
     (runAfter (.bindB 0 true) s).map (·.bcur) = some 0 ∧ (runAfter (.bindAcc 2 true) s).map (·.acur) = some 3 ∧
     (runAfter (.padd 0 0xFFFF) s).map (·.item.params[0]) = some 0xFFFFFFFF ∧
     ((after (exec (.bindB 1 true) s)).me.faults.map (·.detail)) = [8192] ∧
     ((after (exec (.scl 1) s)).me.faults.map (·.cause)) = [0x12] ∧
     (runAfter (.zacc 1023) s).map (·.busy) = some 127 ∧
     ((after (exec (.anch 0 5) s)).myCore.mx.effects.map (·.cyc)) = [6]) := by decide +kernel

/-- Passes and loops with a count of 1, the greatest and 0, a loop of 0 whose body holds another; `el` at the counts 2 and 1 and
without a loop; `wt` on a clear and a set token; `end` with an effect in flight and without. -/
theorem witness_MicroControlAndArrayCycles :
    (let s := call0 (withP 1 0xFFFFFFFF)
     (runAfter (.pass 0xFFF) s).map (·.passLeft) = some 0xFFF ∧ (runAfter (.passParam 0) s).map (·.passLeft) = some 0 ∧
     (runAfter (.lp 1) s).map (·.loops) = some [(1, 1)] ∧ (runAfter (.lpParam 1) s).map (·.loops) = some [(0xFFFFFFFF, 1)] ∧
     (runAfter .el s).map (·.pc) = some 1 ∧ s.me.rk 5 = false ∧ s.me.rk 0 = true ∧
     runAfter (.wt 5) s = s.myCore.mx.run ∧ (runAfter (.wt 0) s).map (·.pc) = some 1 ∧ (runAfter .tok s).map (·.pc) = some 1 ∧
     (s.myCore.mx.effects.any fun e => e.call == 1) = false ∧ runAfter .mEnd s = none) ∧
    (let s := (call0 id).onMx 0 fun m => { m with store := (m.store.set 1 0x10000001).set 2 0x80000000 }
     (s.myCore.mx.run.map fun r => ((s.myCore.microWord r 1).extractLsb' 28 4, (s.myCore.microWord r 2).extractLsb' 28 4)) =
       some (1, 8) ∧ (runAfter (.lpParam 0) s).map (fun r => (r.pc, r.loops)) = some (3, []) ∧
     (runAfter (.lp 0) s).map (fun r => (r.pc, r.loops)) = some (3, [])) ∧
    (let s := call0 fun r => { r with loops := [(2, 7)], pc := 9 }
     (runAfter .el s).map (fun r => (r.pc, r.loops)) = some (7, [(1, 7)])) ∧
    (let s := call0 fun r => { r with loops := [(1, 7)], pc := 9 }
     (runAfter .el s).map (fun r => (r.pc, r.loops)) = some (10, [])) ∧
    (let s := (call0 id).onMx 0 fun m => { m with effects := [⟨6, 1, 0, 1, .zero 0 1, 0⟩] }
     (s.myCore.mx.effects.any fun e => e.call == 1) = true ∧ (runAfter .mEnd s).isSome = true) := by decide +kernel

/-- A BF16 pass with no A row, with one of another domain before its own, with a held row and held runs, and with a cursor past the
region. -/
theorem witness_MicroControlAndArrayCycles_pass :
    (let s := call0 fun r => { r with fmt := some 0, passLeft := 2, passFirst := true }
     (s.myCore.mx.run.map fun r => (r.hold, r.bstep, r.newScales.length, s.myCore.mx.afeed.length)) = some (false, true, 0, 0) ∧
     (runAfter (.arrayCycle 0) s).map (·.passLeft) = some 2) ∧
    (let s := (call0 fun r => { r with fmt := some 1, passLeft := 1, passFirst := true, astep := true, acur := 1023 }).onMx 0
       fun m => { m with afeed := [⟨2, 0, 7, 9, (0, 0)⟩, ⟨1, 0, 0, 5, (0, 0)⟩] }
     (s.myCore.mx.run.map fun r => ((s.myCore.caller r).dom, s.myCore.runOutside (s.myCore.caller r) 1 0)) = some (0, false) ∧
     (runAfter (.arrayCycle 0) s).map (fun r => (r.passLeft, r.bcur, r.acur, r.arow)) = some (0, 512, 0, 5) ∧
     (after (exec (.arrayCycle 0) s)).myCore.mx.afeed = [⟨2, 0, 7, 9, (0, 0)⟩]) ∧
    (let s := call0 fun r => { r with fmt := some 0, passLeft := 3, hold := true, bstep := false, arow := 6, bcur := 512 }
     (runAfter (.arrayCycle 0) s).map (fun r => (r.passLeft, r.bcur, r.arow)) = some (2, 512, 6)) ∧
    (let s := (call0 fun r => { r with fmt := some 0, passLeft := 1, bcur := 512 }).onMx 0 fun m => { m with afeed := [⟨1, 0, 0, 0, (0, 0)⟩] }
     (s.myCore.mx.run.map fun r => s.myCore.runOutside (s.myCore.caller r) 0 512) = some true ∧
     ((after (exec (.arrayCycle 0) s)).me.faults.map (·.cause)) = [0x12]) := by
  decide +kernel

/-- An effect that lands in a row of core 0. -/
def landed (f : Vector AccRow 1024 → Vector AccRow 1024) (e : AccEffect) : Core :=
  let s := (State.reset.onMx 0 fun m => { m with effects := [⟨6, 1, 0, 1, e, 0⟩] }).onCore 0 fun k => { k with acc := f k.acc }
  (after (exec (.accumulateLand 0) { s with cycle := 6 })).core 0

/-- `zacc` of the last row and the first, `anch` of the first two; an array cycle of BF16, 1.0 × 2.0, onto 5 in a row of the
domain and in a row of another domain. -/
theorem witness_AccumulatorLanding :
    (let k := landed id (.zero 1023 2)
     k.mx.effects = [] ∧ k.acc[1023].dom = some 0 ∧ k.acc[0].dom = some 0 ∧ k.acc[1].dom = none ∧ k.acc[1022].dom = none) ∧
    (let k := landed id (.anchor 0 2 0xFFFF)
     k.acc[1].anchor = 0xFFFF ∧ k.acc[2].anchor = 48) := by decide +kernel

theorem witness_AccumulatorLanding_mac :
    (let e : AccEffect := .mac 3 0 0x3F80 ((Vector.replicate 128 0).set 0 0x4000) (Vector.replicate 128 0)
     let old (d : DomNum) : AccRow := { c := (Vector.replicate 128 0).set 0 5, anchor := 48, dom := some d }
     (landed (fun a => a.set 3 (old 0)) e).acc[3].c[0] = 7 ∧ (landed (fun a => a.set 3 (old 9)) e).acc[3].c[0] = 2 ∧
     (landed (fun a => a.set 3 (old 9)) e).acc[3].c[1] = 0) := by decide +kernel

/-- A load's or a call's queue entry of context 0. -/
def item0 (load : Bool) (e : BitVec 5) : MxItem :=
  { id := 5, ctx := 0, kid := 1, isLoad := load, entry := e, params := Vector.replicate 8 0, kp := 4, fromGrid := false }

/-- The kernel's object with a ROUTIMG section of one routine, entry 31: `fmt 0`, `end`. -/
def withRoutine (s : State) : State :=
  { s with objects := s.objects.map fun o => { o with routs := [{ kern := 0xFFFF, align := 1, bytes :=
      [1, 0, 0, 0, 0, 0, 0, 0, 31, 0, 2, 0, 0, 0, 0, 0, 0, 0, 0, 0x10, 0, 0, 0, 0] }] } }

theorem witness_RoutineLoadsAndCalls :
    (let s := withRoutine ((ctx0 id).onMx 0 fun m => { m with queue := [item0 true 31] })
     s.myCore.mx.loading = none ∧ s.myCore.mx.run = none ∧ s.myCore.mx.resumed = [] ∧
     s.routine? s.me 31 = some { entry := 31, words := [0x10000000, 0] } ∧ scanRoutine {} 0 [0x10000000, 0] = none ∧
     (after (exec (.routineLoad 0) s)).myCore.mx.loading = some (item0 true 31, 42)) ∧
    (let s := { withRoutine ((ctx0 id).onMx 0 fun m => { m with loading := some (item0 true 31, 42) }) with cycle := 42 }
     (after (exec (.routineLoad 0) s)).me.entryValid = 0x80000000) ∧
    (let s := (ctx0 id).onMx 0 fun m => { m with queue := [item0 false 31] }
     s.me.entryValid.getLsbD 31 = false ∧ ((after (exec (.routineCallStart 0) s)).me.faults.map (·.cause)) = [0x11]) ∧
    (let s := (ctx0 fun x => { x with entryValid := 1 }).onMx 0 fun m => { m with queue := [item0 false 0] }
     s.me.entryValid.getLsbD 0 = true ∧ (runAfter (.routineCallStart 0) s).isSome = true) := by decide +kernel

/-- A configuration image of one tile and one empty word with END (R180). -/
def image0 : List Byte := [128, 0, 0, 0, 1, 0, 1, 0] ++ List.replicate 119 0 ++ [0x80]

/-- The grid of core 0 changed. -/
def grid0 (f : Grid → Grid) (s : State) : State := s.onGrid 0 f

/-- Context 0 with an object whose configuration image is `b`, and a command at the head of the grid queue. -/
def queued0 (op : GridOp) (b : List Byte) : State :=
  let s := grid0 (fun g => { g with owner := some 0, queue := [⟨5, 0, 4, op⟩] }) (ctx0 fun x => { x with kOwner := x.kOwner.set 4 5 })
  { s with objects := s.objects.map fun o => { o with grids := [{ kern := 0, align := 1, bytes := b }] } }

/-- A free grid with a waiting context; a `grel` and a change of domain at the head; a `gset` of constant 3 and of the seed; a
`grun`, and one that ticks behind a tick; a `gcfg` taken, refused and loaded. -/
theorem witness_GridTakesCommands :
    (let s := ctx0 fun x => { x with gacqAt := some 3 }
     s.myCore.grid.owner = none ∧ s.myCore.nextOwner = some 0 ∧ s.myCore.grid.queue = [] ∧
     (after (exec (.gridGrant 0) s)).myCore.grid.grant = some 0) ∧
    (queued0 .rel []).myCore.grid.idle = true ∧ (after (exec (.gridGrant 0) (queued0 .rel []))).myCore.grid.queue = [] ∧
    (let s := grid0 (fun g => { g with params := g.params.set 7 9 }) (queued0 (.clear 63) [])
     s.myCore.grid.dom ≠ some 63 ∧ (after (exec (.gridGrant 0) s)).myCore.grid.dom = some 63 ∧
     (after (exec (.gridGrant 0) s)).myCore.grid.params[7] = 0) ∧
    (let s := grid0 (fun g => { g with ticking := true }) (queued0 (.run 2) [])
     let s := s.setMe { s.me with tick := some ⟨6, 0⟩ }
     (s.myCore.gridHead.map (·.1.id)) = some 5 ∧ (after (exec (.grunStart 0) s)).myCore.grid.run = none) ∧
    (let s := queued0 (.set 31 3 0x100000009) []
     (s.myCore.gridHead.map (·.1.id)) = some 5 ∧
     (after (exec (.gsetApply 0) s)).myCore.grid.tiles[31].q[3] = 9 ∧ (after (exec (.gsetApply 0) s)).me.rk 4 = true) ∧
    (let s := queued0 (.set 0 4 7) []
     (s.myCore.gridHead.map (·.1.id)) = some 5 ∧ (after (exec (.gsetApply 0) s)).myCore.grid.tiles[0].seed = 7) ∧
    (let s := queued0 (.run 2) []
     (s.myCore.gridHead.map (·.1.id)) = some 5 ∧
     ((after (exec (.grunStart 0) s)).myCore.grid.run.map (·.left)) = some 2) ∧
    (let s := queued0 (.cfg 0 [] (Vector.replicate 64 none)) image0
     s.myCore.grid.loading = none ∧ gcfgRefused s.me (Vector.replicate 64 none) 0 (imageFrom 0 (s.gridBytes s.me)) = none ∧
     ((after (exec (.configurationLoad 0) s)).myCore.grid.loading.map (·.2)) = some 202) ∧
    (let s := queued0 (.cfg 1 [] (Vector.replicate 64 none)) image0
     gcfgRefused s.me (Vector.replicate 64 none) 1 (imageFrom 1 (s.gridBytes s.me)) = some (0x0E, 0x1000000000000) ∧
     ((after (exec (.configurationLoad 0) s)).me.faults.map (·.cause)) = [0x0E]) ∧
    (let s := grid0 (fun g => { g with queue := [], loading := some (⟨5, 0, 4, .cfg 0 [] (Vector.replicate 64 none)⟩, 202) })
       { queued0 (.run 1) image0 with cycle := 202 }
     imgTiles image0 = 1 ∧ imgTileNo image0 0 = 0 ∧ imgPeriod image0 = 1 ∧
     (after (exec (.configurationLoad 0) s)).myCore.grid.loading = none ∧
     (after (exec (.configurationLoad 0) s)).myCore.grid.tiles[0].mem[0] = BitVec.ofNat 96 (2 ^ 95) ∧
     (after (exec (.configurationLoad 0) s)).me.rk 4 = true) := by decide +kernel

/-- Images refused: one shorter than its header, one with a period of 0, one whose tap is unplanned, one that reads at lag 0 what it
writes, one that writes a signal that the CP has; the bindings of a refused one come back. -/
theorem witness_GridTakesCommands_refused :
    (let refused (b : List Byte) (old : Vector (Option Binding) 64) (f : Ctx → Ctx) : List (BitVec 8 × Word) :=
       let s := queued0 (.cfg 0 [(3, .unbound)] old) b
       let s := s.setMe (f s.me)
       ((after (exec (.configurationLoad 0) s)).me.faults.map fun f => (f.cause, f.detail))
     let none64 : Vector (Option Binding) 64 := Vector.replicate 64 none
     let tap : List Byte := image0.set 8 0 |>.set 9 6 |>.set 11 0x80
     let both : List Byte := tap.set 72 3 |>.set 73 0x80
     let sig3 (x : Ctx) : Ctx := x.setSig 3 (some (sig1 3 .grid 0 [{}, {}, {}]))
     refused (image0.take 95) none64 id = [(0x0E, 0)] ∧ imageRefused (image0.set 4 0) = some 0 ∧
     refused (image0.set 4 0) none64 id = [(0x0E, 0)] ∧ imageRefused tap = none ∧ refused tap none64 id = [(0x26, 0)] ∧
     imageRefused both = none ∧ refused both none64 sig3 = [(0x27, 0)] ∧
     refused (image0.set 72 3 |>.set 73 0x80) (none64.set 3 (some .cp)) sig3 = [(0x26, 16)] ∧
     (let s := queued0 (.cfg 0 [(3, .unbound)] none64) (image0.take 95)
      let s := s.setMe (sig3 s.me)
      s.myCore.grid.loading = none ∧
      ((after (exec (.configurationLoad 0) s)).me.sig 3).map (·.bind) = some .unbound)) := by decide +kernel

/-- A running `grun` of context 0, its tile 0 with a word of one move. -/
def run0 (period : Nat) (atEnd : Bool) (w : BitVec 96) (f : Ctx → Ctx) : State :=
  grid0 (fun g => { g with
    owner := some 0, period := period, tiles := g.tiles.set 0 { mem := (Vector.replicate 64 0).set 0 w }
    run := some { id := 5, ctx := 0, kp := 4, left := 1, ord := 0, word := 0, tapCur := Vector.replicate 16 0,
                  outCur := Vector.replicate 8 0, flags := 0, endWait := false, atEnd := atEnd } })
    (ctx0 fun x => f { x with kOwner := x.kOwner.set 4 5 })

/-- A word that waits for a tap, an empty word, a write of an out port of an unplanned signal, the end of a run. -/
theorem witness_GridRuns :
    (let s := run0 2 false (0x44 <<< 15) fun x => x.setSig 0 (some (sig1 0 .cp 0 [{}, {}, {}]))
     s.me.leaving = false ∧ (s.myCore.grid.run.map fun r => s.myCore.frozen s.me (s.myCore.grid.words r)) = some true ∧
     ((after (exec (.gridWord 0) s)).myCore.grid.run.map (·.word)) = some 0) ∧
    (let s := run0 2 false 0 id
     (s.myCore.grid.run.map fun r => (s.myCore.frozen s.me (s.myCore.grid.words r),
       s.myCore.grid.wordFault s.me (s.myCore.grid.words r))) = some (false, none) ∧
     ((after (exec (.gridWord 0) s)).myCore.grid.run.map (·.word)) = some 1) ∧
    (let s := run0 2 false ((1 <<< 15) + (0x44 <<< 8)) id
     (s.myCore.grid.run.map fun r => (s.myCore.frozen s.me (s.myCore.grid.words r),
       s.myCore.grid.wordFault s.me (s.myCore.grid.words r))) = some (false, some (0x25, 0)) ∧
     ((after (exec (.gridWord 0) s)).me.faults.map (·.cause)) = [0x25]) ∧
    (let s := run0 1 true 0 id
     s.myCore.grid.tiles.all (fun t => t.ops.isEmpty && t.att.isEmpty) = true ∧
     (after (exec (.grunPerform 0) s)).myCore.grid.run = none ∧ (after (exec (.grunPerform 0) s)).me.rk 4 = true ∧
     isNext (exec (.landingAfterLastEnd 0) s) = true) := by decide +kernel

/-- The ends of iterations: without a tick, with a tick, with one that waits, with a tick past the limit of speculation; a run after
its last END, which takes no word. -/
theorem witness_GridRuns_ends :
    (let s := run0 1 false 0 id
     (after (exec (.gridWord 0) s)).myCore.grid.run.map (·.atEnd) = some true ∧ (after (exec (.gridWord 0) s)).me.now = 0) ∧
    (let s := grid0 (fun g => { g with ticking := true }) (run0 1 false 0 id)
     s.me.tickOverflow = none ∧ s.me.tickWaits = false ∧ (after (exec (.gridWord 0) s)).me.now = 1) ∧
    (let s := grid0 (fun g => { g with ticking := true }) (run0 1 false 0 fun x => x.setSig 2 (some (sig1 2 .stream 0 [{}, {}, {}])))
     s.me.tickOverflow = none ∧ s.me.tickWaits = true ∧
     (after (exec (.gridWord 0) s)).myCore.grid.run.map (·.endWait) = some true) ∧
    (let s := grid0 (fun g => { g with ticking := true }) (run0 1 false 0 fun x => { x with specd := 1, now := 1 })
     s.me.tickOverflow.isSome = true ∧ (after (exec (.gridWord 0) s)).me.faults.map (·.cause) = [0x28]) ∧
    (let s := run0 1 true 0 id
     (after (exec (.gridWord 0) s)).myCore.grid.run = s.myCore.grid.run) := by decide +kernel

/-- A run of two words whose first has one move, in tile 9, under guard `gd`: tap 0 and out port 1 of the tile's row are bound to
signals 2 and 3. -/
def moved (gd src dst op rnd : Nat) : State :=
  let w : BitVec 96 := BitVec.ofNat 96 (gd * 2 ^ 92 + src * 2 ^ 15 + dst * 2 ^ 8 + op * 8 + rnd)
  let s := run0 2 false 0 fun x => (x.setSig 2 (some (sig1 2 .cp 0 [{ st := .full, data := [rowOf 3] }, {}, {}]))).setSig 3
    (some (sig1 3 .grid 0 [{}, {}, {}]))
  grid0 (fun g => { g with
    tapb := g.tapb.set 4 0x80000400, outb := g.outb.set 3 0x8003
    ports := g.ports.set 0 { rows := [⟨0, rowOf 6, true, 0, none, (0, 0)⟩] }
    tiles := g.tiles.set 9 { v := (Vector.replicate 8 0).set 0 (rowOf 0x80000001), g := #v[1, 2], q := #v[0, 0, 0, 100]
                             aluO := rowOf 0x80000001, mulO := rowOf 2, mulC := rowOf 5, attO := rowOf 0x08000000, shfO := rowOf 1
                             mem := (Vector.replicate 64 0).set 0 w } }) s

/-- Whether a state's next grid word is one move of tile 9 under a guard, with its effects due. -/
def moveGoes (s : State) (gd src dst op rnd : Nat) : Bool :=
  let k := s.myCore
  match k.grid.run with
  | none => false
  | some r => k.grid.words r == [⟨9, BitVec.ofNat 2 gd, [⟨src, dst, op, BitVec.ofNat 3 rnd⟩]⟩] &&
      k.grid.tiles.all (fun t => t.ops.isEmpty) && !r.atEnd && !r.endWait && !s.quiescing s.cur &&
      !k.frozen s.me (k.grid.words r) && k.grid.wordFault s.me (k.grid.words r) == none && decide (r.word + 1 < k.grid.period)

/-- The tile and the core after the move. -/
def moveTile (gd src dst op rnd : Nat) : Tile := (after (exec (.gridWord 0) (moved gd src dst op rnd))).myCore.grid.tiles[9]

/-- A word of one move: every kind of source, and every kind of destination, with and without a guard. -/
theorem witness_GridRuns_moves :
    ([(0, 0x00, 0x01), (1, 0x01, 0x08), (2, 0x0C, 0x0E), (0, 0x0D, 0x0D), (0, 0x0F, 0x02), (0, 0x1F, 0x2F), (0, 0x20, 0x10),
      (1, 0x40, 0x40), (0, 0x41, 0x41), (0, 0x42, 0x42), (0, 0x43, 0x43), (0, 0x44, 0x01), (0, 0x48, 0x01), (0, 0x60, 0x60),
      (0, 0x61, 0x61), (0, 0x63, 0x62), (0, 0x64, 0x63), (0, 0x65, 0x65), (0, 0x01, 0x00), (1, 0x01, 0x45), (0, 0x01, 0x48),
      (1, 0x01, 0x4B), (2, 0x01, 0x4B), (1, 0x01, 0x57), (2, 0x01, 0x50), (1, 0x01, 0x58), (2, 0x01, 0x58)].all
      fun (gd, src, dst) => moveGoes (moved gd src dst 0 0) gd src dst 0 0) = true := by
  decide +kernel

theorem witness_GridRuns_values :
    laneOf (moveTile 0 0x44 0x08 0 0).v[7] 5 = 3 ∧ laneOf (moveTile 0 0x48 0x08 0 0).v[7] 5 = 6 ∧
    laneOf (moveTile 1 0x44 0x01 0 0).v[0] 0 = 3 ∧ laneOf (moveTile 1 0x44 0x01 0 0).v[0] 1 = 0x80000001 ∧
    (moveTile 0 0x0F 0x01 0 0).cnt = 1 ∧
    (after (exec (.gridWord 0) (moved 1 0x01 0x50 0 0))).myCore.grid.params[0] = 0x80000001 ∧
    (after (exec (.gridWord 0) (moved 2 0x01 0x50 0 0))).myCore.grid.params[0] = 0 ∧
    (after (exec (.gridWord 0) (moved 0 0x01 0x58 0 0))).myCore.mx.queue.map (·.entry) = [1] ∧
    (after (exec (.gridWord 0) (moved 0 0x01 0x48 0 0))).myCore.mx.afeed.map (·.row) = [rowOf 0x80000001] ∧
    (after (exec (.gridWord 0) (moved 0 0x01 0x4B 0 0))).myCore.grid.ports[1].reqs.map (·.row) = [1] ∧
    ((after (exec (.gridWord 0) (moved 0 0x01 0x45 0 0))).me.sig 3).map (fun g => laneOf ((g.slot 0).data.getD 0 0) 63) =
      some 0x80000001 := by decide +kernel

/-- A trigger of each unit: ALU, MUL, floating and SLI. -/
theorem witness_GridRuns_units :
    ([(0x68, 0, 0), (0x69, 29, 0), (0x6A, 2, 0), (0x6D, 6, 0), (0x6F, 5, 0), (0x6B, 0, 0), (0x6C, 1, 1), (0x70, 0, 0), (0x71, 1, 4),
      (0x74, 0, 0), (0x74, 3, 0)].all fun (dst, op, rnd) => moveGoes (moved 0 0x01 dst op rnd) 0 0x01 dst op rnd) = true ∧
    ((moveTile 0 0x01 0x6A 2 0).ops.map fun o => (o.kind == .alu, o.rem, o.rows.map (laneOf · 0), o.flags == fSAT)) =
      [(true, 1, [0x80000000], true)] ∧
    ((moveTile 0 0x01 0x6F 4 0).ops.map fun o => (o.kind == .mul, o.rem, o.rows.map (laneOf · 0))) = [(true, 3, [7])] ∧
    ((moveTile 0 0x01 0x74 3 0).ops.map fun o => (o.kind == .shfRow, o.rem, o.rows.map (laneOf · 63))) = [(true, 2, [64])] := by
  decide +kernel

theorem witness_GridRuns_attar :
    ([(0x72, 7, 0), (0x72, 12, 0), (0x73, 13, 0), (0x73, 18, 0)].all fun (dst, op, rnd) =>
      moveGoes (moved 0 0x01 dst op rnd) 0 0x01 dst op rnd) = true ∧
    ((moveTile 0 0x01 0x72 13 0).att.map fun a => (laneOf a.res 0, a.done)) = [(0, 3)] ∧
    ((moveTile 0 0x01 0x72 12 0).att.map fun a => (laneOf a.res 0, (a.idx.map (laneOf · 7)))) =
      [(0x08000000, some 0)] := by decide +kernel

/-- An operation of each unit that is to land in one cycle, and in two. -/
theorem witness_GridRuns_landing :
    (let o (k : UnitKind) (n : Nat) : UnitOp := { kind := k, rem := n, mask := 1, rows := [rowOf 7], flags := fSAT }
     let t : Tile := { aluR := rowOf 2 }
     laneOf (({ t with ops := [o .alu 1] } : Tile).landCycle.1).aluR 0 = 7 ∧
     laneOf (({ t with ops := [o .alu 1] } : Tile).landCycle.1).aluR 1 = 2 ∧
     laneOf (({ t with ops := [o .mul 1] } : Tile).landCycle.1).mulR 0 = 7 ∧
     laneOf (({ t with ops := [o .shfRow 1] } : Tile).landCycle.1).shfR 0 = 7 ∧
     ({ t with ops := [o .mul 2] } : Tile).landCycle.2 = 0) := by decide +kernel

/-- `moved` with the tile changed. -/
def movedIn (f : Tile → Tile) (src dst op rnd : Nat) : State :=
  grid0 (fun g => { g with tiles := g.tiles.set 9 (f g.tiles[9]) }) (moved 0 src dst op rnd)

/-- A tile whose v0 and frame 0 hold `a` in every lane, the latches `b`, and mul.c `c`. -/
def operands (a b c : Lane) (t : Tile) : Tile :=
  { t with v := t.v.set 0 (rowOf a), f := t.f.set 0 (Vector.replicate 16 (rowOf a)), aluO := rowOf b, mulO := rowOf b, attO := rowOf b,
           shfO := rowOf b, mulC := rowOf c }

/-- Whether a move of v0, or of row 3 of frame 0 for a column operation, to a unit goes on, and the lanes `l` of its result and its
flags. -/
def unitGives (a b c : Lane) (dst op rnd l : Nat) : Bool × List Lane × List FlagSet :=
  let src := if dst = 0x75 then 0x13 else 1
  let s := movedIn (operands a b c) src dst op rnd
  let t := (after (exec (.gridWord 0) s)).myCore.grid.tiles[9]
  (moveGoes s 0 src dst op rnd, t.ops.flatMap (fun o => o.rows.map (laneOf · l)) ++ t.att.map (fun a => laneOf a.res l),
    t.ops.map (·.flags) ++ t.att.map (·.flags))

/-- Operations of every family on operands worked out by hand: FP minimum with a NaN, a compare, BF16 addition, `fms` and `fnma`
(R192 to R195); `mulq` of −1 by −1, which saturates (R194); conversions of each kind (R196); a sum, a maximum with its index and a
running sum along a row, a sum and a running sum along a column (R209). -/
theorem witness_GridRuns_results :
    ([((0x3F800000, 0x7FC00001, 0), 0x6C, 2, 0, 5, [0x7FC00000], 0),
      ((0x3F800000, 0x40000000, 0), 0x6C, 10, 0, 5, [0xFFFFFFFF], 0),
      ((0x3F803F80, 0x3F803F80, 0), 0x6B, 0, 0, 5, [0x40004000], 0),
      ((0x3FC00000, 0x40000000, 0x3F800000), 0x71, 2, 0, 5, [0x40000000], 0),
      ((0x3FC00000, 0x40000000, 0x3F800000), 0x71, 3, 0, 5, [0xC0000000], 0),
      ((0x80000000, 0x80000000, 0), 0x6F, 7, 0, 5, [0x7FFFFFFF], fSAT),
      ((3, 0, 0), 0x6F, 16, 0, 5, [0x40400000], 0),
      ((0x3FC00000, 0, 0), 0x71, 17, 0, 5, [2], fNX),
      ((0x00FF0080, 0, 0), 0x6E, 18, 0, 5, [0x7F7F7F7F], fSAT),
      ((0x3F800000, 0, 0), 0x74, 4, 0, 5, [0x42800000], 0),
      ((7, 0, 0), 0x74, 9, 0, 40, [0], 0),
      ((1, 0, 0), 0x74, 12, 0, 62, [63], 0),
      ((1, 0, 0), 0x75, 2, 0, 62, [16], 0),
      ((1, 0, 0), 0x75, 8, 0, 62, [1, 2, 3, 4, 5, 6, 7, 8, 9, 10, 11, 12, 13, 14, 15, 16], 0),
      ((0x3F800000, 0, 0), 0x72, 24, 0, 62, [0x08000000], 0),
      ((0x80000000, 0, 0), 0x72, 20, 0, 62, [0x7FC00000], 0),
      ((0x3F803F80, 0, 0), 0x73, 24, 0, 62, [0x08000800], 0)].all
      fun ((a, b, c), dst, op, rnd, l, lanes, flags) => unitGives a b c dst op rnd l == (true, lanes, [flags])) = true := by
  decide +kernel

/-- Operands of which each operation draws (RND 5), and a column operation that lands, in a frame and in `shf.r`; the flags that a
readout's caller is owed enter as the iteration ends. -/
theorem witness_GridRuns_columns :
    (unitGives 0x40000001 0x40000000 0 0x6F 7 5 5).1 = true ∧ (unitGives 1 0 0 0x75 0 0 0).1 = true ∧
    (let o (k : UnitKind) (n : Nat) : UnitOp := { kind := k, rem := 1, mask := 1, rows := List.replicate n (rowOf 7), flags := fSAT }
     let a := (({ ops := [o (.shfCol (some 1)) 16] } : Tile).landCycle)
     laneOf a.1.f[1][15] 0 = 7 ∧ laneOf a.1.f[1][15] 1 = 0 ∧ a.2 = fSAT ∧
     laneOf (({ ops := [o (.shfCol none) 1] } : Tile).landCycle).1.shfR 0 = 7) ∧
    (let s := grid0 (fun g => { g with run := g.run.map fun r => { r with owed := [(1, 1, fNX), (1, 2, fSAT)] } }) (run0 1 false 0 id)
     let s := s.setCtx ⟨0, 1⟩ { s.ctx ⟨0, 1⟩ with live := true, kid := 1 }
     (s.ctx ⟨0, 1⟩).flags = 0 ∧ ((after (exec (.gridWord 0) s)).ctx ⟨0, 1⟩).flags = fNX) := by decide +kernel

/-- An Attar operation at its cycle; a readout request that waits for no call; a row that is due. -/
theorem witness_AttarAndReadouts :
    (let s := { grid0 (fun g => { g with tiles := g.tiles.set 31 { att := [⟨7, rowOf 3, none, 1, 0⟩], attR := rowOf 2 } })
       (ctx0 id) with cycle := 7 }
     laneOf (after (exec (.attarComplete 0 31) s)).myCore.grid.tiles[31].attR 0 = 3 ∧
     laneOf (after (exec (.attarComplete 0 31) s)).myCore.grid.tiles[31].attR 1 = 2 ∧
     (after (exec (.attarComplete 0 31) s)).myCore.grid.tiles[31].att = []) ∧
    (let q : ReadReq := ⟨1023, 4, 0, 0, [], 0, 0⟩
     let s := grid0 (fun g => { g with ports := g.ports.set 1 { reqs := [q] } }) (ctx0 id)
     q.waiting s.openCalls = false ∧ ((after (exec (.readoutSnapshot 0 1) s)).myCore.grid.ports[1].coming.map (·.cyc)) =
       [8, 9]) ∧
    (let r : ReadRow := ⟨8, rowOf 5, true, 0, none, (0, 0)⟩
     let s := { grid0 (fun g => { g with ports := g.ports.set 0 { coming := [r] } }) (ctx0 id) with cycle := 8 }
     (after (exec (.readoutRowDeliver 0 0) s)).myCore.grid.ports[0].rows = [r]) := by decide +kernel

/-! ### Witnesses: engines and what comes between a context and the rest of its core -/

/-- A stream or Yarrow command of context 0 on signal 2, number 5, token k4. -/
def cmd0 (kind : StreamKind) (r : Vector Word 12) (b : Word) : StreamCmd :=
  { id := 5, ctx := 0, kind := kind, kp := 4, sig := 2, pos := 0, rec1 := r, rec2 := r, a := 0, b := b, oor := 0, red := 0,
    distinct := false, weighted := false, adv := 0, ixAdv := 0, ixAdv2 := 0, ix := none, ix2 := none, taken := true,
    effective := true, held := false, j := 0, e := 0, susp := none, retry := false, word := 0, ext := 0 }

/-- An engine of core 0 with a queue and a current command; context 0 holds token k4 for command 5, and domain 0 is mapped. -/
def engine0 (e : Fin 6) (eng : Engine) (f : Ctx → Ctx := id) : State :=
  mapped ((ctx0 fun x => f { x with kOwner := x.kOwner.set 4 5 }).onCore 0 fun k =>
    { k with engines := k.engines.set e.val eng e.isLt })

/-- The record with IXEN, index signal 2. -/
def ixRec : Vector Word 12 := ((rec1 1 0x10000 1 1).set 1 0x0120800000000000).set 10 0x0000000200000000

/-- The head of a queue, held and not held; a suspended command, to retry and not; an index sample, readable and not. -/
theorem witness_EnginesServeTheirQueues :
    (let q := { cmd0 .sload (rec1 1 0x10000 1 1) 0 with taken := false }
     let s := engine0 5 { queue := [q] }
     (s.engine 0 5).current = none ∧ ((s.engine 0 5).queue.all fun c => !c.isDrain || c.effective) = true ∧
     ((after (exec (.streamCommandTake 0 5) s)).engine 0 5).current = some { q with taken := true } ∧
     ((after (exec (.streamCommandTake 0 5) (engine0 5 { queue := [{ q with held := true }] }))).engine 0 5).current =
       none) ∧
    (let q := { cmd0 .sload (rec1 1 0x10000 1 1) 0 with susp := some (0x50, 0x10000), retry := true }
     ((after (exec (.streamRetry 0 0) (engine0 0 { current := some q }))).engine 0 0).current =
       some { q with susp := none, retry := false }) ∧
    (let q := cmd0 .sload ixRec 0
     let s := engine0 0 { current := some q } fun x => x.setSig 2 (some (sig1 2 .cp 0 [{ st := .full, data := [3] }, {}, {}]))
     (recOf q.rec1).ixen = true ∧ (recOf q.rec1).ixsig = 2 ∧
     ((s.me.sig 2).map (·.readable 0)) = some true ∧
     (((after (exec (.indexLookup 0 0) s)).engine 0 0).current.bind (·.ix)).isSome = true) ∧
    (let s := engine0 0 { current := some (cmd0 .sload ixRec 0) } fun x => x.setSig 2 (some (sig1 2 .cp 0 [{}, {}, {}]))
     ((s.me.sig 2).map (·.readable 0)) = some false) := by decide +kernel

/-- Whether a result is a value that passes a test. -/
def okThat {ε α : Type} (r : Except ε α) (p : α → Bool) : Bool :=
  match r with
  | .ok a => p a
  | .error _ => false

/-- Whether a result is a given error. -/
def isError {ε α : Type} [DecidableEq ε] (r : Except ε α) (f : ε) : Bool :=
  match r with
  | .ok _ => false
  | .error g => g == f

/-- The current command of an engine of core 0 after an event. -/
def current (e : Fin 6) (i : Instr) (s : State) : Option StreamCmd := ((after (exec i s)).engine 0 e).current

/-- A drain whose unit no mapping holds: held against its context at once; while an earlier unit of it is in flight it waits for that,
and a later one is discarded. -/
theorem witness_EnginesServeTheirQueues_suspension :
    (let q := { cmd0 .sstore (rec1 1 0x20000 2 2) 0 with e := 1 }
     let s := engine0 4 { current := some q } fun x => { x.setSig 2 (some (sig1 2 .cp 0 [{ st := .full, data := [9], past := true }, {}, {}]))
       with nowc := 1 }
     s.working 0 4 = some q ∧ s.me.drainReady q = true ∧ q.reqs = [] ∧ (s.engine 0 4).sent = [] ∧
     isError (s.unitDest 0 s.me.dom (recOf q.rec1) 0 [] 0 1 none) (0x50, 0x20000) = true ∧
     (current 4 (.drainSample 0 4) s).map (·.susp) = some (some (0x50, 0x20000)) ∧
     (let w (u : Nat) : Posted := { inFlight .store 0 0 .none false with eng := some 4, cmd := 5, ord := u }
      let s := { s with posted := [w 0, w 2] }
      (current 4 (.drainSample 0 4) s).map (fun c => (c.susp, c.fail)) = some (none, some (1, 0x50, 0x20000)) ∧
      (after (exec (.drainSample 0 4) s)).posted = [w 0])) := by decide +kernel

/-- A fill's unit translated, read, and entered as the sample; a unit outside the tensor. -/
theorem witness_FillsWriteSamples :
    (let f : Ctx → Ctx := fun x => x.setSig 2 (some (sig1 2 .stream 0 [{}, {}, {}]))
     let q := cmd0 .sload (rec1 1 0x10000 1 1) 0
     let s := { engine0 0 { current := some q } f with mem := [(0, 7)] }
     let u : UnitReq := ⟨0, 0, 0x10000, [(0, 1)], none, 0⟩
     let q1 := { q with e := 1, reqs := [u] }
     let s1 := s.setCurrent 0 0 (some q1)
     let q2 := { q with e := 1, got := [(0, [7])] }
     let s2 := s.setCurrent 0 0 (some q2)
     s.working 0 0 = some q ∧ ((s.me.sig 2).map (·.fillMeets q.fillSample)) = some .ok ∧ s.readsNow q = false ∧
     (recOf q.rec1).winUnits = 1 ∧ (recOf q.rec1).windows = 1 ∧
     okThat (s.unitSrc 0 q.ctx (recOf q.rec1) 0 [] 0 0 none) (fun v => v.bytes == none && v.va == u.va && v.src == u.src) = true ∧
     (current 0 (.fillWindow 0 0) s).map (fun c => (c.e, c.reqs.map (·.va))) = some (1, [0x10000]) ∧
     s1.nextReq q1 = some u ∧ isOk (s1.readReq 0 q1 (fun _ => .core 0) u) [7] = true ∧
     (current 0 (.fillWindow 0 0) s1).map (fun c => (c.reqs.length, c.got)) = some (0, [(0, [7])]) ∧
     ((after (exec (.fillWindow 0 0) s2)).me.sig 2).map (fun g => ((g.slot 0).st, (g.slot 0).data)) = some (.full, [7]) ∧
     (after (exec (.fillWindow 0 0) s2)).me.rk 4 = true) := by decide +kernel

/-- The first of two windows; a unit outside the tensor, which is FILL; a gathered sample past the lead, which waits. -/
theorem witness_FillsWriteSamples_more :
    (let f : Ctx → Ctx := fun x => x.setSig 2 (some (sig1 2 .stream 0 [{}, {}, {}]))
     let q := { cmd0 .sload (rec1 1 0x10000 2 1) 0 with e := 1, got := [(0, [7])] }
     (recOf q.rec1).windows = 2 ∧
     (current 0 (.fillWindow 0 0) (engine0 0 { current := some q } f)).map (fun c => (c.j, c.e)) = some (1, 0)) ∧
    (let f : Ctx → Ctx := fun x => x.setSig 2 (some (sig1 2 .stream 0 [{}, {}, {}]))
     let q := { cmd0 .sload (rec1 1 0x10000 1 2) 0 with e := 1 }
     let s := engine0 0 { current := some q } f
     okThat (s.unitSrc 0 q.ctx (recOf q.rec1) 0 [] 0 1 none) (fun v => v.bytes.isSome) = true ∧
     (current 0 (.fillWindow 0 0) s).map (fun c => (c.e, c.got.length)) = some (2, 1)) ∧
    (let f : Ctx → Ctx := fun x => x.setSig 2 (some (sig1 2 .stream 0 [{}, {}, {}]))
     let q := { cmd0 .sload (rec1 1 0x10000 2 1) 0 with j := 2, e := 1, got := [(0, [7])] }
     let s := engine0 0 { current := some q } f
     ((s.me.sig 2).map (·.fillMeets q.fillSample)) = some .wait ∧ (current 0 (.fillWindow 0 0) s).map (·.j) = some 2) := by
  decide +kernel

/-- A `sstore` of a committed sample inside the tensor; one whose unit is outside it; one whose sample is not committed. -/
theorem witness_DrainsAndCopiesWriteUnits :
    (let f : Ctx → Ctx := fun x => { x.setSig 2 (some (sig1 2 .cp 0 [{ st := .full, data := [9], past := true }, {}, {}])) with nowc := 1 }
     let q := cmd0 .sstore (rec1 1 0x10001 1 1) 0
     let s := engine0 4 { current := some q } f
     s.working 0 4 = some q ∧ s.me.drainReady q = true ∧ q.e + 1 = (recOf q.rec1).winUnits ∧
     okThat (s.unitDest 0 s.me.dom (recOf q.rec1) 0 [] 0 0 none) (fun d => d.1 == some [(1, 1)]) = true ∧
     (after (exec (.drainSample 0 4) s)).posted.map (·.kind) = [.unit [(1, 1)] [9]] ∧
     current 4 (.drainSample 0 4) s = none ∧ ((after (exec (.drainSample 0 4) s)).engine 0 4).sent.map (·.j) = [1]) ∧
    (let f : Ctx → Ctx := fun x => { x.setSig 2 (some (sig1 2 .cp 0 [{ st := .full, data := [9], past := true }, {}, {}])) with nowc := 1 }
     let q := { cmd0 .sstore (rec1 1 0x10001 1 2) 0 with e := 1 }
     let s := engine0 4 { current := some q } f
     s.me.drainReady q = true ∧ okThat (s.unitDest 0 s.me.dom (recOf q.rec1) 0 [] 0 1 none) (fun d => d.1 == none) = true ∧
     (after (exec (.drainSample 0 4) s)).posted = []) ∧
    (let q := cmd0 .sstore (rec1 1 0x10001 1 1) 0
     let s := engine0 4 { current := some q } fun x => x.setSig 2 (some (sig1 2 .cp 0 [{}, {}, {}]))
     s.me.drainReady q = false) := by decide +kernel

/-- A `scopy` from the mapped range to its next byte: the unit translated, read and sent, and the end with a write in flight and
without; a copy of a FILL unit, and one whose destination is outside. -/
theorem witness_DrainsAndCopiesWriteUnits_copies :
    (let q := cmd0 .scopy (rec1 1 0x10000 1 1) 5
     let s := { engine0 0 { current := some q } with mem := [(0, 7)] }
     let u : UnitReq := ⟨0, 0, 0x10000, [(0, 1)], some [(5, 1)], 0⟩
     let q1 := { q with j := 1, reqs := [u] }
     let s1 := s.setCurrent 0 0 (some q1)
     s.working 0 0 = some q ∧ (recOf q.rec1).windows = 1 ∧ s.quiescing s.cur = false ∧
     okThat (s.unitSrc 0 q.ctx (recOf q.rec1) 0 [] 0 0 none) (fun v => v.bytes == none) = true ∧
     okThat (s.copyDest 0 q) (fun d => d.1 == some [(5, 1)]) = true ∧
     (current 0 (.copyUnit 0 0) s).map (fun c => (c.j, c.reqs.map (·.dst))) = some (1, [some [(5, 1)]]) ∧
     isOk (s1.readReq 0 q1 (fun _ => .core 0) u) [7] = true ∧ (recOf q1.rec1).windows ≤ q1.j ∧
     (after (exec (.copyUnit 0 0) s1)).posted.map (·.kind) = [.unit [(5, 1)] [7]] ∧
     (after (exec (.copyUnit 0 0) (s1.setCurrent 0 0 (some { q1 with reqs := [{ u with dst := none }] })))).posted = []) ∧
    (let q := { cmd0 .scopy (rec1 1 0x10000 1 1) 5 with j := 1 }
     let s := engine0 0 { current := some q }
     let w : Posted := { inFlight .store 0 0 .none false with eng := some 0, cmd := 5 }
     s.unitsOut 0 0 5 = false ∧ (after (exec (.copyUnit 0 0) s)).me.rk 4 = true ∧
     State.unitsOut { s with posted := [w] } 0 0 5 = true ∧
     (after (exec (.copyUnit 0 0) { s with posted := [w] })).me.rk 4 = false) ∧
    (let q := { cmd0 .scopy (rec1 1 0x10000 1 2) 5 with e := 1 }
     let s := engine0 0 { current := some q }
     okThat (s.unitSrc 0 q.ctx (recOf q.rec1) 0 [] 0 1 none) (fun v => v.bytes.isSome) = true ∧
     okThat (s.copyDest 0 q) (fun d => d.1 == none) = true) := by decide +kernel

/-- A column word of MXINT4 read into the plane store; a unit in flight that performs. -/
theorem witness_DrainsAndCopiesWriteUnits_words :
    (let q := { cmd0 .sloadPl (rec1 0x10 0x10000 1 1) 64 with j := 1, reqs := [⟨0, 0, 0x10000, [(0, 64)], none, 0⟩] }
     let s := { engine0 0 { current := some q } with mem := [(3, 7)] }
     let b : List Byte := [0, 0, 0, 7] ++ List.replicate 60 0
     s.working 0 0 = some q ∧ ((s.core 0).window? s.me).map (·.plBase) = some 0 ∧ unitSize (recOf q.rec1).fmt = 64 ∧
     isOk (s.readReq 0 q (fun _ => .core 0) ⟨0, 0, 0x10000, [(0, 64)], none, 0⟩) b = true ∧
     (after (exec (.copyUnit 0 0) s)).myCore.plane = [(67, 7)]) ∧
    (let p := inFlight (.unit [(1, 1)] [9]) 1 0 .none false
     let s := { mapped (ctx0 id) with posted := [p] }
     s.posted? 1 = some p ∧ s.strayKey p = false ∧ s.linkDown 1 = false ∧
     (after (exec (.deviceWritePerform 1) s)).mem = [(1, 9)]) := by decide +kernel

/-- A unit that comes after an earlier one of its command to the same byte, and that earlier one. -/
theorem witness_DrainsAndCopiesWriteUnits_order :
    let p := { inFlight (.unit [(1, 1)] [9]) 1 0 .none false with eng := some 0, cmd := 5, id := 2, ord := 1 }
    let o := { inFlight (.unit [(1, 1)] [8]) 1 0 .none false with eng := some 0, cmd := 5 }
    let s := { mapped (ctx0 id) with posted := [o, p] }
    s.posted? 2 = some p ∧ s.unitBehind p [(1, 1)] = true ∧ (after (exec (.deviceWritePerform 2) s)).posted = s.posted ∧
    s.posted? 1 = some o ∧ s.unitBehind o [(1, 1)] = false ∧ s.strayKey o = false ∧ (s.engine 0 0).cmds = [] ∧
    (after (exec (.deviceWritePerform 1) s)).mem = [(1, 8)] := by decide +kernel

/-- Signal 2, to be filled. -/
def fill2 (x : Ctx) : Ctx := x.setSig 2 (some (sig1 2 .stream 0 [{}, {}, {}]))

/-- A `sgather` of two indices: index 1 past the table's one row, index 0, and its row's unit, and its item full; a `sreduce`. -/
theorem witness_YarrowResults :
    (let q := { cmd0 .sgather (rec1 1 0x10100 1 1) 2 with a := 0x10000 }
     let s := { engine0 0 { current := some q } fill2 with mem := [(0, 1), (0x100, 7)] }
     s.working 0 0 = some q ∧ q.count = 2 ∧
     okThat (s.listEntry 0 q 0) (fun r => r.1 == (.skip, 0)) = true ∧ okThat (s.listEntry 0 q 1) (fun r => r.1 == (.row 0, 0)) = true ∧
     (current 0 (.yarrowGather 0 0) s).map (·.entry) = some (some (.skip, 0)) ∧
     (let q1 := { q with entry := some (.skip, 0) }
      (current 0 (.yarrowGather 0 0) (s.setCurrent 0 0 (some q1))).map (fun c => (c.j, c.made)) = some (1, 0)) ∧
     (let q1 := { q with entry := some (.row 0, 0) }
      (recOf q1.rec1).itemUnits = 1 ∧
      okThat (s.rowUnit 0 q1 (.row 0) 0 0 none) (fun v => v.bytes == none && v.src == [(0x100, 1)]) = true ∧
      (current 0 (.yarrowGather 0 0) (s.setCurrent 0 0 (some q1))).map (fun c => (c.e, c.reqs.length)) = some (1, 1)) ∧
     (let q1 := { q with entry := some (.row 0, 0), e := 1, got := [(0, [7])] }
      let s1 := s.setCurrent 0 0 (some q1)
      q1.itemFull = true ∧ (current 0 (.yarrowGather 0 0) s1).map (fun c => (c.j, c.made)) = some (1, 1) ∧
      ((after (exec (.yarrowGather 0 0) s1)).me.sig 2).map (fun g => (g.slot 0).data) = some [7])) := by decide +kernel

theorem witness_YarrowResults_pools :
    (let q := { cmd0 .sreduce (rec1 1 0x10100 1 1) 2 with a := 0x10000 }
     let s := { engine0 0 { current := some q } fill2 with mem := [(0, 1), (0x100, 7)] }
     s.working 0 0 = some q ∧ ((s.me.sig 2).map (·.fillMeets q.fillSample)) = some .ok ∧
     (current 0 (.yarrowPool 0 0) s).map (·.entry) = some (some (.skip, 0)) ∧
     (let q1 := { q with entry := some (.skip, 0) }
      q1.counts .skip = false ∧ (current 0 (.yarrowPool 0 0) (s.setCurrent 0 0 (some q1))).map (fun c => (c.j, c.pool.length)) =
        some (1, 0)) ∧
     (let q1 := { q with entry := some (.row 0, 0), e := 1, got := [(0, [7])] }
      q1.counts (.row 0) = true ∧ q1.itemFull = true ∧
      (current 0 (.yarrowPool 0 0) (s.setCurrent 0 0 (some q1))).map (fun c => c.pool.map (·.units)) = some [[7]]) ∧
     (let q1 := { q with j := 2, pool := [⟨[7], none⟩, ⟨[7], none⟩] }
      let t := after (exec (.yarrowPool 0 0) (s.setCurrent 0 0 (some q1)))
      q1.count ≤ q1.j ∧ (t.me.sig 2).map (fun g => (g.slot 0).data) = some [14] ∧ t.me.rk 4 = true)) := by decide +kernel

/-- A `sscatter` that sends −1 to the cell of row 0; a cell that takes −1 at 0, and one that is marked. -/
theorem witness_YarrowResults_cells :
    (let q := { cmd0 .sscatter (rec1 0x13 0x10100 1 1) 1 with a := 0x10000 }
     let g : Signal := { sig1 2 .cp 0 [{ st := .full, data := [rowOf 0xFFFFFFFF], past := true }, {}, {}] with
       plan := { (sig1 2 .cp 0 []).plan with fmt := 3 } }
     let s := engine0 4 { current := some q } fun x => { x.setSig 2 (some g) with nowc := 1 }
     let q1 := { q with entry := some (.row 0, 0) }
     let s1 := s.setCurrent 0 4 (some q1)
     s.working 0 4 = some q ∧ s.me.drainReady q = true ∧ s1.me.drainReady q1 = true ∧
     (current 4 (.yarrowScatterAdd 0 4) s).map (·.entry) = some (some (.row 0, 0)) ∧
     okThat (s1.rowUnit 0 q1 (.row 0) 0 0 none) (fun v => v.src == [(0x100, 16)]) = true ∧
     (after (exec (.yarrowScatterAdd 0 4) s1)).posted.map (fun p => (p.kind, p.pa, p.data)) =
       [(.cell, 0x100, 0xFFFFFFFFFFFFFFFF)]) ∧
    ([(0, 0xFF), (1, 0)].all fun (m, v) =>
      let p := inFlight .cell 0x100 0xFFFFFFFFFFFFFFFF .none false
      let s := { mapped (ctx0 id) with mem := if m = 0 then [] else [(0x109, 1)], posted := [p] }
      s.posted? 1 == some p && !s.behind p .dev && !s.unread p && !s.strayKey p && !s.poisoned 0x100 16 &&
      Memory.get (after (exec (.cellAddPerform 1) s)).mem 0x108 == v) = true := by decide +kernel

/-- A `sscatter` into a row item of no cells, the first of two samples. -/
theorem witness_YarrowResults_noCells :
    let q := { cmd0 .sscatter ((rec1 0x13 0x10100 0 1).set 1 (BitVec.ofNat 64 (0x13 * 2 ^ 56 + 2 * 2 ^ 53))) 2 with
      a := 0x10000, entry := some (.row 0, 0) }
    let g : Signal := { sig1 2 .cp 0 [{ st := .full, data := [rowOf 0xFFFFFFFF], past := true }, {}, {}] with
      plan := { (sig1 2 .cp 0 []).plan with fmt := 3 } }
    let s := engine0 4 { current := some q } fun x => { x.setSig 2 (some g) with nowc := 1 }
    s.working 0 4 = some q ∧ s.me.drainReady q = true ∧ (recOf q.rec1).itemUnits = 0 ∧ q.j + 1 < q.samples ∧
    (after (exec (.yarrowScatterAdd 0 4) s)).posted = [] ∧
    (current 4 (.yarrowScatterAdd 0 4) s).map (fun c => (c.j, c.entry)) = some (1, none) := by decide +kernel

/-- One live context of the package. -/
def alone (x : Ctx) : State := State.reset.setCtx { core := 0, ctx := 0 } x

theorem alone_ctx (x : Ctx) (o : CtxId) : (alone x).ctx o = if o = { core := 0, ctx := 0 } then x else {} := by
  split
  · rename_i h; rw [h]; exact State.ctx_setCtx ..
  · rename_i h; rw [alone, State.ctx_setCtx_of_ne _ _ (Ne.symm h)]; simp [State.ctx, State.core, State.reset]

theorem filter_first (p : CtxId → Bool) (h0 : p { core := 0, ctx := 0 } = true)
    (h : ∀ o, o ≠ { core := 0, ctx := 0 } → p o = false) : allCtxs.filter p = [{ core := 0, ctx := 0 }] := by
  have e : p = fun o => decide (o = ({ core := 0, ctx := 0 } : CtxId)) := by
    funext o; by_cases ho : o = { core := 0, ctx := 0 }
    · simp [ho, h0]
    · simp [ho, h o ho]
  rw [e]; decide +kernel

theorem alone_group (x : Ctx) (h : x.live = true) (sc : Scope) (hs : sc ≠ .none) :
    (alone x).group { core := 0, ctx := 0 } sc = [{ core := 0, ctx := 0 }] := by
  refine filter_first _ ?_ fun o ho => ?_
  · rw [alone_ctx]; simp only [if_true, h, Bool.true_and, BEq.rfl]; cases sc <;> first | rfl | exact absurd rfl hs
  · simp [alone_ctx, ho]

theorem alone_members (x : Ctx) (h : x.live = true) (he : x.ended = false) :
    (alone x).syncMembers { core := 0, ctx := 0 } = [{ core := 0, ctx := 0 }] := by
  rw [State.syncMembers, alone_group x h .cl (by decide)]; simp [alone_ctx, he]

/-- A barrier of a kernel of one context: its one arrival is there, or missing, or it needs none; and its `sync`. -/
theorem witness_CoreEventsGoOn_barriers :
    (let x : Ctx := { live := true, wait := some ⟨.die, none⟩, arrive := (Vector.replicate 3 0).set 1 1,
                      arrived := (Vector.replicate 3 []).set 1 [7] }
     Scope.die ≠ .none ∧ Scope.die ≠ .sys ∧ (x.arrive[1]).toNat ≠ 0 ∧
     ((alone x).group { core := 0, ctx := 0 } .die).map (fun o => arrivalOf (((alone x).ctx o).arrived[1]) ((alone x).ctx o).endOf 1) = [some 7]) ∧
    (let x : Ctx := { live := true, wait := some ⟨.cl, none⟩, arrive := (Vector.replicate 3 0).set 0 1 }
     (((alone x).group { core := 0, ctx := 0 } .cl).map (fun o => arrivalOf (((alone x).ctx o).arrived[0]) ((alone x).ctx o).endOf 1)).all Option.isSome = false) ∧
    (let x : Ctx := { live := true, wait := some ⟨.dev, none⟩ }
     (x.arrive[2]).toNat = 0 ∧ Scope.dev.release.1 = 2) ∧
    (let x : Ctx := { live := true, sync := 1, syncSeen := some 3 }
     (alone x).syncMembers { core := 0, ctx := 0 } = [{ core := 0, ctx := 0 }] ∧
     ∀ o ∈ (alone x).syncMembers { core := 0, ctx := 0 }, ∃ v, ((alone x).ctx o).syncSeen = some v ∧
       ((alone x).ctx o).syncAt = none ∧ ((alone x).ctx o).sync = x.sync) := by
  refine ⟨?_, ?_, by decide, ?_⟩
  · intro x
    have g := alone_group x rfl .die (by decide)
    refine ⟨by decide, by decide, by decide, ?_⟩
    rw [g, List.map, alone_ctx]; rfl
  · intro x
    rw [alone_group x rfl .cl (by decide), List.map, alone_ctx]; rfl
  · intro x
    have m := alone_members x rfl rfl
    refine ⟨m, fun o ho => ?_⟩
    rw [m] at ho; rw [List.mem_singleton.mp ho, alone_ctx]; exact ⟨3, rfl, rfl, rfl⟩

/-- A remote write of context 0 to its own point. -/
def remote0 : Remote :=
  { id := 5, ctx := 0, kid := 1, die := 0, point := 0, sig := 2, pos := 1, unit := 31, value := 9, kp := 0, held := false,
    word := 0 }

/-- A remote write to a partner that has ended, and to one with a free slot, or one that is draining. -/
theorem witness_CoreEventsGoOn_remote :
    State.remotePartner (State.reset.onCore 0 fun k => { k with remote := [remote0] }) 0 remote0 = none ∧
    (let s := (ctx0 fun x => x.setSig 2 (some (sig1 2 .remote 0 [{}, {}, {}]))).onCore 0 fun k => { k with remote := [remote0] }
     s.remotePartner 0 remote0 = some s.cur ∧ (sig1 2 .remote 0 [{}, {}, {}]).writeTest 1 = .ok ∧ remote0.pos ≤ 1 ∧
     (after (exec (.remoteWritePerform 0) s)).myCore.remote = []) ∧
    (sig1 2 .remote 0 [{}, { st := .draining, tag := 0 }, {}]).writeTest 1 = .wait := by
  refine ⟨?_, by decide +kernel, by decide⟩
  rw [State.remotePartner, List.find?_eq_none]
  intro o _
  obtain ⟨⟨n, hn⟩, c⟩ := o
  have h : ((State.reset.onCore 0 fun k => { k with remote := [remote0] }).ctx { core := ⟨n, hn⟩, ctx := c }).live = false := by
    by_cases h0 : n = 0
    · subst h0; simp [State.ctx, State.core, State.onCore, State.setCore, State.reset]
    · simp [State.ctx, State.core, State.onCore, State.setCore, State.reset, Ne.symm h0]
  simp [h]

/-- A tick that waits for nothing and a signal that is due; a staged table at a multiple of 32 and not; an ended context. -/
theorem witness_CoreEventsGoOn :
    (let s := ctx0 fun x => { x.setSig 2 (some (sig1 2 .cp 0 [{ st := .full, tag := 0 }, { st := .full, tag := 1 }, {}])) with
       tick := some ⟨5, 0⟩ }
     s.me.tickWaits = false ∧ ((s.me.sig 2).map (·.plan.due (s.me.now + 1))) = some true ∧
     (after (exec (.tickStep s.cur) s)).me.now = 1 ∧ ((after (exec (.tickStep s.cur) s)).me.sig 2).map (·.adv) = some 1) ∧
    (let g : Signal := { sig1 2 .cp 0 [{ st := .full, data := [9] }, {}, {}] with plan := { (sig1 2 .cp 0 []).plan with isStatic := true } }
     let s := ctx0 fun x => { x.setSig 2 (some g) with tick := some ⟨5, 0⟩ }
     s.me.tickWaits = false ∧ g.plan.isStatic = true ∧
     ((after (exec (.tickStep s.cur) s)).me.sig 2).map (fun g => (g.adv, g.slots.map (·.past))) = some (0, [true, false, false])) ∧
    (let s := ctx0 fun x => { x.setSig 2 (some (sig1 2 .stream 0 [{}, {}, {}])) with tick := some ⟨5, 0⟩ }
     s.me.tickWaits = true ∧ (after (exec (.tickStep s.cur) s)).me.tick = some ⟨5, 0⟩) ∧
    (let s := { State.reset.onCore 0 (fun k => { k with stagedAt := some 31, staged := Vector.replicate 32 2 }) with cycle := 32 }
     (31 < s.cycle ∧ s.cycle % 32 = 0) ∧ ((after (exec (.slotTableEffect 0) s)).core 0).table[31] = 2) ∧
    (let s := { State.reset.onCore 0 (fun k => { k with stagedAt := some 32 }) with cycle := 32 }
     s.cycle ≤ 32 ∧ ((after (exec (.slotTableEffect 0) s)).core 0).stagedAt = some 32) ∧
    (let s := { ctx0 (fun x => { x with ended := true, trigAt := 1 }) with posted := [inFlight .store 0 5 .none false] }
     s.me.live = true ∧ s.ctxBusy s.cur = false ∧ (after (exec (.contextRelease s.cur) s)).me.live = false ∧
     (after (exec (.contextRelease s.cur) s)).posted.map (·.late) = [true]) := by decide +kernel

/-- A slot whose context is ready; whose context is not, strict and not; a free slot with one highest PRIO and with a tie; nothing
ready. A choice of a core with a context that is ready. -/
theorem witness_CoreEventsGoOn_pick :
    (let k : Core := { table := (Vector.replicate 32 4).set 1 2, lastTie := 0
                       ctxs := Vector.ofFn fun i => { prio := if i.val = 3 then 0 else 1 } }
     [0, 1, 2].Nodup ∧ [1, 3].Nodup ∧ k.pick 1 [0, 2] = some (2, none) ∧ k.pick 1 [0, 1, 3] = some (1, some 1) ∧
     k.pick 1 [] = none ∧ ({ k with strict := true } : Core).pick 1 [0, 1] = none ∧ k.pick 0 [0, 1, 2] = some (1, some 1) ∧
     k.pick 0 [1, 3] = some (1, none)) ∧
    (let s := ready .a 0x00000000
     (s.readies 0).all (fun b => (s.ctx ⟨0, b.1⟩).syncAt.isNone) = true ∧ (s.choose 0).map (·.1.1) = some 0) := by decide +kernel

/-! ### Witnesses: the device -/

theorem idle_ctx {s : State} (h : s.cores = State.reset.cores) (c : CtxId) : s.ctx c = {} := by
  simp [State.ctx, State.core, h, State.reset]

theorem idle_any {s : State} (h : s.cores = State.reset.cores) (p : Core → Bool) (hp : p {} = false) : s.cores.any p = false := by
  have e : s.cores = Vector.replicate 320 {} := h
  rw [e, Vector.any_eq_false]
  intro i hi
  rw [Vector.getElem_replicate, hp]; simp

theorem idle_leaving {s : State} (h : s.cores = State.reset.cores) : s.leaving? = none := by
  rw [State.leaving?, List.find?_eq_none.mpr, Option.map_none]
  intro c _; rw [idle_ctx h]; simp

theorem idle_ctxsOf {s : State} (h : s.cores = State.reset.cores) (k : Nat) : s.ctxsOf k = [] := by
  rw [State.ctxsOf, List.filter_eq_nil_iff]
  intro c _; rw [idle_ctx h]; simp

/-- The part started, domain 0 mapped, and one object, 1, of one kernel with an empty bundle as its code. -/
def started (s : State) : State :=
  mapped { s with
    bootst := 1
    objects := [{ handle := 1, dom := 0, grids := [], routs := [], cpdata := [], planes := [], devs := [],
                  kernels := [{ code := [0], plan := [], loops := Vector.replicate 6 {} }] }] }

/-- A queue of 16 records at 0x10000. -/
def ring (en src : Bool) (tail head : BitVec 32) : Queue :=
  { rbase := 0x10000, en := en, src := src, rsize := 4, tail := tail, head := head }

/-- Kernel 1, of kernel 0 of object 1, under queue 127. -/
def kernel1 : Kernel :=
  { kid := 1, obj := 1, kidx := 0, dom := 0, queue := 127, recIdx := 0, prio := 0, args := [], done := 0x10008, seqn := 9,
    notify := true, order := 0, aborted := false, saved := [] }

/-- A `launch` into a device-fed queue with room, into a full one, of a record with a reserved field, into a disabled queue and into
one of another domain; a head that begins to wait, that has waited a level, and an empty queue; a kernel that waits; TAIL written to
the ring's size and past it, to a host-fed and to a device-fed queue; STOP cleared, and not set. -/
theorem witness_LaunchQueues :
    (let r : LaunchReq := ⟨5, 0x10400, 127, 0⟩
     let s := mapped (ctx0 fun x => { x with posting := [r] })
     let s := { s.setQueue 127 (ring true true 3 0) with mem := [(0x400, 1)] }
     s.me.posting = [r] ∧ s.posted = [] ∧ (s.queue 127).dom = s.me.dom ∧
     okThat (s.vaRead 0 0x10400 64) (fun b => recordOk b && okThat (s.vaWrite 0 0x100C0 b) fun s1 => s1.mem == [(0xC0, 1), (0x400, 1)])
       = true ∧ (s.queue 127).slot 3 = 0x100C0 ∧ (s.queue 127).count ≠ (s.queue 127).size ∧
     ((after (exec (.launchPost s.cur) s)).queue 127).tail = 4 ∧
     (let f := s.setQueue 127 (ring true true 16 0)
      (f.queue 127).count = (f.queue 127).size ∧ (after (exec (.launchPost s.cur) f)).me.posting = [r]) ∧
     (let f := { s with mem := [(0x404, 1)] }
      okThat (f.vaRead 0 0x10400 64) (fun b => !recordOk b) = true ∧
      (after (exec (.launchPost s.cur) f)).me.faults.map (·.detail) = [queueDetail 3 127 3]) ∧
     (let f := s.setQueue 127 { ring true true 3 0 with dom := 1 }
      (f.queue 127).dom ≠ f.me.dom ∧ (after (exec (.launchPost s.cur) f)).me.faults.map (·.detail) = [queueDetail 2 127 3])) ∧
    (let s := mapped (ctx0 fun x => { x with posting := [⟨5, 0x10400, 0, 0⟩] })
     (s.queue 0).en = false ∧ (after (exec (.launchPost s.cur) s)).me.faults.map (·.cause) = [0x65]) ∧
    (let s := State.reset.setQueue 0 (ring true false 1 0)
     (s.queue 0).waits = true ∧ ((after (exec (.aging 0) s)).queue 0).since = some 0) ∧
    (let s := { State.reset.setQueue 0 { ring true false 1 0 with since := some 0 } with cycle := 2 ^ 20 }
     (s.queue 0).raised < (s.cycle - 0) / 2 ^ 20 ∧ ((after (exec (.aging 0) s)).queue 0).raised = 1) ∧
    (let s := State.reset.setQueue 0 { ring true false 0 0 with since := some 0 }
     (s.queue 0).waits = false ∧ ((after (exec (.aging 0) s)).queue 0).since = none) ∧
    (let s := { State.reset.setQueue 127 { ring true false 0 0 with waiting := [1] } with kernels := [kernel1], cycle := 2 ^ 20 }
     (after (exec (.aging 127) s)).kernels.map (·.raised) = [1]) ∧
    (let s := (started State.reset).setQueue 0 (ring true false 0 0xFFFFFFFF)
     (15 - (s.queue 0).head).toNat = 16 ∧ ((after (exec (.tailWrite 0 15) s)).queue 0).tail = 15 ∧
     (16 - (s.queue 0).head).toNat = 17 ∧ ((after (exec (.tailWrite 0 16) s)).queue 0).stop = true) ∧
    (let s := (started State.reset).setQueue 0 { ring true true 0 0 with stop := true }
     s.bootst = 1 ∧ ((after (exec (.tailWrite 0 1) s)).queue 0).tail = 0 ∧ (s.queue 1).stop = false ∧
     ((after (exec (.stopClear 0) s)).queue 0).stop = false) := by decide +kernel

/-- A `launch` that the first run of its interval has posted; a queue with a record and a pre-empted kernel that waits. -/
theorem witness_LaunchQueues_again :
    (let s := ctx0 fun x => { x with posting := [⟨5, 0x10400, 127, 0⟩], ckpting := true, epoch := 5, launched := true }
     s.posted = [] ∧ (s.me.ckpting && decide (s.me.epoch ≤ 5) && s.me.launched) = true ∧
     (after (exec (.launchPost s.cur) s)).me.posting = [] ∧ (after (exec (.launchPost s.cur) s)).me.faults = []) ∧
    (let s := State.reset.setQueue 127 { ring true false 1 0 with waiting := [1], since := some 0, raised := 3 }
     let s := { s with kernels := [kernel1], cycle := 2 ^ 20 }
     (s.queue 127).waits = true ∧ ((after (exec (.aging 127) s)).queue 127).since = none ∧
     (after (exec (.aging 127) s)).kernels.map (·.raised) = [1]) := by decide +kernel

/-- The part with a head of queue 0 that has waited since cycle 0; `m` is what its ring holds. -/
def waiting (m : Memory) : State :=
  { (started State.reset).setQueue 0 { ring true false 1 0 with since := some 0 } with mem := m, cycle := 1 }

/-- The state once the head records of every queue have been read. -/
def heads (s : State) : State := ((List.range 128).map (BitVec.ofNat 7)).foldl State.readHead s

/-- The head of a disabled queue, one whose ring is not mapped, with a reserved field, and one of object 1. -/
theorem witness_PlacementPlacesRecords_heads :
    (let s := waiting [(0, 1)]
     (s.queue 0).waits = true ∧ (s.queue 0).record = none ∧ (s.queue 0).got = [] ∧ (s.queue 0).since = some 0 ∧ 0 < s.cycle ∧
     ((List.range 8).all fun i => s.readyAt (8 + i)) = true ∧
     ((List.range 8).all fun i => okThat (s.vaRead 0 ((s.queue 0).slot 0 + BitVec.ofNat 64 (8 * i)) 8) fun b =>
       b == if i = 0 then [1, 0, 0, 0, 0, 0, 0, 0] else List.replicate 8 0) = true ∧
     ((s.readHead 0).queue 0).record = some ⟨1, 0, false, 0, 0, []⟩ ∧ ((s.object? 1).map (·.dom)) = some 0 ∧
     (let d := s.setQueue 0 { s.queue 0 with en := false }
      (d.queue 0).en = false ∧ (d.readHead 0).monq.map (·.w1) = [queueDetail 1 0 0]) ∧
     (let d := s.setQueue 0 { s.queue 0 with rbase := 0x20000 }
      isError (d.vaRead 0 ((d.queue 0).slot 0) 8) (0x50, 0x20000) = true ∧ (d.readHead 0).monq.map (·.w1) = [queueDetail 5 0 0])) ∧
    (((waiting [(4, 1)]).readHead 0).monq.map (·.w1)) = [queueDetail 2 0 0] := by decide +kernel

/-- A record that is chosen and placed; one with too many points; one of an aborted producer. -/
theorem witness_PlacementPlacesRecords :
    (heads (waiting [(0, 1)])).leaving? = none ∧
    (let h := heads (waiting [(0, 1)])
     (waiting [(0, 1)]).bootst = 1 ∧ h.chosen = none ∧ h.choose? = some (0, none) ∧ (h.queue 0).waits = true ∧
     (h.queue 0).record = some ⟨1, 0, false, 0, 0, []⟩ ∧ (h.queue 0).producers = [] ∧ (h.object? 1).isSome = true ∧
     (h.objects.all fun o => decide ((o.kernels.map fun k => spatial k.loops) = [(1, 1)]) &&
       ((h.core (coreAt 0 0 0)).window h.kidSeq 0 1 (o.needs 0) h.pick).isSome && (o.kernels.all fun im =>
         decide (h.findPlaces 1 1 (fun j i k => let xs := newCtxs h.kidSeq 0 0 im 1 j i
           decide (pointsAt 1 i ≤ k.freeCtxs.length) && (placeCtxs h.pick k.sigRanges xs).isSome &&
             (k.window 0 0 xs.length (o.needs 0) h.pick).isSome) = some [(0, 0, [(0, 0)])]) &&
         (placeCtxs h.pick (h.core (coreAt 0 0 0)).sigRanges [newCtx h.kidSeq 0 0 im 0 0]).isSome)) = true ∧
     rotated (h.core (coreAt 0 0 0)).freeCtxs h.pick = [0, 1, 2, 3]) ∧
    (4 < (spatial ((Vector.replicate 6 {}).set 0 { kind := 3, extent := 5 })).1 ∧
     320 < (spatial ((Vector.replicate 6 {}).set 1 { kind := 2, extent := 321 })).2) ∧
    (let s := (waiting [(0, 1)]).setQueue 0 { (waiting [(0, 1)]).queue 0 with producers := [(0, 0)] }
     (s.queue 0).orphaned = true ∧ ((heads s).queue 0).record = none ∧ ((heads s).queue 0).producers = [(0, 0)] ∧ ((heads s).queue 0).head = 0 ∧
     (heads s).choose? = some (0, none)) := by
  refine ⟨idle_leaving (readHeads_cores ..), ?_, ?_, ?_⟩ <;> decide +kernel

theorem readHeads_idle {s : State} (l : List (BitVec 7)) (h : ∀ q, (s.queue q).waits = false ∨ (s.queue q).record.isNone = false) :
    l.foldl State.readHead s = s := by
  induction l with
  | nil => rfl
  | cons q l ih => rw [List.foldl_cons, State.readHead, if_neg, ih]; rcases h q with h | h <;> simp [h]

/-- A context of kernel 1. -/
def ctxOf1 : Ctx := { live := true, kid := 1 }

/-- A package of which only core 0 is not retired; its four contexts are `y`; the record that queue 0 has chosen is of level 1. -/
def crowded (y : Ctx) : State :=
  { started State.reset with
    cores := (Vector.replicate 320 ({ retired := true } : Core)).set 0 { ctxs := Vector.replicate 4 y }
    kernels := [kernel1]
    queues := (started State.reset).queues.set 0 { ring true false 1 0 with level := 1, record := some ⟨1, 0, false, 0, 0, []⟩ }
    chosen := some (0, none) }

theorem crowded_ctx (y : Ctx) (c : CtxId) : (crowded y).ctx c = if c.core = 0 then y else {} := by
  obtain ⟨⟨n, hn⟩, i⟩ := c
  by_cases h : n = 0
  · subst h; simp [State.ctx, State.core, crowded]
  · simp [State.ctx, State.core, crowded, Ne.symm h, h]

theorem crowded_heads (y : Ctx) : heads (crowded y) = crowded y :=
  readHeads_idle _ (by
    intro q; revert q
    show ∀ q, (((crowded {}).queue q).waits = false ∨ ((crowded {}).queue q).record.isNone = false)
    decide +kernel)

theorem crowded_ctxsOf (y : Ctx) (hl : y.live = true) (hk : y.kid = 1) :
    (crowded y).ctxsOf 1 = (List.finRange 4).map fun i => { core := 0, ctx := i } := by
  have e : (fun c => ((crowded y).ctx c).live && ((crowded y).ctx c).kid == 1) = fun c : CtxId => decide (c.core = 0) := by
    funext c; rw [crowded_ctx]; by_cases h : c.core = 0 <;> simp [h, hl, hk]
  rw [State.ctxsOf, e]; decide +kernel

/-- A record for which no context is free, and the victim that it takes, with room in the save pool, which is a free value (log
entry 34). -/
theorem witness_PreemptionAndRestore :
    let h := heads (crowded ctxOf1)
    (crowded ctxOf1).bootst = 1 ∧ h.leaving? = none ∧ h.chosen = some (0, none) ∧ (h.queue 0).waits = true ∧
    (h.queue 0).record = some ⟨1, 0, false, 0, 0, []⟩ ∧ (h.queue 0).producers = [] ∧ (h.object? 1).isSome = true ∧
    h.findPlaces 1 1 (fun _ i k => decide (pointsAt 1 i ≤ k.freeCtxs.length)) = none ∧
    h.objects.all (fun o => o.kernels.all fun im => decide (h.findPlaces 1 1 (fun j i k =>
      k.takesNew h.kidSeq 0 1 im (o.needs 0) j i h.pick) = none)) = true ∧ min 23 ((h.queue 0).level.toNat + (h.queue 0).raised) = 1 ∧
    (h.poolHolds kernel1 = true → h.victim 1 = some 1) := by
  intro h
  rw [show h = crowded ctxOf1 from crowded_heads ctxOf1]
  refine ⟨rfl, ?_, rfl, by decide +kernel, by decide +kernel, by decide +kernel, by decide +kernel, by decide +kernel,
    by decide +kernel, by decide +kernel, fun p => ?_⟩
  · rw [State.leaving?, List.find?_eq_none.mpr, Option.map_none]
    intro c _; rw [crowded_ctx]; split <;> simp [ctxOf1]
  · have k : (crowded ctxOf1).kernels = [kernel1] := rfl
    rw [State.victim, k, List.foldl_cons, List.foldl_nil]
    simp only [p, show kernel1.kid = 1 from rfl, crowded_ctxsOf ctxOf1 rfl rfl]
    rfl

/-- A context of kernel 1 that is being taken, at rest, and with an access outstanding. -/
theorem witness_PreemptionAndRestore_leaving :
    (let y := { ctxOf1 with leaving := true }
     let h := heads (crowded y)
     h.leaving? = some 1 ∧ h.kernel? 1 = some kernel1 ∧ (h.suspendCalls 1).quiet 1 = true) ∧
    (let y := { ctxOf1 with leaving := true, read := some ⟨false, 0, 8, 4, false, none, 0, []⟩ }
     let h := heads (crowded y)
     h.leaving? = some 1 ∧ (h.suspendCalls 1).quiet 1 = false) := by
  have still (y : Ctx) (hl : y.live = true) (hk : y.kid = 1) : (crowded y).suspendCalls 1 = crowded y := by
    have r : ((crowded y).core 0).mx.run = none := rfl
    rw [State.suspendCalls, crowded_ctxsOf y hl hk]
    simp [List.finRange_succ, r]
  constructor
  · intro y h
    rw [show h = crowded y from crowded_heads y, still y rfl rfl]
    refine ⟨by decide +kernel, rfl, ?_⟩
    rw [State.quiet, crowded_ctxsOf y rfl rfl]; decide +kernel
  · intro y h
    rw [show h = crowded y from crowded_heads y, still y rfl rfl]
    refine ⟨by decide +kernel, ?_⟩
    rw [State.quiet, crowded_ctxsOf y rfl rfl]; decide +kernel

/-- What pre-emption has saved of kernel 1: one context, with x1 5. -/
def saved1 : SavedCore :=
  { place := 0, cycle := 0, size := 0, ctxs := [{ ctx := withX 1 5 ctxOf1, slot := 0, spill := [], spillOwner := [], seqs := [] }]
    streams := [], remotes := [], grid := none, afeed := [], calls := [], rows := [], plane := [], plLines := [], cp := []
    cpOwner := [] }

theorem witness_PreemptionAndRestore_restore :
    let s := { (started State.reset).setQueue 127 { waiting := [1] } with
      kernels := [{ kernel1 with saved := [[saved1]] }], chosen := some (127, some 1) }
    let h := heads s
    h.leaving? = none ∧ h.chosen = some (127, some 1) ∧ (h.queue 127).waiting = [1] ∧ (h.object? 1).isSome = true ∧
    h.kernels.map (·.saved) = [[[saved1]]] ∧ saved1.place = 0 ∧ saved1.ctxs.length = 1 ∧
    h.objects.all (fun o => decide (h.findPlaces 1 1 (fun _ r c =>
      c.takes ([saved1].find? fun v => v.place == r) (o.needs 0) h.pick) = some [(0, 0, [(0, 0)])]) &&
      ((h.core (coreAt 0 0 0)).window 1 0 1 (o.needs 0) h.pick).isSome) = true ∧
    saved1.ctxs.all (fun e => (placeCtxs h.pick (h.core (coreAt 0 0 0)).sigRanges [e.ctx]).isSome) = true ∧
    rotated (h.core (coreAt 0 0 0)).freeCtxs h.pick = [0, 1, 2, 3] := by
  intro s h
  refine ⟨idle_leaving (readHeads_cores ..), ?_⟩
  decide +kernel

/-- The causes with which the completion write of kernel 1 fails for its address. -/
def doneFails (va : Word) (f : BitVec 8) (s : State) : Bool :=
  match s.translate none 0 va 8 0x54 Need.write with
  | .ok _ => false
  | .error g => g == f

/-- Kernel 1 over, with a completion write to 0x10008 under queue 127; and one that fails. -/
theorem witness_KernelsCompleteAndRecordsPost :
    let s := { started State.reset with kernels := [kernel1] }
    (s.kernel? 1).isSome = true ∧ s.ctxsOf 1 = [] ∧ s.posted = [] ∧
    okThat (s.translate none 0 0x10008 8 0x54 Need.write) (· == 8) = true ∧ doneFails 0x20000 0x50 s = true ∧
    doneFails 0x10004 0x54 s = true ∧ doneFails 0x100000000000000 0x55 s = true ∧
    (let d := s.setDomain 0 { s.domain 0 with
       ranges := ((s.domain 0).ranges.set 1 { vbase := 0x20000, vlimit := 0x20FFF, pbase := 0, attr := 1 }).set 2
         { vbase := 0x30000, vlimit := 0x30FFF, pbase := 0xFFFFFFFFFF000, attr := 0xF } }
     doneFails 0x20000 0x51 d = true ∧ doneFails 0x30000 0x57 d = true) ∧
    (let d := s.setDomain 0 { s.domain 0 with
       ranges := (s.domain 0).ranges.set 1 { vbase := 0x20000, vlimit := 0x20FFF, pbase := BitVec.ofNat 64 (2 ^ 51 + 15 * 2 ^ 44), attr := 0xF } }
     okThat (d.translate none 0 0x20008 8 0x54 Need.write) (fun pa => d.linkDown pa) = true) := by
  intro s
  exact ⟨by decide +kernel, idle_ctxsOf rfl 1, rfl, by decide +kernel, by decide +kernel, by decide +kernel, by decide +kernel,
    by decide +kernel, by decide +kernel⟩

/-- An aborted kernel without a matrix call, and with one; an invalidation with nothing, and with a write, of the old mapping left; a
record with room in its ring, and with none. -/
theorem witness_KernelsCompleteAndRecordsPost_more :
    (let s := { started State.reset with kernels := [{ kernel1 with aborted := true, record := some (1, 2) }] }
     s.arrayBusy 1 = false) ∧
    (let s := (started State.reset).onMx 0 fun m => { m with effects := [⟨6, 1, 0, 1, .zero 0 1, 0⟩] }
     s.arrayBusy 1 = true) ∧
    (let s := State.reset.setDomain 0 { State.reset.domain 0 with inval := some 2 }
     (s.domain 0).inval = some 2 ∧ s.oldAccess 0 2 = false) ∧
    (let s := { State.reset.setDomain 0 { State.reset.domain 0 with inval := some 2 } with
       posted := [inFlight .store 0 0 .none false] }
     (s.posted.any fun p => p.dom == 0 && decide (p.born < 2)) = true) ∧
    (let s := { (started State.reset).setDomain 0 { (started State.reset).domain 0 with fqAddr := 0x10000, fqSize := 2 } with
       monq := [⟨0, 1, 2, some 7⟩], mem := [(0, 4), (4, 1)] }
     okThat (s.vaRead 0 0x10000 8) (fun h => imgField h 0 4 == 4 && imgField h 4 4 == 1) = true ∧
     (after (exec .faultRecordPost s)).monq = [] ∧ (after (exec .faultRecordPost s)).msix = [128, 7] ∧
     (after (exec .faultRecordPost { s with mem := [(0, 4)] })).monq.length = 1) := by
  refine ⟨idle_any rfl _ rfl, by decide +kernel, ⟨by decide +kernel, ?_⟩, by decide +kernel, by decide +kernel⟩
  have e (c : CtxId) : ((State.reset.setDomain 0 { State.reset.domain 0 with inval := some 2 }).ctx c).live = false := by
    rw [idle_ctx (s := State.reset.setDomain 0 { State.reset.domain 0 with inval := some 2 }) rfl c]
  simp only [State.oldAccess, e, Bool.false_and]
  rw [List.any_eq_false.mpr (by simp : ∀ c ∈ allCtxs, ¬false = true),
    idle_any (s := State.reset.setDomain 0 { State.reset.domain 0 with inval := some 2 }) rfl _ (by decide +kernel)]
  decide +kernel

/-- A new domain 63 with a range and a fault queue in it. -/
def spec63 (windows : List Nat) : DomainSpec :=
  { dom := 63, root := 0, ranges := [(63, { vbase := 0x20000, vlimit := 0x20FFF, pbase := 0x1000, attr := 0xF })], signed := false,
    digests := [], fqAddr := 0x20000, fqSize := 2, windows := windows }

/-- The part with a secure session. -/
def session : State := { started State.reset with spdm := .secure }

/-- Each mailbox command of domains and queues with operands in range, at the edges of the ranges, and outside them. -/
theorem witness_DomainCommands :
    session.bootst = 1 ∧ session.spdm = .secure ∧ (started State.reset).spdm ≠ .secure ∧
    session.specOk (spec63 [715]) = true ∧ session.specOk (spec63 [716]) = false ∧
    okThat ((session.newDomain (spec63 [])).vaWrite 63 0x20000 (fqHeader 2)) (fun s => s.mem == [(0x1008, 2)]) = true ∧
    session.hasDomain 0 = true ∧ session.hasDomain 1 = false ∧
    rangeOk { vbase := 0x20000, vlimit := 0x20FFF, pbase := 0x1000, attr := 0xF } = true ∧
    rangeOk { vbase := 0x20000, vlimit := 0x20FFE, pbase := 0x1000, attr := 0xF } = false ∧ rootOk 0x1000 = true ∧
    cfgOk { rbase := 0x10000, word1 := 0xC0BA000000000000 } = true ∧ cfgOk { rbase := 0x10000, word1 := 0x3FBA000000000000 } = true ∧
    session.hasDomain ((0x3FBA000000000000 : Word).extractLsb' 56 6) = false ∧ rootOk 0x1001 = false := by decide +kernel

/-- Operands of QCFG, SLOT, MAP and CREATE that are out of range or reserved, by a bit or by one; and an absent domain. -/
theorem witness_DomainCommands_refused :
    [({ rbase := 0x10000, word1 := 0xC0BA000000000001 } : QueueCfg), { rbase := 0x10000, word1 := 0xC0C2000000000000 },
     { rbase := 0x10000, word1 := 0xC0B9800000000000 }, { rbase := 0x10040, word1 := 0xC0BA000000000000 }].all (fun c =>
      (after (exec (.qcfg 5 c) session)).mbStatus == 5) = true ∧
    (after (exec (.qcfg 5 { rbase := 0x10000, word1 := 0x3FBA000000000000 }) session)).mbStatus = 4 ∧
    (after (exec (.slot 0 5) session)).mbStatus = 5 ∧ (after (exec (.slot 0 0x1000000000000) session)).mbStatus = 5 ∧
    (after (exec (.map 0 [(0, { vbase := 0x20000, vlimit := 0x20FFE, pbase := 0, attr := 0xF })] none) session)).mbStatus = 5 ∧
    (after (exec (.map 0 [] (some 0x1001)) session)).mbStatus = 5 ∧ (after (exec (.map 1 [] none) session)).mbStatus = 4 ∧
    (after (exec (.destroy 0) session)).domains[0].dying = true ∧
    (after (exec (.create (spec63 [716])) session)).mbStatus = 5 := by decide +kernel

theorem witness_DomainCommands_values :
    (let q := (after (exec (.qcfg 5 { rbase := 0x10000, word1 := 0xC0BA000000000000 }) session)).queue 5
     q.rbase = 0x10000 ∧ q.en = true ∧ q.src = true ∧ q.dom = 0 ∧ q.level = 23 ∧ q.rsize = 4) ∧
    (after (exec (.power 2400) session)).plim = 2400 ∧ (after (exec (.power 1200) session)).mbStatus = 0 ∧
    (after (exec (.power 1199) session)).mbStatus = 5 ∧ (after (exec (.power 2401) session)).mbStatus = 5 ∧
    slotsOk 0xC000924924924924 = true ∧ slotsOk 5 = false ∧
    (let k := (after (exec (.slot 319 0xC000000000000003) session)).core 319
     k.half = true ∧ k.stagedStrict = true ∧ k.stagedAt = some 0 ∧ k.staged[16] = 3 ∧ k.staged[17] = 0 ∧
     k.staged[15] = (session.core 319).staged[15]) ∧
    (after (exec (.mailboxOpcodeRefused 0x0D) session)).mbStatus = 5 ∧
    (after (exec (.mailboxOpcodeRefused 0) session)).mbStatus = 5 := by decide +kernel

/-- QCFG that leaves a queue its domain, and that gives it another; MAP of a range; CREATE's fault queue, handed over. -/
theorem witness_DomainCommands_changes :
    (let s := session.setQueue 5 { ring true false 3 1 with record := some ⟨1, 0, false, 0, 0, []⟩ }
     let s := { s with domains := s.domains.set 1 { s.domain 0 with windows := [] } }
     let same : QueueCfg := { rbase := 0x10000, word1 := 0xC0BA000000000000 }
     let other : QueueCfg := { rbase := 0x10000, word1 := 0xC1BA000000000000 }
     cfgOk same = true ∧ cfgOk other = true ∧ s.hasDomain 0 = true ∧ s.hasDomain 1 = true ∧ (s.domain 0).live = true ∧
     ((after (exec (.qcfg 5 same) s)).queue 5).head = 1 ∧ ((after (exec (.qcfg 5 same) s)).queue 5).record.isSome = true ∧
     ((after (exec (.qcfg 5 other) s)).queue 5).head = 3 ∧ ((after (exec (.qcfg 5 other) s)).queue 5).record = none ∧
     (after (exec (.qcfg 5 other) s)).monq.length = 2 ∧
     (let d := s.setDomain 0 { s.domain 0 with live := false }
      (d.domain 0).live = false ∧ (after (exec (.qcfg 5 other) d)).monq = [])) ∧
    okThat (((session.newDomain (spec63 [])).handOver 63 ((spec63 []).ranges.map (·.2)) (some 0)).vaWrite 63 0x20000 (fqHeader 2))
      (fun s => s.mem == [(0x1008, 2)]) = true ∧
    (let s := { session with memOwner := [(0x1010, 7), (0x2000, 7)] }
     (after (exec (.map 0 [(1, { vbase := 0x20000, vlimit := 0x20FFF, pbase := 0x1000, attr := 0xF })] none) s)).mbStatus = 0 ∧
     (after (exec (.map 0 [(1, { vbase := 0x20000, vlimit := 0x20FFF, pbase := 0x1000, attr := 0xF })] none) s)).memOwner =
       [(0x2000, 7)]) := by decide +kernel

/-- The bytes of an object of one kernel, a code section of one word: 100 bytes (R28). -/
def file0 : Memory :=
  [(0, 0x41), (1, 0x44), (2, 0x4F), (3, 0x42), (4, 3), (6, 1), (8, 100), (16, 0x20), (17, 0x48), (18, 1), (64, 1), (66, 0xFF),
   (67, 0xFF), (68, 2), (72, 96), (80, 4)]

/-- LOAD for a domain that is not there, of bytes that are not mapped, of a container that is refused, unsigned under a signing
policy, and admitted; no place for a DEVDATA image; UNLOAD of an object with a placed kernel, and of one without. -/
theorem witness_ObjectAndContextCommands :
    (let s := { started State.reset with mem := file0 }
     s.hasDomain 1 = false ∧ okThat (s.vaRead 0 0x20000 1) (fun _ => true) = false ∧
     okThat (s.vaRead 0 0x10001 99) (fun b => !containerOk b) = true ∧
     okThat (s.vaRead 0 0x10000 100) (fun b => containerOk b && !signatureOk [] b && sectionsOf b 6 == []
       && (objectOf b s.objSeq 0 []).fitsEmpty) = true ∧ s.devPlacement 0 [] = some []) ∧
    (let s := { started State.reset with mem := file0, objects := [] }
     (after (exec (.load 0 0x10000 100) s)).objects.map (fun o => o.kernels.map (·.code)) = [[[0]]] ∧
     (after (exec (.load 0 0x10000 100) s)).mbStatus = 0 ∧ (after (exec (.load 0 0x10001 99) s)).mbStatus = 1) ∧
    (let s := (started State.reset).setDomain 0 { (started State.reset).domain 0 with signed := true }
     (after (exec (.load 0 0x10000 100) { s with mem := file0 })).mbStatus = 2) ∧
    ((started State.reset).object? 1).isSome = true ∧ (after (exec (.unload 1) (started State.reset))).objects = [] ∧
    (after (exec (.unload 1) { session with kernels := [kernel1] })).mbStatus = 5 := by
  decide +kernel

/-- An object of two sections, 137 bytes at device address 0x2000: a code section of one word, and a DEVDATA section of one byte. -/
def file1 : Memory :=
  [(0x2000, 0x41), (0x2001, 0x44), (0x2002, 0x4F), (0x2003, 0x42), (0x2004, 3), (0x2006, 2), (0x2008, 137), (0x2010, 0x20),
   (0x2011, 0x48), (0x2012, 1), (0x2040, 1), (0x2042, 0xFF), (0x2043, 0xFF), (0x2044, 2), (0x2048, 128), (0x2050, 4), (0x2060, 6),
   (0x2062, 0xFF), (0x2063, 0xFF), (0x2068, 136), (0x2070, 1)]

/-- No place for its DEVDATA image in a domain that may only read. -/
theorem witness_ObjectAndContextCommands_noRoom :
    (let s := { (started State.reset).setDomain 0 { (started State.reset).domain 0 with
       ranges := ((started State.reset).domain 0).ranges.set 0 { vbase := 0x10000, vlimit := 0x1FFFF, pbase := 0, attr := 3 } } with mem := file1 }
     okThat (s.vaRead 0 0x12000 137) (fun b => containerOk b &&
       s.devPlacement 0 ((sectionsOf b 6).map fun e => (e.2.size, e.2.align)) == none) = true ∧ (s.domain 0).signed = false ∧
     s.hasDomain 0 = true ∧ (after (exec (.load 0 0x12000 137) s)).mbStatus = 3) := by decide +kernel

/-- A stopped context of domain 0 in a session. -/
def stopped0 (f : Ctx → Ctx) : State :=
  { mapped (ctx0 fun x => f { x with stopped := true, cause := 0x10 }) with bootst := 1, spdm := .secure }

/-- RESUME into a delay bundle with parked results; a return-stack fault; and CTXGET. -/
theorem witness_ObjectAndContextCommands_contexts :
    (let s := stopped0 fun x => { x with parked := [⟨.x 1, 5, 2, false⟩] }
     s.stoppedIn 0 s.cur = true ∧ s.stoppedIn 1 s.cur = false ∧ s.me.cause ≠ 0x13 ∧ s.me.cause ≠ 0x14 ∧ s.me.land = [] ∧
     (after (exec (.resume 0 s.cur 8 4) s)).me.delay = .taken (.goto 4) ∧
     (after (exec (.resume 0 s.cur 8 4) s)).me.land = [⟨.x 1, 5, 2, false⟩] ∧
     okThat (s.vaWrite 0 0x10000 (s.blockBytes s.cur)) (fun _ => true) = true) ∧
    (let s := stopped0 fun x => { x with cause := 0x13 }
     s.me.cause = 0x13 ∧ s.stoppedIn 0 s.cur = true) := by decide +kernel

/-- Start-up from reset in each of its ways; a power sample in each band; each SPDM request in a state that allows it and in one
that does not. -/
theorem witness_StartUpPowerAndSpdm :
    State.reset.bootst = 0 ∧
    [(false, true, true, 2), (true, false, true, 3), (true, true, false, 4), (true, true, true, 1)].all (fun (a, b, c, v) =>
      (after (exec (.boot a b c) State.reset)).bootst == v) = true ∧
    (let s := { started State.reset with clk := 850, belowFor := 99, plim := 2400 }
     s.bootst ≠ 0 ∧ s.bootst = 1 ∧ s.clk.toNat ≤ 850 ∧ 99 ≤ s.belowFor ∧
     [((0 : BitVec 32), (2601 : BitVec 32), (425 : BitVec 32)), (2401, 2600, 825), (2400, 0, 850), (2350, 0, 850),
      (2349, 0, 850)].all (fun (m, f, v) => (after (exec (.powerSample m f 7) s)).clk == v) = true ∧
     (after (exec (.powerSample 2349 0 7) { s with clk := 800 })).clk = 825 ∧
     (after (exec (.powerSample 2401 0 7) { s with clk := 440 })).clk = 425 ∧
     (after (exec (.powerSample 0 2601 7) { s with clk := 600 })).clk = 300 ∧
     (after (exec (.powerSample 2401 0 7) { s with clk := 300 })).clk = 300 ∧
     (let t := after (exec (.powerSample 2349 0 7) { s with belowFor := 98, clk := 800 })
      t.clk = 800 ∧ t.belowFor = 99)) ∧
    [(Instr.getVersion, SpdmState.secure, SpdmState.version), (.getCapabilities, .version, .capabilities),
     (.negotiateAlgorithms, .capabilities, .negotiated), (.getDigests, .negotiated, .negotiated),
     (.getCertificate, .secure, .secure), (.challenge, .negotiated, .negotiated), (.getMeasurements 255, .secure, .secure),
     (.keyExchange, .negotiated, .handshake), (.finish, .handshake, .secure), (.endSession, .secure, .negotiated),
     (.getCapabilities, .capabilities, .capabilities), (.negotiateAlgorithms, .version, .version), (.getDigests, .version, .version),
     (.getCertificate, .handshake, .handshake), (.challenge, .capabilities, .capabilities),
     (.getMeasurements 0, .handshake, .handshake), (.keyExchange, .secure, .secure), (.finish, .secure, .secure),
     (.endSession, .handshake, .handshake)].all (fun (i, a, b) =>
      (after (exec i { started State.reset with spdm := a })).spdm == b) = true := by decide +kernel

/-- Every domain with the range of domain 0; port 3 up; window 0 bound to domain 0. -/
def open0 : State :=
  { started State.reset with
    domains := Vector.replicate 64 { (started State.reset).domain 0 with windows := [0] }
    mem := [(0, 7)]
    ports := (started State.reset).ports.set 3 { state := 2 } }

/-- CXL.mem in a bound window, mapped and not, and in a window that no domain holds; a flit lost before and at the sixteenth
replay; and, at each kind of access, host memory in error. -/
theorem witness_OutsideAccessesAndLinks :
    open0.bootst = 1 ∧ open0.windowOwner 0x40000000 = none ∧ open0.windowOwner 0x3FFFFFFF = some 0 ∧
    okThat (open0.vaRead 0 0x10000 64) (·.head? == some 7) = true ∧ okThat (open0.vaRead 0 0x20000 1) (fun _ => true) = false ∧
    okThat (open0.vaWrite 0 0x1FFFF [5]) (fun s => s.mem == [(0, 7), (0xFFFF, 5)]) = true ∧
    okThat (open0.vaWrite 0 0x20000 [5]) (fun _ => true) = false ∧ (open0.port 3).state = 2 ∧ (open0.port 2).state ≠ 2 ∧
    (open0.port 3).replays < 16 ∧
    ((open0.setPort 3 { open0.port 3 with replays := 16 }).port 3).replays = 16 ∧
    (let s := ctx0 fun x => { x with read := some { atomic := false, va := 0, pa := 2 ^ 51, dest := 3, sq := false, value := none } }
     (s.me.read.map fun r => !r.atomic && paHost r.pa) = some true ∧
     (after (exec (.hostAccessError (.read s.cur) true) s)).me.readFault = some (0xA3, 0)) ∧
    (let s := { ctx0 id with posted := [inFlight .store (2 ^ 51 + 8) 0 .none false] }
     (s.posted[0]?.map fun w => w.kind.isStore && paHost w.pa) = some true ∧
     (after (exec (.hostAccessError (.posted 0) true) s)).posted = []) ∧
    (let q := cmd0 .sload (rec1 1 0x20000 1 1) 0
     let s := engine0 0 { current := some q } (fun x => x.setSig 2 (some (sig1 2 .stream 0 [{}, {}, {}])))
     let s := s.setDomain 0 { s.domain 0 with
       ranges := (s.domain 0).ranges.set 1 { vbase := 0x20000, vlimit := 0x20FFF, pbase := 2 ^ 51, attr := 0xF } }
     let q := { q with e := 1, reqs := [⟨0, 0, 0x20000, [(2 ^ 51, 1)], none, 0⟩] }
     let s := s.setCurrent 0 0 (some q)
     s.working 0 0 = some q ∧ paHost (2 ^ 51) = true ∧ s.unitsOut 0 0 5 = false ∧
     (after (exec (.hostAccessError (.stream 0 0) false) s)).me.faults.map (·.detail) = [0]) := by decide +kernel

/-- A port that goes down with a store of a live context in flight to its peer; a host's write over a fault queue's header; a peer's
read of a poisoned block. -/
theorem witness_OutsideAccessesAndLinks_more :
    (let w := inFlight .store (2 ^ 51 + 15 * 2 ^ 44 + 3 * 2 ^ 40 + 8) 0 .none false
     let s := { ctx0 id with posted := [w], ports := State.reset.ports.set 3 { state := 2, replays := 16 } }
     (s.port 3).state = 2 ∧ 16 ≤ (s.port 3).replays ∧ paAperture w.pa = true ∧ paPeer w.pa = 3 ∧ (s.ctx w.src).live = true ∧
     (s.ctx w.src).kid = w.kid) := by decide +kernel

theorem witness_OutsideAccessesAndLinks_header :
    (after (exec (.linkPortUp 3 0xF5 7) open0)).ports[3].peerPort = 5 ∧
    (let s := open0.setDomain 0 { open0.domain 0 with fqAddr := 0x10000, fqSize := 2 }
     okThat (s.vaWrite 0 0x10000 [5, 5, 5, 5, 5]) (fun _ => true) = true ∧ s.headerFixed.contains 0 = true ∧
     Memory.get (after (exec (.cxlMemWrite 0x10000 [5, 5, 5, 5, 5]) s)).mem 0 = 7 ∧
     Memory.get (after (exec (.cxlMemWrite 0x10000 [5, 5, 5, 5, 5]) s)).mem 4 = 5) := by decide +kernel

/-- A CXL.mem write to an address that no mapping holds, and to a window that no domain holds: told apart. -/
theorem witness_OutsideAccessesAndLinks_writes :
    (after (exec (.cxlMemWrite 0x20000 [5]) open0)).hostOut = [.refused] ∧
    (after (exec (.cxlMemWrite 0x40000000 [5]) open0)).hostOut = [.discarded] ∧
    (after (exec (.cxlMemRead 0x20000 1) open0)).hostOut = [.poison] ∧
    (let q := { cmd0 .sload (rec1 1 0x20000 1 1) 0 with e := 1, reqs := [⟨0, 0, 0x20000, [(2 ^ 51, 1)], none, 0⟩] }
     let s := engine0 0 { current := some q } fill2
     s.working 0 0 = some q ∧ q.fail = none ∧ (s.engine 0 0).sent = [] ∧ s.unitsOut 0 0 5 = false ∧ paHost (2 ^ 51) = true ∧
     (after (exec (.hostAccessError (.stream 0 0) false) s)).me.faults.map (fun f => (f.cause, f.id, f.detail)) =
       [(0xA3, 5, 0)]) := by decide +kernel

/-- Context 0 checkpointing with a shadow copy. -/
def shadowed : State :=
  let s := after (exec (.ckpt 0 ⟨5, false, 0⟩ none) (ctx0 fun x => { withX 5 3 x with next := 8 }))
  s.onCtx s.cur fun x => { x with ckpting := true }

/-- An error that is corrected; an error in HBM; an error that stops a context that does not checkpoint, rolls back one that does,
and passes over one that has ended and one that is not live. -/
theorem witness_DataErrors :
    (StoreKind.cpMem ≠ .registers ∧ ∀ h, StoreKind.cpMem ≠ .hbm h) ∧
    ((after (exec (.uncorrectableError 0 .cpMem 5 true) State.reset)).core 0).corrected.toList = [1, 0, 0, 0, 0, 0, 0, 0] ∧
    ((after (exec (.uncorrectableError 0 (.hbm 7) 5 true) State.reset)).core 0).corrected.toList = [0, 0, 0, 0, 0, 0, 0, 1] ∧
    (after (exec (.uncorrectableError 0 (.hbm 1) 64 false) State.reset)).poison = [2 ^ 42 + 1] ∧
    (let s := ctx0 id
     s.me.live = true ∧ s.me.ended = false ∧ s.me.stopped = false ∧ s.me.ckpting = false ∧ s.myCore.rerun.isNone = true ∧
     (s.ctx { core := 0, ctx := 1 }).live = false ∧ (after (exec (.uncorrectableError 0 .registers 9 true) s)).me.stopped = true) ∧
    (ctx0 fun x => { x with ended := true }).me.ended = true ∧
    (let s := shadowed
     s.me.live = true ∧ s.me.ended = false ∧ s.me.ckpting = true ∧ s.me.rerunning = false ∧ s.me.retiring = none ∧
     s.me.shadow.isSome = true ∧ s.myCore.rerun.isNone = true ∧
     [StoreKind.cpMem, .signal, .accumulator, .plane, .hold, .registers, .shadow].all (fun k =>
       !(s.core 0).beyondRepair s.me k 0) = true ∧
     (after (exec (.uncorrectableError 0 .signal 0 false) s)).me.pc = 8 ∧
     ((after (exec (.uncorrectableError 0 .signal 0 false) s)).myCore.rerun.map fun r => (r.pair, r.run)) = some (1, 1)) := by
  decide +kernel

/-- Core 0 with a rerun of context 0, changed by `f`. -/
def rerun0 (f : Rerun → Rerun) : State :=
  (after (exec (.uncorrectableError 0 .signal 0 false) shadowed)).onCore 0 fun k => { k with rerun := k.rerun.map f }

/-- Every member of a rerun at its boundary. -/
def there (r : Rerun) : Rerun := { r with members := r.members.map fun m => { m with there := true } }

/-- An error in a run, repairable and not; runs that are not over; a first and a second run that is; a pair with an error, and a third;
and a pair whose runs differ. -/
theorem witness_DataErrors_reruns :
    (let s := rerun0 id
     s.me.ckpting = true ∧ s.me.rerunning = true ∧
     ((after (exec (.uncorrectableError 0 .signal 0 false) s)).myCore.rerun.map (·.err)) = some true ∧
     (s.myCore.rerun.map fun r => ((s.myCore.rerunners r).length, (s.myCore.rerunners r).map (·.there))) = some (1, [false])) ∧
    (let s := rerun0 fun r => { r with pair := 2 }
     let s := s.onCore 0 fun k => { k with windows := k.windows.map fun w => { w with shadowBase := 0, shadowSize := 65536 } }
     (s.core 0).beyondRepair s.me .shadow 32768 = true ∧
     (after (exec (.uncorrectableError 0 .shadow 32768 false) s)).me.faddr = 0x6200000000008000) ∧
    (let s := rerun0 there
     (s.myCore.rerun.map fun r => ((s.myCore.rerunners r).map (·.there), r.run)) = some ([true], 1) ∧
     ((s.pairTurn 0).myCore.rerun.map (·.run)) = some 2) ∧
    (let s := rerun0 fun r => there { r with run := 2, pair := 2 }
     (s.pairTurn 0).myCore.rerun.isNone = true ∧ (s.pairTurn 0).monq.map (·.w1) = [0x1200000000000000]) ∧
    (let s := rerun0 fun r => there { r with run := 2, err := true, pair := 2 }
     ((s.pairTurn 0).myCore.rerun.map fun r => (r.pair, r.run, r.err)) = some (3, 1, false)) ∧
    (let s := rerun0 fun r => there { r with run := 2, err := true, pair := 3 }
     (s.pairTurn 0).myCore.retired = true ∧ (s.pairTurn 0).nRetired = 1) ∧
    (let s := rerun0 fun r => there { r with run := 2, members := r.members.map fun m => { m with gbusy2 := m.gbusy1 + 1 } }
     (s.pairTurn 0).myCore.retired = true) := by decide +kernel

/-- A pending fault of command 5, token k4. -/
def fault0 : PendFault := { id := 5, kp := 4, cause := 0x50, source := 5, unit := 0, detail := 0x20000 }

/-- A `halt` and a `kwait` that meet the earlier of two pending faults; a `kwait` on another token, which waits; a bundle of a `halt`
with a fault, and of a `nop` with one that it does not meet; the end of a pass with a fault, and with an earlier command going on. -/
theorem witness_PreciseFaultTakesTheTrap_deferred :
    (let s := ctx0 fun x => { x with faults := [fault0, { fault0 with id := 9, kp := 3 }], kOwner := x.kOwner.set 4 5 }
     [Instr.halt 0 false, .kwait 0 false (some ⟨0, 0, 0, 4⟩)].all (fun i => guardOf i == some 0 && slotCheck i s == none &&
       (s.waitIds i).all (fun id => decide (fault0.id ≤ id)) && (after (exec i s)).me.cause == 0x50 &&
       (after (exec i s)).me.faults.length == 1) = true ∧ s.me.rp 0 = true ∧ s.me.admitted = false ∧
     (let s := s.setMe { s.me with k := 1 }
      slotCheck (.kwait 0 false (some ⟨0, 0, 0, 5⟩)) s = none ∧ slotWaits (.kwait 0 false (some ⟨0, 0, 0, 5⟩)) s = true ∧
      (consumed (.kwait 0 false (some ⟨0, 0, 0, 5⟩))).contains 4 = false)) ∧
    ([(0x04700000, true), (0x00000000, false)].all fun (w, meets) =>
      let s := ready .a w none fun x => { x with faults := [fault0] }
      let x := s.me
      match bundleAt (s.codeOf x) x.pc with
      | none => false
      | some ws =>
        let b := s.beginBundle s.cur ws.length
        match parseBundle x.base x.baseExt ws with
        | .error _ => false
        | .ok slots => x.readFault == none && bundleRules b.me (ws.headD 0) slots == none && slots.all (fun u => b.me.rp (fG u.word)) &&
            slots.all (fun u => slotCheck u.ins b == none && (b.waitIds u.ins).all fun id => decide (fault0.id ≤ id)) &&
            slots.any (fun u => b.qualifies u.ins fault0) == meets &&
            match s.verdict s.cur with
            | .deliver f _ _ => meets && f == fault0
            | .ready _ _ => !meets
            | _ => false) = true ∧
    (let s := ctx0 fun x => { x with halting := true, faults := [fault0] }
     s.me.live = true ∧ s.me.ended = false ∧ s.me.stopped = false ∧ s.me.readFault = none ∧
     ((s.allowRetry s.cur).core 0).cmdIds 0 = [] ∧ ((s.prepare s.cur).ctx s.cur).stopped = true ∧
     (let s := s.onMx 0 fun m => { m with queue := [{ item0 false 0 with id := 4 }] }
      ((s.allowRetry s.cur).core 0).cmdIds 0 = [4] ∧ ((s.prepare s.cur).ctx s.cur).stopped = false)) := by decide +kernel

/-- A rollback of a context with a fault in its shadow copy and others, one of an earlier command, one of the interval. -/
theorem witness_DataErrors_faults :
    let s := shadowed.onCtx { core := 0, ctx := 0 } fun x =>
      { x with epoch := 7, faults := [{ fault0 with id := 6 }, { fault0 with id := 8 }]
               shadow0 := x.shadow0.map fun h => { h with faults := [fault0] }
               shadow1 := x.shadow1.map fun h => { h with faults := [fault0] } }
    s.me.ckpting = true ∧ s.me.rerunning = false ∧ s.me.retiring = none ∧ s.me.shadow.isSome = true ∧
    (s.core 0).beyondRepair s.me .signal 0 = false ∧
    (after (exec (.uncorrectableError 0 .signal 0 false) s)).me.faults.map (·.id) = [5, 6] := by decide +kernel

end Sys2Proof.Tests
end

section
/-! ## The slots of a bundle under their guards (R106) -/

namespace Sys2Proof.Machine

open Sys2Proof.Claims

/-! ### The shape of a guarded slot -/

/-- A slot without effect issues under either guard. -/
theorem issuePlain_id (g : Pred) (s : State) : issuePlain g id s = .next s := by
  cases h : s.me.rp g with
  | false => exact issuePlain_false id h
  | true => exact issuePlain_true id h

/-- The shared operation through which a slot guarded by `g` issues: with no checks (its effect may be computed from the state as
the slot reads it), with the checks and waits of R41 and R293, or as one of the two kinds of transfer. -/
inductive IssuesAs (i : Instr) (g : Pred) : Prop where
  | plain (ht : isTransfer i = false) (eff : State → State → State) (e : exec i = fun s => issuePlain g (eff s) s)
  | checked (ht : isTransfer i = false) (eff : State → State) (e : exec i = issue i g eff)
  | transfer (ht : isTransfer i = true) (t : Ctx → Transfer) (e : exec i = Machine.transfer g t)
  | checkedTransfer (ht : isTransfer i = true) (eff : State → State) (e : exec i = Machine.checkedTransfer i g eff)

/-- Every slot that has a guard issues through one of the shared operations, under that guard. -/
theorem issuesAs_of_guardOf {i : Instr} {g : Pred} (h : guardOf i = some g) : IssuesAs i g := by
  cases i with
  | nop g' q x =>
    cases h
    cases x with
    | none => exact .plain rfl (fun _ => id) (funext (issuePlain_id g)).symm
    | some t => exact .checked rfl _ rfl
  | add | sub | addi | mul | mulh | mulhn | div | divn | rem | remn | min | max | minn | maxn | and | or | xor | andn
  | shl | shr | sra | shli | shri | srai | movi | lhi | sxI8 | sxI16 | sxI32 | zxN8 | zxN16 | zxN32 | clz | ctz | popc
  | sel | cmpEq | cmpNe | cmpLt | cmpLe | cmpLtn | cmpLen | cmpiEq | cmpiNe | cmpiLt | cmpiLe | cmpiLtn | cmpiLen
  | pand | por | pxor | pmov =>
    cases h
    exact .plain rfl _ rfl
  | trap | mts =>
    cases h
    exact .plain rfl (Function.const State _) rfl
  | b g' q n =>
    cases h
    exact .transfer rfl (fun x => .goto (x.relTarget n)) rfl
  | bi g' q a =>
    cases h
    exact .transfer rfl (fun x => .goto (x.rx a)) rfl
  | rett g' q =>
    cases h
    exact .transfer rfl (fun x => .trapReturn x.epc) rfl
  | jt | call | calli | ret =>
    cases h
    exact .checkedTransfer rfl _ rfl
  | loop | halt | mfs | ldI8 | ldN8 | ldI16 | ldN16 | ldI32 | ldN32 | ld64 | st8 | st16 | st32 | st64 | tld | tst | rst
  | gld | gst | aadd | amin | amax | aswp | acas | acadd | drainCl | drainDie | drainDev | drainSys | tick | spec
  | commit | sclr | sstat | ckpt | gacq | grel | gcfg | grun | gset | mxload | mxp | mxcall | sload | sloadPl | sstore
  | scopy | sgather | sreduce | sscatter | spos | dset | dget | dclr | kwait | kpoll | trig | launch | arriveCl
  | arriveDie | arriveDev | waitCl | waitDie | waitDev | sync =>
    cases h
    exact .checked rfl _ rfl
  | _ => cases h

/-- Under a false guard a slot leaves the state, but for the delay bundle of a transfer (R106). -/
theorem exec_false {i : Instr} {g : Pred} {s : State} (h : guardOf i = some g) (hg : s.me.rp g = false) :
    exec i s = .next (if isTransfer i then s.setXfer .untaken else s) := by
  cases issuesAs_of_guardOf h with
  | plain ht eff e => simp [e, ht, issuePlain_false (eff s) hg]
  | checked ht eff e => simp [e, ht, issue_false eff hg]
  | transfer ht t e => simp [e, ht, transfer_false t hg]
  | checkedTransfer ht eff e => simp [e, ht, checkedTransfer_false eff hg]

/-! ### The end of a bundle whose transfer was not taken -/

theorem HwLoop.step_inactive {l : HwLoop} (here : Word) (taken : Bool) (h : l.active = false) :
    l.step here taken = (l, none, false) := by simp [HwLoop.step, h]

theorem loopStep_inactive {outer inner : HwLoop} (here : Word) (taken : Bool) (ho : outer.active = false)
    (hi : inner.active = false) :
    loopStep outer inner here taken = { outer := outer, inner := inner, back := none } := by
  simp [loopStep, HwLoop.step_inactive _ _ ho, HwLoop.step_inactive _ _ hi]

/-- Outside loops, a bundle that is no delay bundle is followed by its redirection or by the next in address order (R112, R133). -/
theorem Ctx.close_of_inactive {x : Ctx} (ho : x.outer.active = false) (hi : x.inner.active = false)
    (hd : x.delay = .none) : x.close = (x.follow none).settle := by
  have hl : x.loopsDone = { outer := x.outer, inner := x.inner, back := none } := loopStep_inactive _ _ ho hi
  simp only [Ctx.close, hl, hd]
  rfl

/-! ### What blocks a bundle -/

@[simp] theorem State.beginBundle_me (s : State) (c : CtxId) (len : Nat) :
    (s.beginBundle c len).me = (s.ctx c).begin len :=
  State.ctx_setCtx { s with cur := c } c _

theorem mem_liveSlots {x : Ctx} {slots : List Slot} {sl : Slot} :
    sl ∈ liveSlots x slots ↔ sl ∈ slots ∧ x.rp (fG sl.word) = true := List.mem_filter

/-- A bundle blocks only on one of its guarded-true slots (R41). -/
theorem State.verdict_blocked {s : State} {c : CtxId} {len : Nat} {slots : List Slot}
    (h : s.verdict c = .blocked len slots) :
    ∃ sl ∈ liveSlots (s.beginBundle c len).me slots, slotWaits sl.ins (s.beginBundle c len) = true := by
  simp only [State.verdict] at h
  -- the checks before the waits, each of which answers another verdict
  iterate 6
    split at h
    · cases h
  split at h
  · next hw =>
    cases h
    exact List.any_eq_true.mp hw
  · cases h

/-- Settles O16: a guarded slot issues through one of four operations, each of which leaves the state under a false guard or marks
the transfer untaken; and a bundle's waits are looked for among its guarded-true slots alone. -/
theorem falseGuardHasNoEffect : Obligations.FalseGuardHasNoEffect := by
  refine ⟨fun s i g h hg => exec_false h hg, fun x hx hj ho hi hd => ?_, fun s c len slots h => ?_⟩
  · rw [Ctx.close_of_inactive ho hi hd]
    simp [Ctx.follow, Ctx.settle, hx, hj]
  · obtain ⟨sl, hsl, hw⟩ := State.verdict_blocked h
    rw [State.beginBundle_me] at hsl
    obtain ⟨hmem, hlive⟩ := mem_liveSlots.mp hsl
    exact ⟨sl, hmem, hlive, hw⟩

end Sys2Proof.Machine
end

section
/-! ## The results of scalar, compare and predicate slots (R114 to R124) -/

namespace Sys2Proof.Machine

open Sys2Proof.Claims

/-! ### Slots that give one result -/

section Gives

variable {i : Instr} {s : State} {g : Pred} {q : Bool}

/-- A scalar slot under a true guard gives the value that it computes. -/
theorem gives_scalar {d : Reg} {n : Nat} {f : Ctx → Word} {P : Word → Prop} (hg : s.me.rp g = true)
    (hi : exec i s = scalar g q d n f s) (hP : P (f s.me)) : gives i s (.x d) n q P :=
  ⟨f s.me, hP, hi.trans (scalar_true q d n f hg)⟩

/-- A compare under a true guard gives 1 where its condition holds and 0 where the condition's negation does. -/
theorem gives_compare {n : PredPair} {f : Ctx → Bool} {C N : Prop} (hg : s.me.rp g = true)
    (hi : exec i s = compare g q n f s) (hC : f s.me = true ↔ C) (hN : ¬ C ↔ N) :
    gives i s (.pair n) 1 q (fun v => (v = 1 ∧ C) ∨ (v = 0 ∧ N)) := by
  refine ⟨ofBool (f s.me), ?_, hi.trans (compare_true q n f hg)⟩
  cases hf : f s.me with
  | true => exact .inl ⟨rfl, hC.mp hf⟩
  | false => exact .inr ⟨rfl, hN.mp fun hc => by simp [hC.mpr hc] at hf⟩

/-- A predicate operation under a true guard gives the bit that it computes. -/
theorem gives_predicate {d : Pred} {f : Ctx → Bool} (hg : s.me.rp g = true) (hi : exec i s = predicate g q d f s) :
    gives i s (.pred d) 1 q (fun v => v = if f s.me then 1 else 0) :=
  ⟨ofBool (f s.me), rfl, hi.trans (predicate_true q d f hg)⟩

end Gives

/-! ### Quotients and remainders (R118) -/

/-- The one signed operand pair whose quotient is no 64-bit value. -/
theorem overflowPair_iff {a b : Word} : a.toInt = -2 ^ 63 ∧ b.toInt = -1 ↔ a = BitVec.intMin 64 ∧ b = -1#64 :=
  and_congr (BitVec.toInt_inj (y := BitVec.intMin 64)) (BitVec.toInt_inj (y := -1#64))

theorem divSigned_of_eq_zero (a : Word) {b : Word} (h : b = 0) : divSigned a b = 0xFFFFFFFFFFFFFFFF := if_pos h

/-- Signed division by another value than zero is that of bit vectors. -/
theorem divSigned_eq_sdiv (a : Word) {b : Word} (h : b ≠ 0) : divSigned a b = a.sdiv b :=
  BitVec.eq_of_toInt_eq <| by rw [divSigned, if_neg h, BitVec.toInt_ofInt, BitVec.toInt_sdiv]

theorem toInt_divSigned_overflow {a b : Word} (h : a.toInt = -2 ^ 63 ∧ b.toInt = -1) :
    (divSigned a b).toInt = -2 ^ 63 := by
  obtain ⟨rfl, rfl⟩ := overflowPair_iff.mp h
  decide

/-- Outside the overflow pair the quotient truncated toward zero is a 64-bit value. -/
theorem toInt_divSigned {a b : Word} (hb : b ≠ 0) (ho : ¬(a.toInt = -2 ^ 63 ∧ b.toInt = -1)) :
    (divSigned a b).toInt = a.toInt.tdiv b.toInt := by
  rw [overflowPair_iff, Classical.not_and_iff_not_or_not] at ho
  rw [divSigned_eq_sdiv a hb, BitVec.toInt_sdiv_of_ne_or_ne a b ho]

theorem remSigned_of_eq_zero (a : Word) {b : Word} (h : b = 0) : remSigned a b = a := if_pos h

theorem remSigned_overflow {a b : Word} (h : a.toInt = -2 ^ 63 ∧ b.toInt = -1) : remSigned a b = 0 := by
  obtain ⟨rfl, rfl⟩ := overflowPair_iff.mp h
  decide

/-- Signed remainder by another value than zero is that of bit vectors. -/
theorem remSigned_eq_srem (a : Word) {b : Word} (h : b ≠ 0) : remSigned a b = a.srem b := by
  rw [remSigned, if_neg h, ← BitVec.toInt_srem, BitVec.ofInt_toInt]

theorem toInt_remSigned (a : Word) {b : Word} (h : b ≠ 0) :
    (remSigned a b).toInt = a.toInt - b.toInt * a.toInt.tdiv b.toInt := by
  rw [remSigned_eq_srem a h, BitVec.toInt_srem, Int.tmod_def]

theorem divUnsigned_of_eq_zero (a : Word) {b : Word} (h : b = 0) : divUnsigned a b = 0xFFFFFFFFFFFFFFFF := if_pos h

theorem toNat_divUnsigned (a : Word) {b : Word} (h : b ≠ 0) : (divUnsigned a b).toNat = a.toNat / b.toNat := by
  rw [divUnsigned, if_neg h, ← BitVec.toNat_udiv, BitVec.ofNat_toNat, BitVec.setWidth_eq]

theorem remUnsigned_of_eq_zero (a : Word) {b : Word} (h : b = 0) : remUnsigned a b = a := if_pos h

theorem toNat_remUnsigned (a : Word) {b : Word} (h : b ≠ 0) :
    (remUnsigned a b).toNat = a.toNat - b.toNat * (a.toNat / b.toNat) := by
  rw [remUnsigned, if_neg h, ← BitVec.toNat_umod, BitVec.ofNat_toNat, BitVec.setWidth_eq, BitVec.toNat_umod,
    Nat.mod_eq_sub]

/-! ### High halves of products (R117) -/

/-- The signed product lies within 2^126 of zero, so that its high half is a 64-bit value. -/
theorem toInt_mulHighSigned (a b : Word) : (mulHighSigned a b).toInt = a.toInt * b.toInt / 2 ^ 64 := by
  have lo : -2 ^ 126 ≤ a.toInt * b.toInt := BitVec.le_toInt_mul_toInt
  have hi : a.toInt * b.toInt ≤ 2 ^ 126 := BitVec.toInt_mul_toInt_le
  exact BitVec.toInt_ofInt_eq_self (by decide) (by omega) (by omega)

theorem toNat_mulHighUnsigned (a b : Word) : (mulHighUnsigned a b).toNat = a.toNat * b.toNat / 2 ^ 64 := by
  have h : a.toNat * b.toNat < 2 ^ 64 * 2 ^ 64 := Nat.mul_lt_mul'' a.isLt b.isLt
  exact Nat.mod_eq_of_lt (Nat.div_lt_of_lt_mul h)

/-- Settles O12, from the values of the quotients, the remainders and the high products: a zero divisor and the overflow pair
apart, they are those of the integers. -/
theorem divisionResults : Obligations.DivisionResults := by
  intro s g q d a b hg A B
  refine ⟨gives_scalar (f := fun x => divSigned (x.rx a) (x.rx b)) hg rfl ?div,
    gives_scalar (f := fun x => remSigned (x.rx a) (x.rx b)) hg rfl ?rem,
    gives_scalar (f := fun x => divUnsigned (x.rx a) (x.rx b)) hg rfl ?divn,
    gives_scalar (f := fun x => remUnsigned (x.rx a) (x.rx b)) hg rfl ?remn,
    gives_scalar (f := fun x => mulHighSigned (x.rx a) (x.rx b)) hg rfl ?mulh,
    gives_scalar (f := fun x => mulHighUnsigned (x.rx a) (x.rx b)) hg rfl ?mulhn⟩
  case div => exact ⟨divSigned_of_eq_zero A, toInt_divSigned_overflow, fun ⟨hB, ho⟩ => toInt_divSigned hB ho⟩
  case rem => exact ⟨remSigned_of_eq_zero A, remSigned_overflow, fun ⟨hB, _⟩ => toInt_remSigned A hB⟩
  case divn => exact ⟨divUnsigned_of_eq_zero A, toNat_divUnsigned A⟩
  case remn => exact ⟨remUnsigned_of_eq_zero A, toNat_remUnsigned A⟩
  case mulh => exact toInt_mulHighSigned A B
  case mulhn => exact toNat_mulHighUnsigned A B

/-! ### Shifts, immediates and extensions (R119 to R121) -/

theorem sext10_eq_ofInt (i : BitVec 10) : sext10 i = BitVec.ofInt 64 i.toInt := rfl

theorem toInt_sext10 (i : BitVec 10) : (sext10 i).toInt = i.toInt := BitVec.toInt_signExtend_of_le (by decide)

theorem toInt_sext15 (i : BitVec 15) : (sext15 i).toInt = i.toInt := BitVec.toInt_signExtend_of_le (by decide)

theorem toNat_shiftLeft_eq_mul (a : Word) (k : Nat) : (a <<< k).toNat = a.toNat * 2 ^ k % 2 ^ 64 := by
  rw [BitVec.toNat_shiftLeft, Nat.shiftLeft_eq]

theorem toNat_ushiftRight_eq_div (a : Word) (k : Nat) : (a >>> k).toNat = a.toNat / 2 ^ k := by
  rw [BitVec.toNat_ushiftRight, Nat.shiftRight_eq_div_pow]

theorem toInt_sshiftRight_eq_div (a : Word) (k : Nat) : (a.sshiftRight k).toInt = a.toInt / 2 ^ k := by
  rw [BitVec.toInt_sshiftRight, Int.shiftRight_eq_div_pow, Int.natCast_pow, Int.cast_ofNat_Int]

/-- `lhi` puts its immediate into the 15 bits that the shift leaves free (R120), so that the two add up. -/
theorem toNat_shiftLeft_or_setWidth (a : Word) (c : BitVec 15) :
    (a <<< 15 ||| c.setWidth 64).toNat = (a.toNat * 2 ^ 15 + c.toNat) % 2 ^ 64 := by
  have hdisj : a <<< 15 &&& c.setWidth 64 = 0#64 := by
    ext j hj
    by_cases h : j < 15
    · simp [h]
    · simp [BitVec.getLsbD_of_ge c j (by omega)]
  rw [← BitVec.add_eq_or_of_and_eq_zero _ _ hdisj, BitVec.toNat_add, toNat_shiftLeft_eq_mul, Nat.mod_add_mod,
    BitVec.toNat_setWidth_of_le (by decide)]

/-- The low `w` bits of a word sign extended: the value of that residue modulo `2 ^ w` nearest to zero. -/
theorem toInt_signExtend_low (a : Word) {w : Nat} (h : w ≤ 64) :
    ((a.extractLsb' 0 w).signExtend 64).toInt = a.toInt.bmod (2 ^ w) := by
  rw [BitVec.toInt_signExtend_of_le h, BitVec.toInt_extractLsb', Nat.shiftRight_zero, BitVec.toInt_eq_toNat_bmod a,
    Int.bmod_bmod_of_dvd (Nat.pow_dvd_pow 2 h)]

/-- The low `w` bits of a word zero extended. -/
theorem toNat_setWidth_low (a : Word) {w : Nat} (h : w ≤ 64) :
    ((a.extractLsb' 0 w).setWidth 64).toNat = a.toNat % 2 ^ w := by
  rw [BitVec.toNat_setWidth_of_le h, BitVec.extractLsb'_toNat, Nat.shiftRight_zero]

/-! ### Counts (R121) -/

/-- What the length `k` of the longest run from 0 below `n` that passes a test says: the test holds below `k`, and fails at `k`
if `k` is below `n`. -/
theorem takeWhile_range_length (p : Nat → Bool) (n : Nat) :
    let k := ((List.range n).takeWhile p).length
    k ≤ n ∧ (∀ j, j < k → p j = true) ∧ (k < n → p k = false) := by
  have hlen : ((List.range n).takeWhile p).length = (List.range n).findIdx (fun j => !p j) := by
    rw [List.takeWhile_eq_take_findIdx_not, List.length_take, Nat.min_eq_left List.findIdx_le_length]
  rw [hlen]
  refine ⟨by simpa using List.findIdx_le_length (xs := List.range n), fun j hj => ?_, fun hk => ?_⟩
  · simpa using List.not_of_lt_findIdx hj
  · have hk' : (List.range n).findIdx (fun j => !p j) < (List.range n).length := by rwa [List.length_range]
    simpa using List.findIdx_getElem (w := hk')

theorem toNat_ofNat_of_le_64 {n : Nat} (h : n ≤ 64) : (BitVec.ofNat 64 n).toNat = n := Nat.mod_eq_of_lt (by omega)

theorem toNat_popCount (a : Word) : (popCount a).toNat = ((List.range 64).filter fun j => a.getLsbD j).length :=
  toNat_ofNat_of_le_64 (by simpa using List.length_filter_le (fun j => a.getLsbD j) (List.range 64))

/-- The bits below the count of trailing zeros are 0, and the bit there is 1. -/
theorem trailingZeros_spec (a : Word) :
    (trailingZeros a).toNat ≤ 64 ∧ (∀ j, j < (trailingZeros a).toNat → a.getLsbD j = false) ∧
    ((trailingZeros a).toNat < 64 → a.getLsbD (trailingZeros a).toNat = true) := by
  obtain ⟨hle, hbelow, hat⟩ := takeWhile_range_length (fun j => !a.getLsbD j) 64
  rw [trailingZeros, toNat_ofNat_of_le_64 hle]
  exact ⟨hle, fun j hj => by simpa using hbelow j hj, fun hk => by simpa using hat hk⟩

/-- With `k` leading zeros a word is below `2 ^ (64 - k)`, and its bit `63 - k` is 1. -/
theorem leadingZeros_spec (a : Word) :
    (leadingZeros a).toNat ≤ 64 ∧ a.toNat < 2 ^ (64 - (leadingZeros a).toNat) ∧
    ((leadingZeros a).toNat < 64 → 2 ^ (63 - (leadingZeros a).toNat) ≤ a.toNat) := by
  obtain ⟨hle, habove, hat⟩ := takeWhile_range_length (fun j => !a.getLsbD (63 - j)) 64
  rw [leadingZeros, toNat_ofNat_of_le_64 hle]
  refine ⟨hle, Nat.lt_pow_two_of_testBit _ fun j hj => ?_, fun hk => Nat.ge_two_pow_of_testBit ?_⟩
  · change a.getLsbD j = false
    by_cases hj' : j < 64
    · have h := habove (63 - j) (by omega)
      rw [show 63 - (63 - j) = j by omega] at h
      simpa using h
    · exact BitVec.getLsbD_of_ge a j (by omega)
  · simpa [BitVec.testBit_toNat] using hat hk

/-- Settles O13, from the values of the shifts, the extensions and the counts. -/
theorem unaryResults : Obligations.UnaryResults := by
  intro s g q d a i k c hg A
  refine ⟨gives_scalar (f := fun x => x.rx a + sext10 i) hg rfl ?addi,
    gives_scalar (f := fun x => x.rx a <<< k.toNat) hg rfl ?shli,
    gives_scalar (f := fun x => x.rx a >>> k.toNat) hg rfl ?shri,
    gives_scalar (f := fun x => (x.rx a).sshiftRight k.toNat) hg rfl ?srai,
    gives_scalar (f := fun _ => sext15 c) hg rfl ?movi,
    gives_scalar (f := fun x => x.rx d <<< 15 ||| c.setWidth 64) hg rfl ?lhi,
    gives_scalar (f := fun x => ((x.rx a).extractLsb' 0 8).signExtend 64) hg rfl ?sx8,
    gives_scalar (f := fun x => ((x.rx a).extractLsb' 0 16).signExtend 64) hg rfl ?sx16,
    gives_scalar (f := fun x => ((x.rx a).extractLsb' 0 32).signExtend 64) hg rfl ?sx32,
    gives_scalar (f := fun x => ((x.rx a).extractLsb' 0 8).setWidth 64) hg rfl ?zx8,
    gives_scalar (f := fun x => ((x.rx a).extractLsb' 0 16).setWidth 64) hg rfl ?zx16,
    gives_scalar (f := fun x => ((x.rx a).extractLsb' 0 32).setWidth 64) hg rfl ?zx32,
    gives_scalar (f := fun x => leadingZeros (x.rx a)) hg rfl ?clz,
    gives_scalar (f := fun x => trailingZeros (x.rx a)) hg rfl ?ctz,
    gives_scalar (f := fun x => popCount (x.rx a)) hg rfl ?popc⟩
  case addi => rw [sext10_eq_ofInt]
  case shli => exact toNat_shiftLeft_eq_mul A k.toNat
  case shri => exact toNat_ushiftRight_eq_div A k.toNat
  case srai => exact toInt_sshiftRight_eq_div A k.toNat
  case movi => exact toInt_sext15 c
  case lhi => exact toNat_shiftLeft_or_setWidth (s.me.rx d) c
  case sx8 | sx16 | sx32 => exact toInt_signExtend_low A (by decide)
  case zx8 | zx16 | zx32 => exact toNat_setWidth_low A (by decide)
  case clz => exact leadingZeros_spec A
  case ctz => exact trailingZeros_spec A
  case popc => exact toNat_popCount A

/-! ### Compares (R123) -/

theorem slt_sext10_iff {a : Word} {i : BitVec 10} : a.slt (sext10 i) = true ↔ a.toInt < i.toInt := by
  rw [BitVec.slt_iff_toInt_lt, toInt_sext10]

theorem sle_sext10_iff {a : Word} {i : BitVec 10} : a.sle (sext10 i) = true ↔ a.toInt ≤ i.toInt := by
  rw [BitVec.sle_iff_toInt_le, toInt_sext10]

/-- Settles O14: each compare tests the condition of its mnemonic, and a predicate operation's value is a single bit. -/
theorem selectAndPredicateResults : Obligations.SelectAndPredicateResults := by
  intro s g q d a b f h k n i hg A B I
  exact ⟨gives_scalar (f := fun x => if x.rp f then x.rx a else x.rx b) hg rfl rfl,
    gives_compare (f := fun x => x.rx a == x.rx b) hg rfl beq_iff_eq Iff.rfl,
    gives_compare (f := fun x => x.rx a != x.rx b) hg rfl bne_iff_ne Decidable.not_not,
    gives_compare (f := fun x => (x.rx a).slt (x.rx b)) hg rfl BitVec.slt_iff_toInt_lt Int.not_lt,
    gives_compare (f := fun x => (x.rx a).sle (x.rx b)) hg rfl BitVec.sle_iff_toInt_le Int.not_le,
    gives_compare (f := fun x => (x.rx a).ult (x.rx b)) hg rfl BitVec.ult_iff_toNat_lt Nat.not_lt,
    gives_compare (f := fun x => (x.rx a).ule (x.rx b)) hg rfl BitVec.ule_iff_toNat_le Nat.not_le,
    gives_compare (f := fun x => x.rx a == sext10 i) hg rfl beq_iff_eq Iff.rfl,
    gives_compare (f := fun x => x.rx a != sext10 i) hg rfl bne_iff_ne Decidable.not_not,
    gives_compare (f := fun x => (x.rx a).slt (sext10 i)) hg rfl slt_sext10_iff Int.not_lt,
    gives_compare (f := fun x => (x.rx a).sle (sext10 i)) hg rfl sle_sext10_iff Int.not_le,
    gives_compare (f := fun x => (x.rx a).ult (sext10 i)) hg rfl BitVec.ult_iff_toNat_lt Nat.not_lt,
    gives_compare (f := fun x => (x.rx a).ule (sext10 i)) hg rfl BitVec.ule_iff_toNat_le Nat.not_le,
    gives_predicate (f := fun x => x.rp h && x.rp k) hg rfl,
    gives_predicate (f := fun x => x.rp h || x.rp k) hg rfl,
    gives_predicate (f := fun x => x.rp h != x.rp k) hg rfl,
    gives_predicate (f := fun x => x.rp h) hg rfl⟩

end Sys2Proof.Machine
end
